-- ==== Sys2Proof/Word.lean ====
section
/-! DEFINITION. The word types of the machine (R2, R27, R32): bytes, 32-bit registers and words, 64-bit
registers, pairs and addresses, and the plainest arithmetic on them. -/

namespace Sys2Proof

abbrev Byte := BitVec 8
abbrev Half := BitVec 16
abbrev Word32 := BitVec 32
abbrev Word64 := BitVec 64

/-- The lanes of one group: home lanes 0 to 31 (R7). -/
abbrev LaneMask := BitVec 32

/-- 1 for true, 0 for false. -/
def b2n (b : Bool) : Nat := if b then 1 else 0

/-- Two 32-bit halves as one 64-bit value, the first argument high (the spec's `{a, b}`). -/
def cat32 (hi lo : Word32) : Word64 := hi ++ lo

def lo32 (x : Word64) : Word32 := x.truncate 32
def hi32 (x : Word64) : Word32 := x.extractLsb' 32 32

end Sys2Proof
end

