-- ==== Sys2Proof/Machine/Tab.lean ====
section
/-! DEFINITION. Sparse tables: lists of key and value with strictly rising keys, and little-endian numbers. -/

namespace Sys2Proof.Machine

abbrev Tab (α : Type) := List (Nat × α)

/-- The entry under key `k`, if one is listed. -/
def tget {α : Type} : Tab α → Nat → Option α
  | [], _ => none
  | (j, x) :: r, k => if k = j then some x else tget r k

/-- The entry under key `k`, or `d`. -/
def tgetD {α : Type} (t : Tab α) (k : Nat) (d : α) : α := (tget t k).getD d

/-- Sets the entry under key `k`, keeping the keys rising. -/
def tput {α : Type} (k : Nat) (x : α) : Tab α → Tab α
  | [] => [(k, x)]
  | (j, y) :: r => if k < j then (k, x) :: (j, y) :: r else if k = j then (k, x) :: r else (j, y) :: tput k x r

/-- Removes the entry under key `k`. -/
def tdel {α : Type} (k : Nat) : Tab α → Tab α
  | [] => []
  | (j, y) :: r => if k = j then tdel k r else (j, y) :: tdel k r

/-- Sets the entry under key `k`, or removes it when it is the value `d` that an unlisted key reads as. -/
def tset {α : Type} [DecidableEq α] (d : α) (k : Nat) (x : α) (t : Tab α) : Tab α :=
  if x = d then tdel k t else tput k x t

/-- Changes the entry under key `k`, if one is listed. -/
def tmod {α : Type} (k : Nat) (f : α → α) : Tab α → Tab α
  | [] => []
  | (j, y) :: r => if k = j then (j, f y) :: r else (j, y) :: tmod k f r

/-- Changes every entry. -/
def tmap {α : Type} (f : α → α) (t : Tab α) : Tab α := t.map (fun e => (e.1, f e.2))

/-- The lowest key of `[a, a + n)` that is not listed. -/
def tfree {α : Type} (t : Tab α) (a : Nat) : Nat → Option Nat
  | 0 => none
  | n + 1 => if (tget t a).isNone then some a else tfree t (a + 1) n

/-- Keys strictly rising. -/
def tsorted {α : Type} : Tab α → Bool
  | [] => true
  | [_] => true
  | (j, _) :: (k, y) :: r => decide (j < k) && tsorted ((k, y) :: r)

/-- Bytes by address, with strictly rising addresses. -/
abbrev Mem := List Host.Cell

/-- Little-endian bytes as a number, and back (R2). -/
def leNat : List Byte → Nat
  | [] => 0
  | b :: r => b.toNat + 256 * leNat r

def leBytes (n : Nat) : Nat → List Byte
  | 0 => []
  | k + 1 => BitVec.ofNat 8 n :: leBytes (n / 256) k

end Sys2Proof.Machine
end

