-- ==== Sys2Proof/Syntax.lean ====
section
/-! DEFINITION. The syntax of the machine: the operand words of an instruction (R31, R39, R43, R45, R47,
R281, R307, R319, R351), the messages and images that events carry, and `Instr`, one constructor for each row of
the table of operations and events. -/

namespace Sys2Proof

/-- The guard field of every base word: bit `gb` of register `gr`, inverted when `gn` (R33). -/
structure Guard where
  gr : BitVec 10
  gb : BitVec 5
  gn : Bool
  deriving DecidableEq, Repr

/-- The prefix word of classes 0 to 2 (R39). -/
structure Pfx where
  sat : Bool
  rm : BitVec 3
  mn : Bool
  mb : BitVec 5
  mr : BitVec 8
  zm : Bool
  sbs : Bool
  sas : Bool
  scs : Bool
  sc : BitVec 10
  deriving DecidableEq, Repr

/-- What follows the base word in the layouts of R37: nothing, an IMM32, a prefix word, or both. -/
inductive Ext where
  | none
  | imm (v : Word32)
  | pfx (p : Pfx)
  | pfxImm (p : Pfx) (v : Word32)
  deriving DecidableEq, Repr

/-- The operands of an instruction of classes 0 to 2 (R31, R37): `md` is MOD<2:0>. -/
structure Alu where
  g : Guard
  md : BitVec 3
  dst : BitVec 10
  sa : BitVec 10
  sb : BitVec 10
  ta : Bool
  tb : Bool
  tc : Bool
  ext : Ext
  deriving DecidableEq, Repr

/-- The base word of an instruction of classes 3 to 7, without OP and LEN (R31, R42): `md` is MOD. -/
structure Base where
  g : Guard
  md : BitVec 4
  dst : BitVec 10
  sa : BitVec 10
  sb : BitVec 10
  ta : Bool
  tb : Bool
  tc : Bool
  deriving DecidableEq, Repr

/-- The memory word (R43). `SLD`, `SRD`, `INVL`, `WB`, `BARW` and `MONITOR` use the same places for the fields
they have (R191, R232, R296, R299); for `BARW`, `ix` is AB. -/
structure MemWord where
  off : Half
  ix : Bool
  ord : BitVec 2
  scope : BitVec 3
  bs : Bool
  sx : Bool
  width : BitVec 3
  lease : BitVec 3
  ty : BitVec 2
  deriving DecidableEq, Repr

/-- The matrix control words E1 and E2 of `MMA` and `MMAT` (R45). -/
structure MmaCtl where
  barEn : Bool
  bar : BitVec 4
  gs : BitVec 3
  acc : Bool
  satI : Bool
  bSigned : Bool
  aSigned : Bool
  kc : BitVec 10
  nb : BitVec 3
  lower : Bool
  force : Bool
  diag : BitVec 8
  ofs : BitVec 8
  deriving DecidableEq, Repr

/-- The Glaze control words E1 and E2 (R47); `MMW` carries the E1 part (R281) and leaves `kb`, `sca`, `ela` 0. -/
structure GlzCtl where
  signed : Bool
  epl : BitVec 2
  rm : BitVec 3
  seed : BitVec 3
  rot : Bool
  rb : BitVec 2
  sck : BitVec 2
  fmt : BitVec 5
  kb : BitVec 8
  sca : BitVec 8
  ela : BitVec 8
  deriving DecidableEq, Repr

/-- E2 of `MMW` (R281). -/
structure MmwCtl where
  gs : BitVec 3
  barEn : Bool
  bar : BitVec 4
  pos : BitVec 8
  deriving DecidableEq, Repr

/-- The copy control word E1 and element word E2 of `CPY`, `CPYT` and `CPYR` (R307). -/
structure CopyCtl where
  mc : BitVec 12
  barEn : Bool
  bar : BitVec 4
  gs : BitVec 3
  dsp : BitVec 2
  ssp : BitVec 2
  np : BitVec 5
  slot : BitVec 3
  satR : Bool
  el : BitVec 2
  deriving DecidableEq, Repr

/-- The control words of `COLL` (R319). -/
structure CollCtl where
  barEn : Bool
  bar : BitVec 4
  gs : BitVec 3
  op : BitVec 2
  fmt : BitVec 2
  kind : BitVec 2
  comm : BitVec 6
  deriving DecidableEq, Repr

/-- E1 of `ENQ`, `DEQ`, `DEQT` and `QCTL`: which queue (R351). -/
structure QueueWord where
  sel : BitVec 2
  qs : Bool
  qr : BitVec 8
  qn : BitVec 12
  deriving DecidableEq, Repr

/-- A thread: the team's key in `State.teams`, its `%gid` and its home lane (R7, R166). -/
structure ThrRef where
  team : Nat
  gid : Nat
  lane : Nat
  deriving DecidableEq, Repr

/-- Who gives a context command (R365): the physical function, a virtual function, or a supervisor thread. -/
inductive CmdSource where
  | pf
  | vf (n : Nat)
  | supervisor
  deriving DecidableEq, Repr

/-- A Fazin message and what its flit says of its sender (R416, R417). `blk` is the register block of the receiving
module end (R423). `val` is a response's VALUE, `mask` a data message's byte mask, `data` its bytes. `dst`, `seq` and `cret` are those
of its flit; `later` says that it is not the first message of its flit, which has been counted with the first. -/
structure Msg where
  blk : Nat
  src : Nat
  inc : Half
  sub : Nat
  tag : Nat
  line : Nat
  wmask : Word32
  aop : BitVec 4
  w64 : Bool
  status : BitVec 3
  val : Word64
  mask : BitVec 128
  data : List Byte
  dsp : BitVec 2
  dst : Nat := 0
  seq : Half := 0#16
  cret : BitVec 24 := 0#24
  later : Bool := false
  deriving DecidableEq, Repr

/-- The header of a flit (R416), and the largest KIND code among its requests (R417), which a protocol check reads too. -/
structure FlitHeader where
  inc : Half := 0#16
  dst : BitVec 12 := 0#12
  src : BitVec 12 := 0#12
  seq : Half := 0#16
  cret : BitVec 24 := 0#24
  cls : BitVec 3
  rsvHigh : BitVec 5
  rsvLow : BitVec 28
  nmsg : BitVec 4
  opc : BitVec 8
  kind : BitVec 4
  deriving DecidableEq, Repr

/-- What the control flit of a message says besides its fields (R416): the module end at which it arrives, DST, SEQ and CRET. -/
structure FlitIn where
  blk : Nat
  dst : Nat := 0
  seq : Half := 0#16
  cret : BitVec 24 := 0#24
  deriving DecidableEq, Repr

/-- An IDENT message (R432). `src` is the agent id its flit carries, `dst`, `seq` and `cret` are what else that flit carries. -/
structure IdentMsg where
  blk : Nat
  src : Nat
  kind : BitVec 4
  inc : Half
  credits : Byte
  firstUnit : Byte
  units : Byte
  wiped : Bool
  dev : BitVec 9
  dst : Nat := 0
  seq : Half := 0#16
  cret : BitVec 24 := 0#24
  deriving DecidableEq, Repr

/-- An ACCEPT message (R432): the incarnation that the die shows, and what its flit says besides. -/
structure AcceptMsg where
  blk : Nat
  src : Nat
  inc : Half
  dst : Nat := 0
  seq : Half := 0#16
  cret : BitVec 24 := 0#24
  deriving DecidableEq, Repr

/-- The receive lanes of a module end to which errors of a flit are attributed, and those of its lanes that have stopped to work (R424, R493). -/
structure LaneErrors where
  lanes : Word64
  dead : Word64 := 0#64
  deriving DecidableEq, Repr

/-- A Kiln image (R465): its public key, security version, the rest of its bytes, and its signature. -/
structure KilnImage where
  readable : Bool
  key : List Byte
  version : Byte
  code : List Byte
  sig : List Byte
  deriving DecidableEq, Repr

/-- What one rank has posted for a collective (R321): its rank, the kind, format, operation and count it names, and its
send elements. -/
structure RankPost where
  rank : Nat
  kind : BitVec 2
  fmt : BitVec 2
  op : BitVec 2
  count : Nat
  elems : List Word32
  deriving DecidableEq, Repr

/-- Where a memory's check finds an error (R131, R222, R468, R470): a line that a tier reads wrongly twice, or corrected; a word of an A-,
W- or C-buffer (space 0, 1, 2) of a team, or a corrected one on a tower; a word of a v register; a line of a core's L1. -/
inductive ErrSite where
  | tier (line words : Nat)
  | tierFixed (line words : Nat)
  | buffer (team space word : Nat)
  | bufferFixed (tower : Nat)
  | reg (t : ThrRef) (r : Nat)
  | l1 (core line : Nat)
  deriving DecidableEq, Repr

/-- Where a register is written from outside the cores, one without behaviour of its own (R4): by Kiln at an offset of system register
space; by the host through a function's BAR0 (R362, R443); in a transaction over I3C at an address, or over SMBus, that writes bytes from an
offset on and then reads `n` bytes from there, or one that assigns the I3C target a dynamic address (R472); or in PCIe configuration space, the size of a function's BAR4 as its log2 and its power state, 1 for D3hot
(R442). -/
inductive RegPlace where
  | sys (off : Nat)
  | bar0 (fn off : Nat)
  | i3c (addr off : Nat) (bytes : List Byte) (n : Nat)
  | smbus (off : Nat) (bytes : List Byte) (n : Nat)
  | assign (addr : Nat)
  | barSize (fn : Nat)
  | power (fn : Nat)
  deriving DecidableEq, Repr

/-- A place in a function's BAR0, BAR2 or BAR4 (R443). -/
structure BarAddr where
  bar : Nat
  off : Nat
  deriving DecidableEq, Repr

/-- A HELLO that Kiln sends to an agent, or to the die without an id at the far end of a module (R432, R497), or that another agent has sent
and that arrives. -/
inductive HelloWay where
  | send (agent : Nat)
  | meet (blk : Nat)
  | come (src : Nat) (flit : FlitIn)
  deriving DecidableEq, Repr

/-- A beat on a bundle of vertical wires (R437): the bundle, its direction, sequence number, 32 bytes and CRC-8. -/
structure VwBeat where
  bundle : Nat
  up : Bool
  seq : Byte
  data : List Byte
  crc : Byte
  deriving DecidableEq, Repr

/-- What stands in the package, as discovery finds it at boot (R433): a W8 or a T1, and the answers of its dies in the order in which they are
first met. -/
structure BootFind where
  t1 : Bool
  dies : List IdentMsg
  deriving DecidableEq, Repr

/-- One constructor for each row of the table of operations and events. An instruction of the Torend instruction set
carries its operand words; an event of the device carries what identifies it. Events that only the outside world gives, and
events without arguments, stand last. -/
inductive Instr where
  /-- NOP (R146): Does nothing; the PC advances. -/
  | nop (f : Alu)
  /-- MOV (R146): Copies a register or a 32-bit immediate to the destination, or a pair with .W. -/
  | mov (f : Alu)
  /-- MOV_IMM64 (R38): Writes a 64-bit immediate from E1 and E2 into a register pair. -/
  | movImm64 (g : Guard) (dst : BitVec 10) (imm : Word64)
  /-- SEL (R146): Selects a or b according to whether the third source is nonzero, or zero with .Z. -/
  | sel (f : Alu)
  /-- IADD (R146): Integer add, wrapped or saturated, at 32 or 64 bits. -/
  | iadd (f : Alu)
  /-- ISUB (R146): Integer subtract, wrapped or saturated. -/
  | isub (f : Alu)
  /-- IMUL (R146): Integer multiply: low, high or wide product. -/
  | imul (f : Alu)
  /-- IMAD (R146): Integer multiply-add, optionally wide. -/
  | imad (f : Alu)
  /-- IDIV (R148): Asynchronous integer quotient rounded toward zero, with the fixed special cases. -/
  | idiv (f : Alu)
  /-- IREM (R148): Asynchronous integer remainder with the sign of the dividend. -/
  | irem (f : Alu)
  /-- IMIN (R146): Signed or unsigned minimum. -/
  | imin (f : Alu)
  /-- IMAX (R146): Signed or unsigned maximum. -/
  | imax (f : Alu)
  /-- IABS (R146): Absolute value, wrapped or saturated. -/
  | iabs (f : Alu)
  /-- INEG (R146): Negation, wrapped or saturated. -/
  | ineg (f : Alu)
  /-- AND (R146): Bitwise AND. -/
  | and (f : Alu)
  /-- OR (R146): Bitwise OR. -/
  | or (f : Alu)
  /-- XOR (R146): Bitwise XOR. -/
  | xor (f : Alu)
  /-- NOT (R146): Bitwise complement. -/
  | not (f : Alu)
  /-- LUT3 (R150): Three-input bitwise table lookup over a, c and the old destination. -/
  | lut3 (f : Alu)
  /-- SHL (R146): Logical shift left. -/
  | shl (f : Alu)
  /-- SHR (R146): Logical or arithmetic shift right. -/
  | shr (f : Alu)
  /-- ROTL (R146): Rotate left by b mod 32. -/
  | rotl (f : Alu)
  /-- BFE (R149): Extracts a bit field, zero- or sign-extended. -/
  | bfe (f : Alu)
  /-- BFI (R149): Inserts the low bits of a into a bit field of c. -/
  | bfi (f : Alu)
  /-- POPC (R146): Counts the 1 bits. -/
  | popc (f : Alu)
  /-- CLZ (R146): Counts leading zeros, 32 for zero. -/
  | clz (f : Alu)
  /-- BREV (R146): Reverses the bit order. -/
  | brev (f : Alu)
  /-- BSEL (R149): Byte select and permute under per-byte selectors. -/
  | bsel (f : Alu)
  /-- CMP (R151): Integer compare that writes one register bit. -/
  | cmp (f : Alu)
  /-- BOP (R151): Boolean operation on two register bits, writing one bit. -/
  | bop (f : Alu)
  /-- LEA (R152): 64-bit address computation with a shifted, sign-extended index. -/
  | lea (f : Alu)
  /-- FADD (R154): FP32 add with one rounding. -/
  | fadd (f : Alu)
  /-- FSUB (R154): FP32 subtract with one rounding. -/
  | fsub (f : Alu)
  /-- FMUL (R154): FP32 multiply with one rounding. -/
  | fmul (f : Alu)
  /-- FFMA (R154): FP32 fused multiply-add with one rounding. -/
  | ffma (f : Alu)
  /-- FDIV (R154): Asynchronous, correctly rounded FP32 divide. -/
  | fdiv (f : Alu)
  /-- FMIN (R155): IEEE minimumNumber. -/
  | fmin (f : Alu)
  /-- FMAX (R155): IEEE maximumNumber. -/
  | fmax (f : Alu)
  /-- FCMP (R156): FP32 compare that writes one register bit. -/
  | fcmp (f : Alu)
  /-- FCLASS (R157): Writes a one-hot class mask of the input. -/
  | fclass (f : Alu)
  /-- FSCALE (R158): Computes a × 2^b with one rounding. -/
  | fscale (f : Alu)
  /-- FRND (R158): Rounds to an integral FP32 value. -/
  | frnd (f : Alu)
  /-- HADD2 (R159): Packed 16-bit add. -/
  | hadd2 (f : Alu)
  /-- HMUL2 (R159): Packed 16-bit multiply. -/
  | hmul2 (f : Alu)
  /-- HFMA2 (R159): Packed 16-bit fused multiply-add. -/
  | hfma2 (f : Alu)
  /-- HMIN2 (R155): Packed 16-bit minimumNumber. -/
  | hmin2 (f : Alu)
  /-- HMAX2 (R155): Packed 16-bit maximumNumber. -/
  | hmax2 (f : Alu)
  /-- HCMP2 (R156): Packed 16-bit compare that writes two bits. -/
  | hcmp2 (f : Alu)
  /-- RCP (R160): Asynchronous, correctly rounded reciprocal on the special-function lanes. -/
  | rcp (f : Alu)
  /-- RSQ (R160): Asynchronous reciprocal square root. -/
  | rsq (f : Alu)
  /-- SQRT (R160): Asynchronous square root under RM. -/
  | sqrt (f : Alu)
  /-- EX2 (R160): Asynchronous base-2 exponential. -/
  | ex2 (f : Alu)
  /-- LG2 (R160): Asynchronous base-2 logarithm. -/
  | lg2 (f : Alu)
  /-- SIN (R160): Asynchronous sine. -/
  | sin (f : Alu)
  /-- COS (R160): Asynchronous cosine. -/
  | cos (f : Alu)
  /-- TANH (R160): Asynchronous hyperbolic tangent. -/
  | tanh (f : Alu)
  /-- FDOT2 (R159): Two-element dot product plus c, rounded once to FP32. -/
  | fdot2 (f : Alu)
  /-- ASYNC_RESULT_WRITE (R129): The result of an asynchronous arithmetic form is written and its register marked full. -/
  | asyncResultWrite (id : Nat)
  /-- CVT (R161): Width conversion among FP32, BF16, FP16 and INT32. -/
  | cvt (f : Alu)
  /-- PACK (R162): Packs two values into two 16-bit elements. -/
  | pack (f : Alu)
  /-- UNPACK (R162): Unpacks two 16-bit elements into a register pair. -/
  | unpack (f : Alu)
  /-- GLZQ (R117): Group rendezvous: rotates, narrows and writes a row to the A-buffer, and sets the record tag. -/
  | glzq (b : Base) (c : GlzCtl)
  /-- GLZD (R118): Group rendezvous: decodes, optionally inverse-rotates, and widens a row into lanes. -/
  | glzd (b : Base) (c : GlzCtl)
  /-- GLZR_FWD (R119): Group rendezvous: forward FP32 rotation of lane values. -/
  | glzrFwd (b : Base) (c : GlzCtl)
  /-- GLZR_INV (R119): Group rendezvous: inverse FP32 rotation of lane values. -/
  | glzrInv (b : Base) (c : GlzCtl)
  /-- RNG (R122): Steps the generator and writes u. -/
  | rng (f : Alu)
  /-- RNG_F (R122): Steps the generator and writes an FP32 value in [0, 1). -/
  | rngF (f : Alu)
  /-- RNG_W (R122): Steps the generator twice and writes a pair. -/
  | rngW (f : Alu)
  /-- RNGSEED (R123): Sets the thread's generator state from a 64-bit source. -/
  | rngseed (f : Alu)
  /-- RNGSEED_MIX (R123): Sets the generator state to Fmix64 of a mixed with b. -/
  | rngseedMix (f : Alu)
  /-- BRA (R163): PC-relative branch. -/
  | bra (b : Base) (e1 : Word32)
  /-- BRX (R164): Indirect branch to a 64-bit address. -/
  | brx (b : Base)
  /-- CALL (R163): PC-relative call that writes the return address to v2:v3. -/
  | call (b : Base) (e1 : Word32)
  /-- CALLX (R164): Indirect call. -/
  | callx (b : Base)
  /-- RET (R164): Return to the address in a pair. -/
  | ret (b : Base)
  /-- EXIT (R165): Thread exits; its live bit clears, which may end the group, team and node. -/
  | exit (b : Base)
  /-- THREAD_SLOT_FREE (R165): An exited thread's last outstanding return arrives and its blocks and slot are freed. -/
  | threadSlotFree (t : ThrRef)
  /-- SAFEPT (R339): Passes on, or, under a pre-emption request, waits for drain and enters the save routine. -/
  | safept (b : Base) (e1 : Word32)
  /-- FORK (R192): Group rendezvous that creates n child groups all or nothing and raises the join barrier's counts. -/
  | fork (b : Base) (e1 : Word32)
  /-- XLANE (R181): Group rendezvous that moves values between lanes. -/
  | xlane (b : Base) (mm : Option Word32)
  /-- VOTE (R182): Group rendezvous vote over a predicate bit. -/
  | vote (b : Base) (mm : Option Word32)
  /-- PEERS (R183): Group rendezvous that compares lane values. -/
  | peers (b : Base) (mm : Option Word32)
  /-- GRED (R184): Group reduction over present lanes. -/
  | gred (b : Base) (mm : Option Word32)
  /-- SCAN (R185): Inclusive or exclusive group prefix scan. -/
  | scan (b : Base) (mm : Option Word32)
  /-- GSYNC (R186): Reconvergence rendezvous acting as a joint CORE-scope FENCE.AR. -/
  | gsync (b : Base) (mm : Option Word32)
  /-- RDSR (R142): Reads a special register into v registers. -/
  | rdsr (b : Base)
  /-- WRSR (R143): Writes a per-thread or context-wide special register. -/
  | wrsr (b : Base)
  /-- WRSR_EXM (R187): Rendezvous of all live threads that writes %exm; zero holds the group. -/
  | wrsrExm (b : Base)
  /-- SMOV (R188): Uniform move into an s register. -/
  | smov (b : Base) (imm : Option Word32)
  /-- SADD (R188): Uniform 64-bit add. -/
  | sadd (b : Base) (imm : Option Word32)
  /-- SSUB (R188): Uniform 64-bit subtract. -/
  | ssub (b : Base) (imm : Option Word32)
  /-- SMUL (R188): Uniform 64-bit multiply. -/
  | smul (b : Base) (imm : Option Word32)
  /-- SAND (R188): Uniform bitwise AND. -/
  | sand (b : Base) (imm : Option Word32)
  /-- SOR (R188): Uniform bitwise OR. -/
  | sor (b : Base) (imm : Option Word32)
  /-- SXOR (R188): Uniform bitwise XOR. -/
  | sxor (b : Base) (imm : Option Word32)
  /-- SSHL (R188): Uniform shift left. -/
  | sshl (b : Base) (imm : Option Word32)
  /-- SSHR (R188): Uniform logical or arithmetic shift right. -/
  | sshr (b : Base) (imm : Option Word32)
  /-- SCMP (R188): Uniform 64-bit compare. -/
  | scmp (b : Base) (imm : Option Word32)
  /-- SLD (R191): Group rendezvous that loads one s register from memory. -/
  | sld (b : Base) (m : MemWord)
  /-- SRD (R191): Group rendezvous that stores one s register to memory. -/
  | srd (b : Base) (m : MemWord)
  /-- S2V (R189): Copies an s register into v registers. -/
  | s2v (b : Base)
  /-- V2S (R190): Rendezvous that copies one lane's v value into an s register. -/
  | v2s (b : Base)
  /-- NSIG (R341): Releases, then signals a graph node. -/
  | nsig (b : Base)
  /-- LD (R225): Global load under type, lease, scope and order. -/
  | ld (b : Base) (m : MemWord) (disp : Option Word32)
  /-- ST (R226): Global store under its type. -/
  | st (b : Base) (m : MemWord) (disp : Option Word32)
  /-- LDA (R225): Load from an A-buffer of the cluster. -/
  | lda (b : Base) (m : MemWord) (disp : Option Word32)
  /-- STA (R226): Store to an A-buffer of the cluster. -/
  | sta (b : Base) (m : MemWord) (disp : Option Word32)
  /-- LDC (R227): Load from the thread's own C row, waiting while the row is empty. -/
  | ldc (b : Base) (m : MemWord) (disp : Option Word32)
  /-- STC (R227): Store to the thread's own C row. -/
  | stc (b : Base) (m : MemWord) (disp : Option Word32)
  /-- ATOM (R229): Global atomic performed at the home. -/
  | atom (b : Base) (m : MemWord) (disp : Option Word32)
  /-- ATOMA (R229): Atomic at an A-buffer atomic unit. -/
  | atoma (b : Base) (m : MemWord) (disp : Option Word32)
  /-- RED (R230): Reduction performed at the home with no return. -/
  | red (b : Base) (m : MemWord) (disp : Option Word32)
  /-- PREF (R231): Prefetches toward the thread without writing a register. -/
  | pref (b : Base) (m : MemWord) (disp : Option Word32)
  /-- LOAD_RETURN (R225): Returned load, atomic or SLD data is written where the registers reside, with poison if any. -/
  | loadReturn (id : Nat)
  /-- INVL (R232): Writes back, then drops, the L1 lines and owned spans of a range. -/
  | invl (b : Base) (m : MemWord)
  /-- WB (R232): Writes back the dirty bytes of a range. -/
  | wb (b : Base) (m : MemWord)
  /-- FENCE (R248): Release, acquire, or both at a scope over every address. -/
  | fence (b : Base)
  /-- BIND (R249): Writes an entry of the team's binding table. -/
  | bind (b : Base) (e1 : Word32)
  /-- UNBIND (R250): Empties one binding entry or all of them. -/
  | unbind (b : Base)
  /-- ACQ (R251): Explicit acquire over the regions bound to an object. -/
  | acq (b : Base)
  /-- REL (R251): Explicit release over the regions bound to an object. -/
  | rel (b : Base)
  /-- RSV (R274): Builds a reservation record from four s registers. -/
  | rsv (b : Base)
  /-- RSV_CLR (R274): Clears a reservation record to UNBUILT. -/
  | rsvClr (b : Base)
  /-- RSVF (R275): Updates one field of a built record. -/
  | rsvf (b : Base) (e1 : Word32)
  /-- RSVQ (R276): Rendezvous that copies a record into four s registers. -/
  | rsvq (b : Base)
  /-- MMA (R279): Posts per-group matrix multiply requests, which are accepted into the request table. -/
  | mma (b : Base) (c : MmaCtl)
  /-- MMAT (R273): Triangular matrix multiply with masked fill and skipped chunks. -/
  | mmat (b : Base) (c : MmaCtl)
  /-- MMZ (R280): Zeroes C tile rows of the active lanes. -/
  | mmz (b : Base)
  /-- MMW (R283): Narrows C rows into an A-buffer record through Glaze. -/
  | mmw (b : Base) (c : GlzCtl) (w : MmwCtl)
  /-- ENGINE_ARBITRATE (R257): On a free engine clock the arbiter picks a burst of up to 8 passes, or a ballast pass. -/
  | engineArbitrate (quad : Nat)
  /-- ENGINE_PASS (R252): One engine pass ends, accumulating into a chunk, or fails on poison. -/
  | enginePass (quad : Nat)
  /-- ME_COMMAND_COMPLETE (R268): 12 clocks after its last pass, a command writes its rows together and makes its barrier arrival. -/
  | meCommandComplete (quad cmd : Nat)
  /-- PUG_LINE_FETCH (R266): Pug fetches a streamed operand line at its home and pins it. -/
  | pugLineFetch (quad cmd line : Nat)
  /-- LANE_BALLAST_PACKET (R453): An idle picker cycle issues 32 zero FMA operations of pending ballast. -/
  | laneBallastPacket (core : Nat)
  /-- BAR_INIT (R288): Initialises a barrier register. -/
  | barInit (b : Base) (imm : Option Word32)
  /-- BAR_ARRIVE (R295): Releases and sets the lane's arrival; the group may arrive. -/
  | barArrive (b : Base)
  /-- BAR_WAIT (R295): Waits until the target phase is released, then acquires. -/
  | barWait (b : Base)
  /-- BAR_TEST (R295): Tests whether the target phase is released, without waiting. -/
  | barTest (b : Base)
  /-- BAR_INVAL (R288): Invalidates a barrier register, or sets it DRAINING. -/
  | barInval (b : Base)
  /-- BAR_EXPECT (R295): Changes the expected count of the open phase. -/
  | barExpect (b : Base) (imm : Option Word32)
  /-- BAR_READ (R295): Returns the barrier image. -/
  | barRead (b : Base)
  /-- BAR_WRITE (R295): Writes the barrier image. -/
  | barWrite (b : Base)
  /-- BARW_INIT (R297): Initialises a barrier word at its home. -/
  | barwInit (b : Base) (m : MemWord) (disp : Option Word32)
  /-- BARW_ARRIVE (R297): Releases, then arrives atomically on a barrier word. -/
  | barwArrive (b : Base) (m : MemWord) (disp : Option Word32)
  /-- BARW_WAIT (R297): Waits for a barrier word's phase bit to change. -/
  | barwWait (b : Base) (m : MemWord) (disp : Option Word32)
  /-- BARW_POLL (R297): A BARW.WAIT without a watcher rereads PH after 256 ns, or 1,000 ns for fabric words. -/
  | barwPoll (t : ThrRef)
  /-- STEP (R298): Releases and arrives on the grid's superstep, then waits. -/
  | step (b : Base)
  /-- MONITOR (R299): Arms the thread's monitor on a line. -/
  | monitor (b : Base) (m : MemWord) (disp : Option Word32)
  /-- MWAIT (R300): Waits for the monitor trigger or a timeout. -/
  | mwait (b : Base)
  /-- MWAIT_TIMEOUT (R300): The MWAIT timeout passes and the thread returns code 2. -/
  | mwaitTimeout (t : ThrRef)
  /-- GSET (R301): Sets a guard slot TRUE, releasing held commands. -/
  | gset (b : Base)
  /-- GSET_OPEN (R301): Sets a guard slot OPEN. -/
  | gsetOpen (b : Base)
  /-- GCLR (R301): Sets a guard slot FALSE, discarding held commands. -/
  | gclr (b : Base)
  /-- CPY (R310): Rendezvous that supplies one part of a copy; the last part accepts the command. -/
  | cpy (b : Base) (c : CopyCtl)
  /-- CPYT (R311): Supplies one part of a transposing copy. -/
  | cpyt (b : Base) (c : CopyCtl)
  /-- CPYR (R312): Supplies one part of a reducing copy. -/
  | cpyr (b : Base) (c : CopyCtl)
  /-- CPYQ (R317): Returns a snapshot of a copy slot. -/
  | cpyq (b : Base)
  /-- CPYQ_J (R317): Returns a snapshot of the issue journal. -/
  | cpyqJ (b : Base)
  /-- SLIP_BEAT (R313): Slip performs one beat at its destination, translating and possibly faulting or failing. -/
  | slipBeat (cmd beat : Nat)
  /-- COPY_COMPLETE (R314): A copy's beats are all performed; it releases, arrives and frees its entries. -/
  | copyComplete (cmd : Nat)
  /-- COPY_REPLAY_START (R316): After the cluster's restore routines finish, REPLAY commands start again from PROG 0. -/
  | copyReplayStart (team : Nat)
  /-- COLL (R319): Rendezvous that posts a collective on a communicator. -/
  | coll (b : Base) (c : CollCtl)
  /-- COLL_MATCH (R321): Every rank has posted sequence s and the collective runs. -/
  | collMatch (coll : Nat) (posts : List RankPost)
  /-- COLL_COMPLETE (R244): A collective completes with its release and acquire over its buffers. -/
  | collComplete (coll : Nat)
  /-- COLL_WATCHDOG (R376): A posted COLL unmatched for the watchdog period fails. -/
  | collWatchdog (coll : Nat)
  /-- ENQ (R354): Releases, then enqueues an item, faulting when it fails. -/
  | enq (b : Base) (q : QueueWord)
  /-- ENQ_TRY (R354): Enqueues and writes success to a bit. -/
  | enqTry (b : Base) (q : QueueWord)
  /-- DEQ (R355): Takes an item, or registers as a waiter. -/
  | deq (b : Base) (q : QueueWord)
  /-- DEQT (R356): Takes an item with a deadline. -/
  | deqt (b : Base) (q : QueueWord)
  /-- DEQT_TIMEOUT (R356): The deadline passes and the consumer returns code 1. -/
  | deqtTimeout (t : ThrRef)
  /-- QCTL_QUERY (R346): Returns a queue's status, HEAD, TAIL or DROP. -/
  | qctlQuery (b : Base) (q : QueueWord)
  /-- QCTL_CREATE (R357): Creates a queue. -/
  | qctlCreate (b : Base) (q : QueueWord)
  /-- QCTL_FREEZE (R345): Freezes a queue. -/
  | qctlFreeze (b : Base) (q : QueueWord)
  /-- QCTL_THAW (R345): Thaws a queue and serves its waiters. -/
  | qctlThaw (b : Base) (q : QueueWord)
  /-- QCTL_DRAIN (R345): Sets a queue DRAINING. -/
  | qctlDrain (b : Base) (q : QueueWord)
  /-- QCTL_DESTROY (R345): Frees a queue, dropping its items and faulting its waiters. -/
  | qctlDestroy (b : Base) (q : QueueWord)
  /-- QCTL_SETPTR (R357): Sets HEAD and TAIL of a frozen queue. -/
  | qctlSetptr (b : Base) (q : QueueWord)
  /-- LAUNCH_QUEUE_ITEM (R329): The device takes a launch-queue item and signals its node. -/
  | launchQueueItem (ctx : Nat)
  /-- DEVICE_ITEM_ENQUEUE (R349): A completion record, fault record or frame return item is enqueued once its queue has room. -/
  | deviceItemEnqueue (item : Nat)
  /-- TRAP (R381): Raises SOFTWARE with code n. -/
  | trap (b : Base)
  /-- SYSCALL (R381): Sends a per-thread record and waits in FAULT_WAIT. -/
  | syscall (b : Base)
  /-- RFT (R382): Returns from the trap handler to %trappc. -/
  | rft (b : Base)
  /-- RFT_TARGET (R382): Returns from the trap handler to a given address. -/
  | rftTarget (b : Base)
  /-- RFT_SAVE (R382): Ends a save routine; the thread is saved. -/
  | rftSave (b : Base)
  /-- RFT_REST (R382): Ends a restore routine and resumes at a given address. -/
  | rftRest (b : Base)
  /-- TEAM_SAVED (R377): A team whose threads are all saved, and whose started CPYRs have read their buffer sources, becomes SAVED and frees its resources. -/
  | teamSaved (team : Nat)
  /-- RDSYS (R383): Reads a system register. -/
  | rdsys (b : Base) (e1 : Word32)
  /-- WRSYS (R383): Writes a system register. -/
  | wrsys (b : Base) (e1 : Word32)
  /-- CTXCTL_CMD (R384): Issues a context command to another context. -/
  | ctxctlCmd (b : Base) (e1 : Word32)
  /-- CTXCTL_EXM (R384): Writes %exm of a held group. -/
  | ctxctlExm (b : Base) (e1 : Word32)
  /-- FRES_RETRY (R385): Retries the threads or copy waiting under a token. -/
  | fresRetry (b : Base)
  /-- FRES_RETRY_D (R385): Retries SYSCALL waiters and writes their v4:v5. -/
  | fresRetryD (b : Base)
  /-- FRES_KILL (R385): Kills the waiting threads, or fails the waiting copy. -/
  | fresKill (b : Base)
  /-- PGMAP_LEAF (R406): Writes a leaf entry with share counting and shootdown. -/
  | pgmapLeaf (b : Base) (e1 : Word32)
  /-- PGMAP_TABLE (R406): Writes a table pointer entry. -/
  | pgmapTable (b : Base) (e1 : Word32)
  /-- PGSHARE (R407): Maps a destination page to the source's frame. -/
  | pgshare (b : Base)
  /-- PGSHARE_COW (R407): Shares a page and marks both copy on write. -/
  | pgshareCow (b : Base)
  /-- PGUNSHARE (R408): Unmaps a page and lowers its frame count. -/
  | pgunshare (b : Base)
  /-- PGMOVE (R409): Moves a page to a new frame. -/
  | pgmove (b : Base)
  /-- PAGE_MOVE_COMPLETE (R409): Once pins are released, the page is copied and remapped, and held accesses proceed. -/
  | pageMoveComplete (move : Nat)
  /-- PGINV (R410): Unmaps a range of pages. -/
  | pginv (b : Base)
  /-- PGINV_ABS (R410): Marks a range of pages ABSENT. -/
  | pginvAbs (b : Base)
  /-- PGINV_TLB (R410): Drops the TLB entries of a range. -/
  | pginvTlb (b : Base)
  /-- PGDIRTY (R411): Returns, clears and flushes the dirty bits of a chunk. -/
  | pgdirty (b : Base)
  /-- PGDIRTY_PEEK (R411): Returns the dirty bits of a chunk without clearing them. -/
  | pgdirtyPeek (b : Base)
  /-- FRAME_RETURN (R397): A frame whose share count fell to 0 is written back and returned to its owner's queue. -/
  | frameReturn (frame : Nat) (va : Word64)
  /-- HOME_WRITE (R235): A write is performed at a home in home order. -/
  | homeWrite (id : Nat)
  /-- MOVE_OUT_START (R134): An idle victim thread is chosen and its registers begin moving to backing. -/
  | moveOutStart (core : Nat) (lane : Nat)
  /-- MOVE_OUT_COMPLETE (R133): The copy to backing completes; the thread is BACKED. -/
  | moveOutComplete (t : ThrRef)
  /-- RECALL_START (R133): A BACKED thread that would be READY starts its recall to the bank. -/
  | recallStart (t : ThrRef)
  /-- RECALL_COMPLETE (R133): The recall completes; held returns are written and the thread is RESIDENT. -/
  | recallComplete (t : ThrRef)
  /-- RENDEZVOUS_WATCHDOG (R376): Participants waiting at different rendezvous PCs for the period raise WATCHDOG. -/
  | rendezvousWatchdog (team gid : Nat)
  /-- PREEMPT_DEADLINE (R377): Counted time runs out before every team is SAVED; the context is FAULTED. -/
  | preemptDeadline (ctx : Nat)
  /-- NODE_SIGNAL (R328): A signal lowers a node's PRED; reaching 0 makes it READY or PENDING, or it is refused. -/
  | nodeSignal (ctx node : Nat)
  /-- PLACEMENT_BLOCK_TIMEOUT (R333): After 100 µs without placement, the head entry blocks later entries. -/
  | placementBlockTimeout (ctx node : Nat)
  /-- RAMP_DEADLINE (R454): A pinned request is not granted by its deadline; the admission is refused or the release forced. -/
  | rampDeadline (request : Nat)
  /-- CLAMP_RAISE (R456): A window's measure exceeds ILIM and the quad's pass count doubles. -/
  | clampRaise (quad : Nat)
  /-- CLAMP_LOWER (R456): After 16 quiet windows the pass count halves, down to FLOOR. -/
  | clampLower (quad : Nat)
  /-- TEARDOWN_COMPLETE (R367): Teardown finishes its write-backs and wipes, and the context is FREE. -/
  | teardownComplete (ctx : Nat)
  /-- SPMAP_DRAIN_COMPLETE (R204): Dirty lines of leaving units are written back and BUSY clears. -/
  | spmapDrainComplete (tower : Nat)
  /-- TRAINING_FAILED (R421): Three attempts fail or 50 µs pass; the module is FAILED. -/
  | trainingFailed (blk : Nat)
  /-- READ_SI_WT (R417): Request KIND 0: read for SI or WT. -/
  | readSiWt (m : Msg)
  /-- READ_OWN (R213): Request KIND 1: read for ownership, recalling overlapping spans. -/
  | readOwn (m : Msg)
  /-- READ_UC (R417): Request KIND 2: uncached read. -/
  | readUc (m : Msg)
  /-- WRITE_BACK (R417): Request KIND 4: write-back of dirty bytes. -/
  | writeBack (m : Msg)
  /-- ATOMIC (R229): Request KIND 5: atomic at the home. -/
  | atomic (m : Msg)
  /-- REDUCE (R230): Request KIND 6: reduction at the home. -/
  | reduce (m : Msg)
  /-- ARM_MONITOR (R293): Request KIND 7: registers a watcher. -/
  | armMonitor (m : Msg)
  /-- RECALL_TIMEOUT (R429): A recall unanswered for 20 µs declares the owner failed. -/
  | recallTimeout (id : Nat)
  /-- HELLO (R432): Control message from Kiln asking a die to identify itself. -/
  | hello (agent : HelloWay)
  /-- FAILED (R431): Kiln tells homes an agent failed; they poison its spans and complete its requests. -/
  | failed (agent : Nat)
  /-- HELLO_TIMEOUT (R429): A die or Fazin-X device not answering HELLO within 10 ms is recorded absent. -/
  | helloTimeout (agent : Nat)
  /-- RATIO_CHANGE_COMPLETE (R460): A ratio stop ends; held returns, faults and queued commands act. -/
  | ratioChangeComplete (quad : Nat)
  /-- OFFLINE_COMPLETE (R461): Once its pinned frames are free, the tower is drained, remapped and gated. -/
  | offlineComplete (tower : Nat)
  /-- FETCH_FAULT (R53): A thread issues at a PC whose 32-byte fetch fails, or whose word decodes to no instruction; the checks of steps 1-4 fault the packet. -/
  | fetchFault (code : Byte) (cause : Nat)
  /-- HOST_BAR4_READ (R443): A host read through BAR4, a translated UC read. -/
  | hostBar4Read (fn : Nat) (off : BarAddr) (size : Nat)
  /-- HOST_BAR4_WRITE (R443): A host write through BAR4, a translated UC write. -/
  | hostBar4Write (fn off : Nat) (bytes : List Byte)
  /-- WRITE (R417): Request KIND 3: write for WT or UC. -/
  | write (m : Msg)
  /-- COPY_BEAT (R417): A copy beat message is performed at its destination. -/
  | copyBeat (m : Msg)
  /-- TIER_WRITE (R417): Request KIND 10: slice writes a memory die. -/
  | tierWrite (m : Msg)
  /-- PAUSE_ACKNOWLEDGED (R421): Every sent flit is acknowledged and the module is PAUSED. -/
  | pauseAcknowledged (blk : Nat)
  /-- TRAINING_DONE (R421): Training completes; the module becomes ACTIVE or PAUSED. -/
  | trainingDone (blk : Nat)
  /-- RETRAIN_DONE (R421): A retrain completes and replay resumes. -/
  | retrainDone (blk : Nat)
  /-- DROP_MONITOR (R293): Request KIND 8: frees a watcher. -/
  | dropMonitor (m : Msg)
  /-- DATA (R417): A data message carries a line's bytes. -/
  | data (m : Msg)
  /-- L1_EVICTION (R217): The L1 evicts a line, writing back dirty bytes and returning owned spans. -/
  | l1Eviction (core line : Nat)
  /-- HOST_ENQUEUE (R347): A 64-byte write to a BAR2 aperture enqueues an item, or is discarded and logged. -/
  | hostEnqueue (fn off : Nat) (bytes : List Byte)
  /-- HOME_UNCORRECTABLE_ERROR (R222): A home's tier read fails twice; the line and frame are poisoned and a record is sent. -/
  | homeUncorrectableError (site : ErrSite)
  /-- PLACEMENT_PASS (R333): The dispatcher walks the ready pool and places clusters where they fit. -/
  | placementPass
  /-- WINDOW_BOUNDARY (R447): Every 100 ns the Damper computes R, G and T, grants requests and divides ballast. -/
  | windowBoundary
  /-- CTX_BUILD (R364): Context command BUILD. -/
  | ctxBuild (src : CmdSource) (ctx : Nat)
  /-- CTX_COMMIT (R366): Context command COMMIT, with its checks. -/
  | ctxCommit (src : CmdSource) (ctx : Nat)
  /-- CTX_RUN (R379): Context command RUN; starts or restores the teams. -/
  | ctxRun (src : CmdSource) (ctx : Nat)
  /-- CTX_PREEMPT (R377): Context command PREEMPT. -/
  | ctxPreempt (src : CmdSource) (ctx : Nat)
  /-- CTX_MIGRATE (R364): Context command MIGRATE. -/
  | ctxMigrate (src : CmdSource) (ctx : Nat)
  /-- CTX_ADOPT (R366): Context command ADOPT of saved team slots. -/
  | ctxAdopt (src : CmdSource) (ctx : Nat)
  /-- CTX_TEARDOWN (R367): Context command TEARDOWN. -/
  | ctxTeardown (src : CmdSource) (ctx : Nat)
  /-- SPMAP_WRITE (R204): A partition map write changes unit assignments or is refused. -/
  | spmapWrite (tower k : Nat) (value : Word64)
  /-- COMMCFG_WRITE (R318): A communicator configuration write, which resets SEQ, or is ignored. -/
  | commcfgWrite (ctx comm : Nat) (table : Bool) (value : Word64)
  /-- STEER_WRITE (R415): A write to an edge's steering table, refused whole if unsafe. -/
  | steerWrite (tower edge : Nat) (value : Word64)
  /-- FXSTEER_WRITE (R439): A write to the Fazin-X port steering entries. -/
  | fxsteerWrite (k : Nat) (value : Word64)
  /-- FXSLOT_WRITE (R497): A slot write with VALID sends HELLO to the named device. -/
  | fxslotWrite (k : Nat) (value : Word64)
  /-- REGISTER_WRITE (R4): A write to a register that has no behaviour of its own. -/
  | registerWrite (off : RegPlace) (value : Word64)
  /-- LINK_PAUSE (R421): LKCTL command PAUSE. -/
  | linkPause (blk : Nat)
  /-- LINK_RESUME (R421): LKCTL command RESUME. -/
  | linkResume (blk : Nat)
  /-- LINK_TRAIN (R421): LKCTL command TRAIN at TGTW with repairs. -/
  | linkTrain (blk : Nat)
  /-- LINK_DISABLE (R421): LKCTL command DISABLE. -/
  | linkDisable (blk : Nat)
  /-- REPLAY_EXHAUSTED (R421): Adapter replay is exhausted or a lane fails; the module retrains. -/
  | replayExhausted (blk : Nat)
  /-- RETRAIN_FAILED (R421): A retrain fails and the module is FAILED. -/
  | retrainFailed (blk : Nat)
  /-- ADAPTER_REPLAY (R424): The adapter replays unacknowledged flits and counts RETRIES, which may set RTH. -/
  | adapterReplay (blk : Nat)
  /-- TIER_READ (R417): Request KIND 9: slice reads a memory die. -/
  | tierRead (m : Msg)
  /-- RESPONSE (R417): A response message completes a request. -/
  | response (m : Msg)
  /-- RECALL (R428): A recall message; the owner writes back the span and drops it. -/
  | recallMsg (m : Msg)
  /-- IDENT (R432): A die identifies itself, joining, rejoining or failing as unasked. -/
  | ident (m : IdentMsg)
  /-- ASSIGN (R432): Kiln assigns an agent id. -/
  | assign (agent : Nat)
  /-- ACCEPT (R432): A die accepts its assigned id. -/
  | accept (agent : Nat) (m : AcceptMsg)
  /-- REFUSE (R436): Kiln refuses a rejoin. -/
  | refuse (agent : Nat) (cause : Nat)
  /-- VW_BEAT_REPLAY (R437): A vertical-wire beat fails its CRC and is replayed. -/
  | vwBeatReplay (slice : Nat) (beat : VwBeat)
  /-- VW_REPAIR (R438): After 4 failed replays a bundle spares a wire, halves width, or the slice is retired. -/
  | vwRepair (slice bundle : Nat) (halfWorks : Bool)
  /-- SETOP (R460): Mailbox command setting a quad's ratio and entry. -/
  | setop (arg : Word64)
  /-- GATE (R459): Mailbox command gating a quad. -/
  | gate (arg : Word64)
  /-- UNGATE (R459): Mailbox command ungating a quad. -/
  | ungate (arg : Word64)
  /-- OFFLINE (R461): Mailbox command taking a tower offline. -/
  | offline (arg : Word64)
  /-- ONLINE (R461): Mailbox command bringing a tower back online. -/
  | online (arg : Word64)
  /-- SETBOUND (R459): Mailbox command setting the Damper bound B. -/
  | setbound (arg : Word64)
  /-- SETFLOOR (R459): Mailbox command setting a quad's pass-count floor. -/
  | setfloor (arg : Word64)
  /-- SETALARM (R459): Mailbox command setting a tower's alarm threshold. -/
  | setalarm (arg : Word64)
  /-- THERMAL_ALARM (R462): TJ reaches ALARM; ALRM is set and vector 3 is sent. -/
  | thermalAlarm (tower : Nat) (tj : Byte)
  /-- THERMAL_TRIP (R462): With no OFFLINE within 20 ms and TJ at 110 °C, the tower trips. -/
  | thermalTrip (tower : Nat) (tj : Byte)
  /-- TOWER_LOST (R462): A tower is lost to a fault; its contexts are FAULTED. -/
  | towerLost (tower : Nat)
  /-- KILN_WATCHDOG_RESET (R463): Kiln without service for 100 ms is reset alone. -/
  | kilnWatchdogReset
  /-- KILN_UPDATE (R465): A new Kiln image is verified and switched to. -/
  | kilnUpdate (image : KilnImage)
  /-- DEVICE_RESET (R464): A device reset runs the boot sequence, wipe and discovery. -/
  | deviceReset
  /-- ATTESTATION_START (R466): ATCTL start begins signing a report. -/
  | attestationStart
  /-- ATTESTATION_COMPLETE (R466): The signed report is written and vector 3 is sent. -/
  | attestationComplete
  /-- LC_PROVISION (R472): Life-cycle request to provision, checking the token. -/
  | lcProvision
  /-- LC_COMMISSION (R472): Life-cycle request to commission. -/
  | lcCommission
  /-- LC_RETURN (R472): Life-cycle request to return. -/
  | lcReturn
  /-- LC_DISPOSE (R472): Life-cycle request to dispose. -/
  | lcDispose
  /-- TKDATA (R472): Appends one token byte. -/
  | tkdata (byte : Byte)
  /-- TKRESET (R472): Discards the token bytes received. -/
  | tkreset
  /-- PROTOCOL_ERROR (R416): A flit arrives with a reserved class, nonzero reserved bits, a bad NMSG, a reserved KIND or an unknown OPC, and the module goes to ERROR. -/
  | protocolError (blk : Nat) (h : FlitHeader)
  /-- FLIT_CRC_FAILURE (R424): A received flit fails the adapter CRC: CRCERR counts, LKLANE attributes the errors, and a replay is requested. -/
  | flitCrcFailure (blk : Nat) (lanes : LaneErrors)
  /-- PCIE_DATA_LINK_DOWN (R441): The PCIe data link goes down, and from then on host-window accesses raise LINK_DOWN. -/
  | pcieDataLinkDown
  /-- PCIE_DATA_LINK_UP (R441): The PCIe data link comes back, and host-window accesses are served again. -/
  | pcieDataLinkUp
  /-- COOLANT_FLOW_LOW (R471): Cold-plate coolant flow falls below 2.0 L/min and Kiln raises the tower alarms. -/
  | coolantFlowLow
  /-- KILN_HANG (R463): Kiln stops servicing, which puts it down: mailbox writes are refused with status 2 and its watchdog starts counting. -/
  | kilnHang
  /-- KILN_RESTART_COMPLETE (R465): After a Kiln-alone reset, the image verifies and Kiln reads back its tables and takes up the mailbox again, or it stays down with the failure in BOOTSTAT. -/
  | kilnRestartComplete
  deriving DecidableEq, Repr

end Sys2Proof
end

