-- ==== Sys2Proof/WellFormed.lean ====
section
/-! DEFINITION. Step 4 of R53, as far as the instruction word alone decides it: field values, reserved fields, lengths and
modifiers (R32 to R51 and the encoding rule of each entry). The limits that the kernel header sets (R127, `.rsv`,
`.cbuf`) are checked when the instruction runs. -/

namespace Sys2Proof

/-! ## Operand rules -/

/-- A pair register: even and nonzero (R32). -/
def isPair (n : BitVec 10) : Bool := n != 0#10 && n.toNat % 2 == 0

/-- A quad register: a nonzero multiple of 4 (R32). -/
def isQuad (n : BitVec 10) : Bool := n != 0#10 && n.toNat % 4 == 0

/-- A field that names an s register has bits 9:8 zero (R32). -/
def isSreg (n : BitVec 10) : Bool := n.toNat < 256

/-- A rounding code of R41 that is not reserved. -/
def isRm (c : BitVec 3) : Bool := c != 7#3

/-- A guard is always legal (R33). A field that the entry does not use is zero (R36). -/
def zeroIf (unused : Bool) (n : BitVec 10) (t : Bool) : Bool := !unused || (n == 0#10 && !t)

/-! ## Classes 0 to 2 (R37 to R41, R144 to R162) -/

/-- How a form of classes 0 to 2 uses its fields: the modifiers it assigns; whether it reads a and b; its third source (0
none, 1 required, 2 optional); whether an IMM32 may replace b, with LEN 10 too; the modifiers under which SAT and RM may be
nonzero; the modifiers under which the destination and the sources are pairs; and whether the s flag of a source that the form
does not read is zero too: R122 and R161 ask it of their forms, R36, R37, R40 and R145 of no other (log entry 63). -/
structure AluForm where
  mods : List Nat
  a : Bool := true
  b : Bool := true
  c : Nat := 0
  imm : Bool := true
  sat : List Nat := []
  rm : Bool := false
  rmMods : List Nat := [0, 1, 2, 3, 4, 5, 6, 7]
  dstPair : List Nat := []
  srcPair : List Nat := []
  bPair : List Nat := []
  dst : Bool := true
  dstBit : Bool := false
  pfx : Bool := true
  sflags : Bool := true
  strict : Bool := false
  longImm : Bool := true
  deriving DecidableEq, Repr

def allMods : List Nat := [0, 1, 2, 3, 4, 5, 6, 7]

/-- The prefix of an instruction, when it has one. -/
def Ext.pfxOf : Ext → Option Pfx
  | .pfx p => some p
  | .pfxImm p _ => some p
  | _ => Option.none

def Ext.immOf : Ext → Option Word32
  | .imm v => some v
  | .pfxImm _ v => some v
  | _ => Option.none

def Alu.sas (f : Alu) : Bool := match f.ext.pfxOf with | some p => p.sas | none => false
def Alu.sbs (f : Alu) : Bool := match f.ext.pfxOf with | some p => p.sbs | none => false
def Alu.scs (f : Alu) : Bool := match f.ext.pfxOf with | some p => p.scs | none => false
def Alu.sc (f : Alu) : BitVec 10 := match f.ext.pfxOf with | some p => p.sc | none => 0#10
def Alu.sat (f : Alu) : Bool := match f.ext.pfxOf with | some p => p.sat | none => false
def Alu.rm (f : Alu) : BitVec 3 := match f.ext.pfxOf with | some p => p.rm | none => 0#3

/-- A source field: an s register under its flag, with its T bit zero (R40), or a v register, a pair where the form says
so. -/
def srcOk (n : BitVec 10) (s t pair : Bool) : Bool :=
  if s then isSreg n && !t else !pair || isPair n

/-- The layout and field rules of R37 to R41 and R145 for a form. -/
def aluWf (F : AluForm) (f : Alu) : Bool :=
  let m := f.md.toNat
  let p := f.ext.pfxOf
  F.mods.contains m
  && (F.dst || f.dst == 0#10)
  && (!F.dstPair.contains m || isPair f.dst)
  && (F.pfx || p.isNone)
  -- operand a
  && (if F.a then srcOk f.sa f.sas f.ta (F.srcPair.contains m) else f.sa == 0#10 && !f.ta && !(F.strict && f.sas))
  -- operand b, or the immediate that replaces it
  && (match f.ext.immOf with
      | some _ => F.imm && f.sb == 0#10 && !f.tb && !f.sbs
      | none => if F.b then srcOk f.sb f.sbs f.tb (F.bPair.contains m) else f.sb == 0#10 && !f.tb && !(F.strict && f.sbs))
  && (match f.ext with | .pfxImm _ _ => F.longImm | _ => true)
  -- the third source
  && (match p with
      | none => F.c != 1 && !f.tc
      | some q => if F.c == 0 then q.sc == 0#10 && !q.scs && !f.tc else srcOk q.sc q.scs f.tc false)
  -- rounding and saturation
  && isRm f.rm
  && (f.rm == 0#3 || (F.rm && F.rmMods.contains m))
  && (!f.sat || F.sat.contains m)
  && (F.sflags || (!f.sas && !f.sbs))

/-- MOV takes its operand from SA, or from an IMM32 with SA and TA zero (R145). -/
def movWf (f : Alu) : Bool :=
  (match f.ext.immOf with
   | some _ => f.sa == 0#10 && !f.ta
   | none => srcOk f.sa f.sas f.ta (f.md == 1#3))
  && aluWf { mods := [0, 1], a := f.ext.immOf.isNone, b := false, imm := true, dstPair := [1], srcPair := [1] } f

/-- LUT3: LEN 10 with a prefix, and a table of 8 bits (R150). -/
def lut3Wf (f : Alu) : Bool :=
  (match f.ext with | .pfxImm _ v => v.toNat < 256 | _ => false)
  && aluWf { mods := [0], b := false, c := 1 } f

/-- The width formats that CVT names: FP32, BF16, FP16, INT32 (R161). -/
def cvtFmt (c : Nat) : Bool := c == 0 || c == 1 || c == 2 || c == 11

def cvtSrc (f : Alu) : Nat := f.sb.toNat % 32
def cvtDst (f : Alu) : Nat := f.sb.toNat / 32

/-- CVT (R161). Any RM and SAT may stand on every pair of formats: which pairs round or saturate is not read into R40 (log entry
64). -/
def cvtWf (f : Alu) : Bool :=
  let m := f.md.toNat
  cvtFmt (cvtSrc f) && cvtFmt (cvtDst f) && f.ext.immOf.isNone && !f.tb && !f.sbs
  && (m % 2 == 0 || cvtSrc f == 11) && (m / 2 % 2 == 0 || cvtDst f == 11)
  && (m / 4 == 0 || cvtSrc f == 1 || cvtSrc f == 2)
  && aluWf { mods := allMods, b := false, imm := false, rm := true, sat := allMods }
      { f with sb := 0#10 }

/-- HCMP2 writes bits i and i + 1, so its bit field is at most 30 (R156). -/
def hcmp2Wf (f : Alu) : Bool :=
  f.dst.toNat / 32 ≤ 30 && aluWf { mods := allMods, dstBit := true } f

def twoSrc : AluForm := { mods := [0] }
def oneSrc : AluForm := { mods := [0], b := false, imm := false }
def satAll : List Nat := allMods

/-- RNG: the layouts of R37 without sources (R122). -/
def rngWf (m : Nat) (f : Alu) : Bool :=
  aluWf { mods := [m], a := false, b := false, imm := false, dstPair := [2], strict := true } f

/-- RNGSEED has no destination, no third source and no zeroing mask; the mixing form takes an IMM32 without a prefix only (R123). -/
def rngseedWf (mix : Bool) (f : Alu) : Bool :=
  f.dst == 0#10 && (match f.ext.pfxOf with | some p => !p.zm | none => true)
  && aluWf { mods := [if mix then 1 else 0], b := mix, imm := mix, longImm := false, dst := false, srcPair := [0, 1] } f

/-! ## Classes 3 to 7 -/

/-- The parts of a base word that a form leaves zero (R36). -/
structure Unused where
  md : Bool := false
  dst : Bool := false
  sa : Bool := false
  sb : Bool := false
  ta : Bool := true
  tb : Bool := true
  tc : Bool := true

def unusedZero (u : Unused) (b : Base) : Bool :=
  (!u.md || b.md == 0#4) && (!u.dst || b.dst == 0#10) && (!u.sa || b.sa == 0#10) && (!u.sb || b.sb == 0#10)
  && (!u.ta || !b.ta) && (!u.tb || !b.tb) && (!u.tc || !b.tc)

/-- BRX, CALLX and RET: the target is a pair, or an s register with MOD 1 (R164). -/
def indirectWf (sForm : Bool) (b : Base) : Bool :=
  unusedZero { dst := true, sb := true, ta := false } b
  && ((b.md == 0#4 && isPair b.sa) || (sForm && b.md == 1#4 && isSreg b.sa && !b.ta))

/-- The special registers of R137: their width in bits, or none for a number that is not listed. -/
def srWidth (n : Nat) : Option Nat :=
  if n ≤ 0x008 then some 32
  else if n = 0x010 ∨ n = 0x011 ∨ n = 0x020 then some 32
  else if n = 0x021 then some 64
  else if 0x030 ≤ n ∧ n ≤ 0x037 then some 32
  else if 0x041 ≤ n ∧ n ≤ 0x046 then some 32
  else if n = 0x050 then some 32
  else if n = 0x051 ∨ n = 0x052 then some 64
  else if n = 0x060 ∨ n = 0x061 then some 64
  else if n = 0x062 ∨ n = 0x063 then some 32
  else if n = 0x064 then some 64
  else if n = 0x065 then some 32
  else none

/-- The special registers that WRSR may name (R137, R143). -/
def srWritable (n : Nat) : Bool :=
  n == 0x010 || n == 0x020 || n == 0x021 || (0x030 ≤ n && n ≤ 0x037) || (0x041 ≤ n && n ≤ 0x046)

def rdsrWf (b : Base) : Bool :=
  unusedZero { md := true, sb := true } b
  && (match srWidth b.sa.toNat with
      | some 64 => b.dst.toNat % 2 == 0
      | some _ => true
      | none => false)

def wrsrWf (b : Base) : Bool :=
  unusedZero { sb := true, ta := false } b && srWritable b.dst.toNat
  && ((b.md == 0#4 && (srWidth b.dst.toNat != some 64 || isPair b.sa)) || (b.md == 1#4 && isSreg b.sa && !b.ta))

/-- A member mask word of 0 is refused (R180). -/
def maskWf (mm : Option Word32) : Bool := mm != some 0#32

/-- XLANE (R181): MOD<2> makes pairs, MOD<3> makes SB a constant. -/
def xlaneWf (b : Base) (mm : Option Word32) : Bool :=
  let w := b.md.getLsbD 2
  let im := b.md.getLsbD 3
  let edge := b.md.toNat % 4 == 2
  maskWf mm && !b.tc && (!w || (isPair b.dst && isPair b.sa))
  && (!im || (!b.tb && (if edge then b.sb.toNat < 64 else b.sb.toNat < 32)))

def voteWf (b : Base) (mm : Option Word32) : Bool :=
  maskWf mm && unusedZero { sb := true, ta := false } b && b.md.toNat < 4

def peersWf (b : Base) (mm : Option Word32) : Bool :=
  maskWf mm && unusedZero { sb := true, ta := false } b && b.md.toNat < 8 && (!b.md.getLsbD 2 || isPair b.sa)

def gredWf (b : Base) (mm : Option Word32) : Bool :=
  maskWf mm && unusedZero { sb := true, ta := false } b && b.md.toNat ≤ 10

def scanWf (b : Base) (mm : Option Word32) : Bool :=
  maskWf mm && unusedZero { sb := true, ta := false } b

/-- S-forms (R188): MOD<3> is 1 exactly with an immediate word. -/
def sformWf (mods : List Nat) (b : Base) (imm : Option Word32) : Bool :=
  unusedZero {} b && isSreg b.dst && isSreg b.sa && isSreg b.sb && mods.contains (b.md.toNat % 8)
  && (b.md.getLsbD 3 == imm.isSome) && (imm.isNone || b.sb == 0#10)

/-- Type and lease (R211, R43): OWN and UC require lease 0; the scope is 0 to 5. -/
def typeLeaseOk (m : MemWord) : Bool := (m.ty.toNat < 2 || m.lease == 0#3) && m.scope.toNat < 6

def sldWf (store : Bool) (b : Base) (m : MemWord) : Bool :=
  unusedZero { md := true, dst := store, sb := !store } b && isSreg b.dst && isSreg b.sa && isSreg b.sb
  && !m.ix && !m.bs && !m.sx && m.width == 0#3 && typeLeaseOk m
  && (m.ord == 0#2 || m.ord == (if store then 2#2 else 1#2))

/-- The base of an address (R43, R223): a pair, or an s register under BS with TA zero. -/
def addrBaseOk (b : Base) (bs : Bool) : Bool := if bs then isSreg b.sa && !b.ta else isPair b.sa

/-- A data register of a width code (R32, R223). -/
def dataRegOk (width : BitVec 3) (n : BitVec 10) : Bool :=
  if width == 3#3 then isPair n else if width == 4#3 then isQuad n else true

/-- The common limits of the memory word (R44): a displacement word needs OFF zero. -/
def memWordOk (m : MemWord) (disp : Option Word32) : Bool :=
  m.width.toNat < 5 && m.scope.toNat < 6 && (disp.isNone || m.off == 0#16)

/-- Loads and stores (R44, R223). `v0` may stand as a destination or a data register of any width only at 32 bits or
less; a pair or quad is nonzero. -/
def ldstWf (store buffer : Bool) (minWidth : Nat) (b : Base) (m : MemWord) (disp : Option Word32) : Bool :=
  memWordOk m disp && b.md == 0#4 && addrBaseOk b m.bs
  && (if m.ix then true else b.sb == 0#10 && !b.tb) && (store || !b.tc)
  && minWidth ≤ m.width.toNat && dataRegOk m.width b.dst
  && (!m.sx || (!store && m.width.toNat < 2))
  && (m.ord == 0#2 || m.ord == (if store then 2#2 else 1#2))
  && (if buffer then m.ty == 0#2 && m.lease == 0#3 && m.scope.toNat < 2 else typeLeaseOk m)

/-- The C-buffer forms further take scope 0 (R44). -/
def ldcWf (store : Bool) (b : Base) (m : MemWord) (disp : Option Word32) : Bool :=
  ldstWf store true 2 b m disp && m.scope == 0#3

/-- ATOM and ATOMA (R223, R228): widths 32 and 64, IX zero, an assigned operation. -/
def atomWf (buffer : Bool) (b : Base) (m : MemWord) (disp : Option Word32) : Bool :=
  let w64 := m.width == 3#3
  let cas := b.md == 9#4
  memWordOk m disp && addrBaseOk b m.bs && !m.ix && !m.sx && (m.width == 2#3 || w64)
  && m.ty == 0#2 && m.lease == 0#3 && (!buffer || m.scope.toNat < 2)
  && b.md.toNat < 13 && (!w64 || b.md.toNat < 10) && (!b.tc || cas)
  && (!w64 || isPair b.dst)
  && (if cas then (if w64 then isQuad b.sb else true) else !w64 || isPair b.sb)

def redWf (b : Base) (m : MemWord) (disp : Option Word32) : Bool :=
  let w64 := m.width == 3#3
  memWordOk m disp && addrBaseOk b m.bs && !m.sx && (m.width == 2#3 || w64)
  && m.ty == 0#2 && m.lease == 0#3 && (if m.ix then true else b.sb == 0#10 && !b.tb)
  && b.md.toNat < 13 && b.md != 8#4 && b.md != 9#4 && (!w64 || (b.md.toNat < 10 && isPair b.dst))
  && (m.ord == 0#2 || m.ord == 2#2)

def prefWf (b : Base) (m : MemWord) (disp : Option Word32) : Bool :=
  memWordOk m disp && b.md == 0#4 && b.dst == 0#10 && addrBaseOk b m.bs && !b.tc
  && (if m.ix then true else b.sb == 0#10 && !b.tb) && !m.sx && m.ord == 0#2 && typeLeaseOk m

/-- INVL and WB (R232). -/
def rangeWf (b : Base) (m : MemWord) : Bool :=
  b.dst == 0#10 && !b.tc && b.md.toNat < 4 && !m.ix && m.ord == 0#2 && m.scope == 0#3 && !m.sx && m.width == 0#3
  && m.lease == 0#3 && m.ty == 0#2
  && (if b.md.getLsbD 0 then
        b.sa == 0#10 && b.sb == 0#10 && !b.ta && !b.tb && m.off == 0#16 && !m.bs
      else addrBaseOk b m.bs && (!b.md.getLsbD 1 || (isSreg b.sb && !b.tb)))

def fenceWf (b : Base) : Bool :=
  unusedZero { dst := true, sa := true } b && 1 ≤ b.md.toNat && b.md.toNat < 4 && b.sb.toNat < 6

def bindWf (b : Base) (e1 : Word32) : Bool :=
  unusedZero {} b && b.dst.toNat < 16 && isSreg b.sa && isSreg b.sb && b.md.toNat < 5
  && (if b.md == 0#4 then e1.toNat < 16 else if b.md == 4#4 then e1 == 0#32 else e1.toNat < 256)

def unbindWf (b : Base) : Bool :=
  unusedZero { sa := true, sb := true } b && ((b.md == 0#4 && b.dst.toNat < 16) || (b.md == 1#4 && b.dst == 0#10))

def acqWf (b : Base) : Bool :=
  unusedZero { dst := true } b && b.md.toNat < 5 && b.sb.toNat < 6
  && (if b.md == 0#4 then b.sa.toNat < 16 else if b.md == 4#4 then b.sa == 0#10 else isSreg b.sa)

def quadSreg (n : BitVec 10) : Bool := n.toNat % 4 == 0 && n.toNat ≤ 252

def rsvWf (clr : Bool) (b : Base) : Bool :=
  unusedZero { sb := true } b && b.dst.toNat < 32 && (if clr then b.md == 1#4 && b.sa == 0#10 else b.md == 0#4 && quadSreg b.sa)

def rsvfWf (b : Base) (e1 : Word32) : Bool :=
  unusedZero { sa := true, sb := true } b && b.dst.toNat < 32 && b.md.toNat < 4 && (b.md.toNat < 2 || e1.toNat < 65536)

def rsvqWf (b : Base) : Bool :=
  unusedZero { md := true, sb := true } b && quadSreg b.dst && b.sa.toNat < 32

/-- MMA and MMAT (R45, R46, R277). -/
def mmaWf (tri : Bool) (b : Base) (c : MmaCtl) : Bool :=
  unusedZero { md := true } b && b.dst.toNat < 32 && b.sa.toNat < 32 && b.sb.toNat < 32
  && c.kc != 0#10 && (c.barEn || c.bar == 0#4) && b.dst.toNat + c.nb.toNat < 32
  && (tri || (c.diag == 0#8 && !c.force && !c.lower))

def mmzWf (b : Base) : Bool :=
  unusedZero { sa := true, sb := true } b && b.md.toNat < 8 && b.dst.toNat < 32 && b.dst.toNat + b.md.toNat < 32

/-- The pairs of element format and scale kind that R83 permits. -/
def scaleOk (fmt sck : Nat) : Bool :=
  sck < 3 && (if fmt ≤ 2 || fmt == 11 then sck == 0 else if fmt == 10 then sck < 2 else fmt < 12)

def isNarrow (fmt : Nat) : Bool := 3 ≤ fmt && fmt ≤ 10
def isNarrowInt (fmt : Nat) : Bool := fmt == 8 || fmt == 9

/-- MMW (R281). -/
def mmwWf (b : Base) (c : GlzCtl) (w : MmwCtl) : Bool :=
  let fmt := c.fmt.toNat
  unusedZero { sb := true } b && b.md.toNat < 8 && b.dst.toNat < 32 && b.sa.toNat < 32 && c.epl == 0#2
  && c.kb == 0#8 && c.sca == 0#8 && c.ela == 0#8
  && fmt < 12 && scaleOk fmt c.sck.toNat && 1 ≤ c.rm.toNat && c.rm.toNat ≤ 5
  && (isNarrow fmt || (c.sck == 0#2 && c.rb == 0#2 && !c.rot && c.seed == 0#3 && !c.signed))
  && (!c.rot || 16 * 2 ^ c.rb.toNat ≤ 32 * (b.md.toNat + 1)) && (c.rot || (c.rb == 0#2 && c.seed == 0#3))
  && (!c.signed || isNarrowInt fmt) && (w.barEn || w.bar == 0#4) && b.sa.toNat + b.md.toNat < 32

/-- The Glaze forms (R48, R114). `kind`: 0 GLZQ, 1 GLZD, 2 GLZR forward, 3 GLZR inverse. -/
def glzWf (kind : Nat) (b : Base) (c : GlzCtl) : Bool :=
  let fmt := c.fmt.toNat
  let epl := 2 ^ c.epl.toNat
  let rot := c.rot || kind == 2
  b.md == 0#4 && b.sb == 0#10 && !b.tb && !b.tc && c.epl != 3#2 && isRm c.rm
  && scaleOk fmt c.sck.toNat && (c.sck != 0#2 || c.sca == 0#8)
  && (!rot || 16 * 2 ^ c.rb.toNat ≤ 32 * epl)
  && (if kind == 0 then b.dst.toNat < 32 && b.sa != 0#10 && b.sa.toNat + epl ≤ 1024 && isNarrow fmt && c.rot
        && (!c.signed || isNarrowInt fmt)
      else if kind == 1 then b.dst != 0#10 && b.dst.toNat + epl ≤ 1024 && b.sa == 0#10 && !b.ta && isNarrow fmt
        && (c.rot || (c.rb == 0#2 && c.seed == 0#3 && c.kb == 0#8)) && (!c.signed || isNarrowInt fmt)
      else b.dst != 0#10 && b.dst.toNat + epl ≤ 1024 && b.sa != 0#10 && b.sa.toNat + epl ≤ 1024 && fmt == 0
        && c.sck == 0#2 && !c.signed && c.ela == 0#8 && c.sca == 0#8 && (c.rot == (kind == 3)))

/-- The configuration of BAR.INIT (R294): BASE 1 to 32 in bits 5:0, CYC in bit 8. -/
def barCfgOk (v : Word32) : Bool :=
  let n := v.toNat
  1 ≤ n % 64 && n % 64 ≤ 32 && n / 64 % 4 == 0 && n / 512 == 0

/-- BAR (R294): the register in SA<3:0>. -/
def barWf (dstZero sbZero : Bool) (b : Base) : Bool :=
  unusedZero { dst := dstZero, sb := sbZero, tb := sbZero } b && b.sa.toNat < 16

/-- BAR.WAIT and BAR.TEST: SB = 0 names no phase, and TB then governs nothing (R34, R294). -/
def barPhaseWf (dstZero : Bool) (b : Base) : Bool := barWf dstZero false b && (b.sb != 0#10 || !b.tb)

def barImmWf (cfg : Bool) (b : Base) (imm : Option Word32) : Bool :=
  barWf true imm.isSome b && (match imm with | some v => !cfg || barCfgOk v | none => true)

/-- BARW (R296); `ix` of the word is AB. -/
def barwWf (kind : Nat) (b : Base) (m : MemWord) (disp : Option Word32) : Bool :=
  !b.tc && addrBaseOk b m.bs && m.ord == 0#2 && !m.sx && m.width == 0#3 && m.lease == 0#3 && m.ty == 0#2
  && m.scope.toNat < 6 && (!m.ix || m.scope.toNat < 2) && (disp.isNone || m.off == 0#16)
  && (if kind == 1 then (b.dst == 0#10 || isPair b.dst) && b.sb == 0#10 && !b.tb else b.dst == 0#10)

def monitorWf (b : Base) (m : MemWord) (disp : Option Word32) : Bool :=
  unusedZero { md := true, dst := true, sb := true, ta := false } b && addrBaseOk b m.bs && !m.ix && m.ord == 0#2
  && m.scope == 0#3 && !m.sx && m.width == 0#3 && m.lease == 0#3 && m.ty == 0#2 && (disp.isNone || m.off == 0#16)

def mwaitWf (b : Base) : Bool :=
  unusedZero { sb := true, ta := false } b
  && ((b.md == 0#4 && b.sa == 0#10 && !b.ta) || b.md == 1#4 || (b.md == 2#4 && isSreg b.sa && !b.ta))

def gsetWf (md : BitVec 4) (b : Base) : Bool :=
  unusedZero { sa := true, sb := true } b && b.md == md && 1 ≤ b.dst.toNat && b.dst.toNat < 8

/-- The part instructions (R306, R307). `kind`: 0 CPY, 1 CPYT, 2 CPYR. -/
def cpyWf (kind : Nat) (b : Base) (c : CopyCtl) : Bool :=
  unusedZero { md := true, dst := true, sb := true } b && quadSreg b.sa && c.ssp != 3#2 && c.dsp != 3#2
  && (c.barEn || c.bar == 0#4) && (c.mc == 0#12 || c.dsp != 0#2) && c.el != 3#2
  && (if kind == 0 then !c.satR && c.el == 0#2
      else if kind == 1 then c.ssp == 0#2 && !c.satR
      else c.dsp == 0#2 && c.mc == 0#12 && (!c.satR || c.el == 2#2))

def cpyqWf (j : Bool) (b : Base) : Bool :=
  unusedZero { sb := true } b && (if j then b.md == 1#4 && b.sa == 0#10 else b.md == 0#4 && b.sa.toNat < 8)

def collWf (b : Base) (c : CollCtl) : Bool :=
  unusedZero { md := true, dst := true, sb := true } b && quadSreg b.sa && c.op != 3#2 && c.fmt != 3#2 && c.kind != 3#2
  && (c.kind != 1#2 || c.op == 0#2) && (c.barEn || c.bar == 0#4)

/-- The queue word (R351). -/
def queueOk (sel : Bool) (q : QueueWord) : Bool :=
  (sel || q.sel == 0#2) && (if q.qs then q.qn == 0#12 else q.qr == 0#8)

def enqWf (try' : Bool) (b : Base) (q : QueueWord) : Bool :=
  queueOk false q && unusedZero { dst := !try', sb := true, ta := false } b && b.md == (if try' then 1#4 else 0#4)
  && b.sa != 0#10 && b.sa.toNat % 16 == 0

def deqWf (timed : Bool) (b : Base) (q : QueueWord) : Bool :=
  queueOk false q && unusedZero { sa := true, sb := !timed, tb := !timed } b && isQuad b.dst
  && b.dst.toNat + 17 < 1024
  && (b.md == 0#4 || (timed && b.md == 1#4 && isSreg b.sb && !b.tb))

def qctlWf (md : BitVec 4) (b : Base) (q : QueueWord) : Bool :=
  queueOk (md == 0#4) q && b.md == md && unusedZero { sa := true } b
  && (if md == 0#4 then isPair b.dst && b.sb == 0#10
      else if md == 1#4 || md == 6#4 then b.dst == 0#10 && quadSreg b.sb
      else b.dst == 0#10 && b.sb == 0#10)

def trapWf (b : Base) : Bool := unusedZero { md := true, dst := true, sb := true } b

def rftWf (md : BitVec 4) (b : Base) : Bool :=
  unusedZero { dst := true, sb := true, ta := false } b && b.md == md
  && (if md == 1#4 || md == 3#4 then isPair b.sa else b.sa == 0#10 && !b.ta)

/-- RDSYS and WRSYS (R383): MOD<0> names an s register. -/
def rdsysWf (w : Bool) (b : Base) : Bool :=
  unusedZero { dst := w, sb := !w, tb := !w } b && b.md.toNat < 2
  && (if b.md == 1#4 then isSreg b.sa else b.sa == 0#10) && (if w then isPair b.sb else isPair b.dst)

def ctxctlWf (exm : Bool) (b : Base) (e1 : Word32) : Bool :=
  unusedZero { sb := !exm } b && isSreg b.sa && isSreg b.sb
  && (if exm then b.md == 1#4 && e1 == 0#32 else b.md == 0#4 && e1.toNat < 16)

def fresWf (md : BitVec 4) (b : Base) : Bool :=
  unusedZero { sb := md != 2#4 } b && b.md == md && isSreg b.sa && isSreg b.sb

/-- The page forms (R405). -/
def pageWf (mds : List Nat) (two pair : Bool) (b : Base) : Bool :=
  unusedZero { sb := !two } b && mds.contains b.md.toNat && isSreg b.sa && isSreg b.sb
  && (!pair || b.dst == 0#10 || isPair b.dst)

def pgmapWf (table : Bool) (b : Base) (e1 : Word32) : Bool :=
  pageWf [if table then 1 else 0] true false b
  && (if table then e1.toNat ≤ 2 else e1 == 2#32 || e1 == 3#32)

/-! ## Every instruction -/

/-- Whether the words of an instruction pass step 4 of R53. An event of the device has no words, and is well formed. -/
def instrWf : Instr → Bool
  | .nop f => f.dst == 0#10 && f.ext == .none && aluWf { mods := [0], a := false, b := false, dst := false } f
  | .mov f => movWf f
  | .movImm64 _ dst _ => isPair dst
  | .sel f => aluWf { mods := [0, 1], c := 1 } f
  | .iadd f | .isub f =>
      aluWf { mods := [0, 1, 4, 5], sat := satAll, dstPair := [4, 5], srcPair := [4, 5], bPair := [4, 5] } f
  | .imul f => aluWf { mods := [0, 1, 2, 3, 4, 5], sat := [0, 1], dstPair := [4, 5] } f
  | .imad f => aluWf { mods := [0, 1, 4, 5], c := 1, sat := [0, 1], dstPair := [4, 5] } f
  | .idiv f | .irem f | .imin f | .imax f => aluWf { mods := [0, 1] } f
  | .iabs f | .ineg f => aluWf { oneSrc with sat := satAll } f
  | .and f | .or f | .xor f => aluWf { mods := [0, 4], dstPair := [4], srcPair := [4], bPair := [4] } f
  | .not f => aluWf oneSrc f
  | .lut3 f => lut3Wf f
  | .shl f => aluWf { mods := [0, 4], dstPair := [4], srcPair := [4], bPair := [4] } f
  | .shr f => aluWf { mods := [0, 1, 4, 5], dstPair := [4, 5], srcPair := [4, 5], bPair := [4, 5] } f
  | .rotl f => aluWf twoSrc f
  | .bfe f => aluWf { mods := [0, 1] } f
  | .bfi f => aluWf { mods := [0], c := 1 } f
  | .popc f | .clz f | .brev f => aluWf oneSrc f
  | .bsel f => aluWf { mods := [0], c := 2 } f
  | .cmp f => aluWf { mods := allMods, dstBit := true } f
  | .bop f => aluWf { mods := allMods, dstBit := true, imm := false, sflags := false } f
  | .lea f => aluWf { mods := [0, 1, 2, 3, 4], dstPair := allMods, srcPair := allMods } f
  | .fadd f | .fsub f | .fmul f | .fdiv f => aluWf { twoSrc with rm := true, sat := satAll } f
  | .ffma f => aluWf { mods := [0], c := 1, rm := true, sat := satAll } f
  | .fmin f | .fmax f => aluWf twoSrc f
  | .fcmp f => aluWf { mods := allMods, dstBit := true } f
  | .fclass f => aluWf oneSrc f
  | .fscale f => aluWf { twoSrc with rm := true, sat := satAll } f
  | .frnd f => aluWf { mods := [0, 1], b := false, imm := false, rm := true } f
  | .hadd2 f | .hmul2 f => aluWf { mods := [0, 1], rm := true, sat := satAll } f
  | .hfma2 f => aluWf { mods := [0, 1], c := 1, rm := true, sat := satAll } f
  | .hmin2 f | .hmax2 f => aluWf { mods := [0, 1] } f
  | .hcmp2 f => hcmp2Wf f
  | .rcp f | .rsq f | .ex2 f | .lg2 f | .sin f | .cos f | .tanh f => aluWf oneSrc f
  | .sqrt f => aluWf { oneSrc with rm := true } f
  | .fdot2 f => aluWf { mods := [0, 1], c := 2, rm := true, sat := satAll } f
  | .cvt f => cvtWf f
  | .pack f => aluWf { mods := [0, 1, 2, 3], rm := true, rmMods := [0, 1], sat := [0, 1] } f
  | .unpack f => aluWf { mods := [0, 1, 2, 3], b := false, imm := false, dstPair := allMods } f
  | .glzq b c => glzWf 0 b c
  | .glzd b c => glzWf 1 b c
  | .glzrFwd b c => glzWf 2 b c
  | .glzrInv b c => glzWf 3 b c
  | .rng f => rngWf 0 f
  | .rngF f => rngWf 1 f
  | .rngW f => rngWf 2 f
  | .rngseed f => rngseedWf false f
  | .rngseedMix f => rngseedWf true f
  | .bra b _ | .call b _ => unusedZero { md := true, dst := true, sa := true, sb := true } b
  | .brx b | .callx b => indirectWf true b
  | .ret b => indirectWf false b
  | .exit b => unusedZero { md := true, dst := true, sa := true, sb := true } b
  | .safept b e1 =>
      unusedZero { md := true, dst := true, sa := true, sb := true } b && e1 != 0#32 && e1.toNat < 256
  | .fork b _ => unusedZero { sb := true } b && isSreg b.dst && isSreg b.sa
  | .xlane b mm => xlaneWf b mm
  | .vote b mm => voteWf b mm
  | .peers b mm => peersWf b mm
  | .gred b mm => gredWf b mm
  | .scan b mm => scanWf b mm
  | .gsync b mm => maskWf mm && unusedZero { md := true, dst := true, sa := true, sb := true } b
  | .rdsr b => rdsrWf b
  | .wrsr b => wrsrWf b && b.dst != 0x010#10
  | .wrsrExm b => wrsrWf b && b.dst == 0x010#10
  | .smov b imm => sformWf [0] b imm && b.sa == 0#10
  | .sadd b imm | .ssub b imm | .smul b imm | .sand b imm | .sor b imm | .sxor b imm | .sshl b imm =>
      sformWf [0] b imm
  | .sshr b imm => sformWf [0, 1] b imm
  | .scmp b imm => sformWf allMods b imm
  | .sld b m => sldWf false b m
  | .srd b m => sldWf true b m
  | .s2v b =>
      unusedZero { sb := true } b && isSreg b.sa && b.md.toNat < 3 && (b.md != 1#4 || isPair b.dst)
  | .v2s b =>
      unusedZero { ta := false } b && isSreg b.dst && b.md.toNat < 4 && (!b.md.getLsbD 0 || isPair b.sa)
        && (if b.md.getLsbD 1 then b.sb == 0#10 else b.sb.toNat < 32)
  | .nsig b =>
      unusedZero { dst := true, sb := true, ta := false } b
        && (b.md == 0#4 || (b.md == 1#4 && isSreg b.sa && !b.ta))
  | .ld b m d => ldstWf false false 0 b m d
  | .st b m d => ldstWf true false 0 b m d
  | .lda b m d => ldstWf false true 0 b m d
  | .sta b m d => ldstWf true true 0 b m d
  | .ldc b m d => ldcWf false b m d
  | .stc b m d => ldcWf true b m d
  | .atom b m d => atomWf false b m d
  | .atoma b m d => atomWf true b m d
  | .red b m d => redWf b m d
  | .pref b m d => prefWf b m d
  | .invl b m | .wb b m => rangeWf b m
  | .fence b => fenceWf b
  | .bind b e1 => bindWf b e1
  | .unbind b => unbindWf b
  | .acq b | .rel b => acqWf b
  | .rsv b => rsvWf false b
  | .rsvClr b => rsvWf true b
  | .rsvf b e1 => rsvfWf b e1
  | .rsvq b => rsvqWf b
  | .mma b c => mmaWf false b c
  | .mmat b c => mmaWf true b c
  | .mmz b => mmzWf b
  | .mmw b c w => mmwWf b c w
  | .barInit b imm => barImmWf true b imm && b.md == 0#4
  | .barArrive b => barWf true true b && b.md == 1#4
  | .barWait b => barPhaseWf true b && b.md == 2#4
  | .barTest b => barPhaseWf false b && b.md == 3#4
  | .barInval b => barWf true true b && b.md == 4#4
  | .barExpect b imm => barImmWf false b imm && b.md == 5#4
  | .barRead b => barWf false true b && b.md == 6#4 && isPair b.dst
  | .barWrite b => barWf true false b && b.md == 7#4 && isPair b.sb
  | .barwInit b m d => barwWf 0 b m d && b.md == 0#4
  | .barwArrive b m d => barwWf 1 b m d && b.md == 1#4
  | .barwWait b m d => barwWf 2 b m d && b.md == 2#4
  | .step b => unusedZero { md := true, dst := true, sa := true, sb := true } b
  | .monitor b m d => monitorWf b m d
  | .mwait b => mwaitWf b
  | .gset b => gsetWf 0#4 b
  | .gsetOpen b => gsetWf 1#4 b
  | .gclr b => gsetWf 0#4 b
  | .cpy b c => cpyWf 0 b c
  | .cpyt b c => cpyWf 1 b c
  | .cpyr b c => cpyWf 2 b c
  | .cpyq b => cpyqWf false b
  | .cpyqJ b => cpyqWf true b
  | .coll b c => collWf b c
  | .enq b q => enqWf false b q
  | .enqTry b q => enqWf true b q
  | .deq b q => deqWf false b q
  | .deqt b q => deqWf true b q
  | .qctlQuery b q => qctlWf 0#4 b q
  | .qctlCreate b q => qctlWf 1#4 b q
  | .qctlFreeze b q => qctlWf 2#4 b q
  | .qctlThaw b q => qctlWf 3#4 b q
  | .qctlDrain b q => qctlWf 4#4 b q
  | .qctlDestroy b q => qctlWf 5#4 b q
  | .qctlSetptr b q => qctlWf 6#4 b q
  | .trap b | .syscall b => trapWf b
  | .rft b => rftWf 0#4 b
  | .rftTarget b => rftWf 1#4 b
  | .rftSave b => rftWf 2#4 b
  | .rftRest b => rftWf 3#4 b
  | .rdsys b _ => rdsysWf false b
  | .wrsys b _ => rdsysWf true b
  | .ctxctlCmd b e1 => ctxctlWf false b e1
  | .ctxctlExm b e1 => ctxctlWf true b e1
  | .fresRetry b => fresWf 0#4 b
  | .fresKill b => fresWf 1#4 b
  | .fresRetryD b => fresWf 2#4 b
  | .pgmapLeaf b e1 => pgmapWf false b e1
  | .pgmapTable b e1 => pgmapWf true b e1
  | .pgshare b => pageWf [0] true false b
  | .pgshareCow b => pageWf [1] true false b
  | .pgunshare b => pageWf [0] false false b
  | .pgmove b => pageWf [0] true false b
  | .pginv b => pageWf [0] true false b
  | .pginvAbs b => pageWf [1] true false b
  | .pginvTlb b => pageWf [2] true false b
  | .pgdirty b => pageWf [0] false true b
  | .pgdirtyPeek b => pageWf [1] false true b
  -- the device's own events carry no instruction word
  | .asyncResultWrite _ | .threadSlotFree _ | .loadReturn _ | .l1Eviction _ _ | .engineArbitrate _
  | .enginePass _ | .meCommandComplete _ _ | .pugLineFetch _ _ _ | .laneBallastPacket _ | .barwPoll _
  | .mwaitTimeout _ | .slipBeat _ _ | .copyComplete _ | .copyReplayStart _ | .collMatch _ _ | .collComplete _
  | .collWatchdog _ | .deqtTimeout _ | .hostEnqueue _ _ _ | .launchQueueItem _ | .deviceItemEnqueue _
  | .teamSaved _ | .pageMoveComplete _ | .frameReturn _ _ | .homeUncorrectableError _ | .homeWrite _
  | .moveOutStart _ _ | .moveOutComplete _ | .recallStart _ | .recallComplete _ | .rendezvousWatchdog _ _
  | .preemptDeadline _ | .nodeSignal _ _ | .placementPass | .placementBlockTimeout _ _ | .windowBoundary
  | .rampDeadline _ | .clampRaise _ | .clampLower _ | .ctxBuild _ _ | .ctxCommit _ _ | .ctxRun _ _
  | .ctxPreempt _ _ | .ctxMigrate _ _ | .ctxAdopt _ _ | .ctxTeardown _ _ | .teardownComplete _
  | .spmapWrite _ _ _ | .spmapDrainComplete _ | .commcfgWrite _ _ _ _ | .steerWrite _ _ _ | .fxsteerWrite _ _
  | .fxslotWrite _ _ | .registerWrite _ _ | .linkPause _ | .linkResume _ | .linkTrain _ | .linkDisable _
  | .pauseAcknowledged _ | .trainingDone _ | .trainingFailed _ | .replayExhausted _ | .retrainDone _
  | .retrainFailed _ | .adapterReplay _ | .readSiWt _ | .readOwn _ | .readUc _ | .write _ | .writeBack _
  | .atomic _ | .reduce _ | .armMonitor _ | .dropMonitor _ | .tierRead _ | .tierWrite _ | .response _ | .data _
  | .recallMsg _ | .copyBeat _ | .recallTimeout _ | .hello _ | .ident _ | .assign _ | .accept _ _ | .refuse _ _
  | .failed _ | .helloTimeout _ | .vwBeatReplay _ _ | .vwRepair _ _ _ | .hostBar4Read _ _ _
  | .hostBar4Write _ _ _ | .setop _ | .ratioChangeComplete _ | .gate _ | .ungate _ | .offline _
  | .offlineComplete _ | .online _ | .setbound _ | .setfloor _ | .setalarm _ | .thermalAlarm _ _
  | .thermalTrip _ _ | .towerLost _ | .kilnWatchdogReset | .kilnUpdate _ | .deviceReset | .attestationStart
  | .attestationComplete | .lcProvision | .lcCommission | .lcReturn | .lcDispose | .tkdata _ | .tkreset
  | .fetchFault _ _ | .protocolError _ _ | .flitCrcFailure _ _ | .pcieDataLinkDown | .pcieDataLinkUp
  | .coolantFlowLow | .kilnHang | .kilnRestartComplete => true

end Sys2Proof
end

