-- ==== Sys2Proof/Decode.lean ====
section
/-! DEFINITION. The decoder, from words to an instruction or none where step 4 of R53 raises ILLOP, and the encoder, both
from the layouts of R31, R37 to R51 and the entries. Words of the first word's LEN 11 are not instructions (R28). -/

namespace Sys2Proof

/-- Bits `lo` to `lo + n - 1`. -/
def fld (x : Word64) (lo n : Nat) : BitVec n := x.extractLsb' lo n
def bitOf (x : Word64) (i : Nat) : Bool := x.getLsbD i

/-! ## The fields of the words -/

/-- The guard field (R33). -/
def guardOf (x : Word64) : Guard := { gr := fld x 21 10, gb := fld x 16 5, gn := bitOf x 15 }

/-- The base word of classes 3 to 7 (R31). -/
def baseOf (x : Word64) : Base :=
  { g := guardOf x, md := fld x 11 4, dst := fld x 31 10, sa := fld x 41 10, sb := fld x 51 10,
    ta := bitOf x 61, tb := bitOf x 62, tc := bitOf x 63 }

/-- The prefix word (R39). -/
def pfxOf (e : Word32) : Pfx :=
  { sat := e.getLsbD 31, rm := e.extractLsb' 28 3, mn := e.getLsbD 27, mb := e.extractLsb' 22 5, mr := e.extractLsb' 14 8,
    zm := e.getLsbD 13, sbs := e.getLsbD 12, sas := e.getLsbD 11, scs := e.getLsbD 10, sc := e.extractLsb' 0 10 }

/-- The memory word (R43). -/
def memWordOf (e : Word32) : MemWord :=
  { off := e.extractLsb' 16 16, ix := e.getLsbD 15, ord := e.extractLsb' 13 2, scope := e.extractLsb' 10 3,
    bs := e.getLsbD 9, sx := e.getLsbD 8, width := e.extractLsb' 5 3, lease := e.extractLsb' 2 3,
    ty := e.extractLsb' 0 2 }

/-- The matrix control words, with their zero bits (R45). -/
def mmaOf (e1 e2 : Word32) : Option MmaCtl :=
  if e1.extractLsb' 25 7 == 0#7 && e2.extractLsb' 18 14 == 0#14 then
    some { barEn := e1.getLsbD 24, bar := e1.extractLsb' 20 4, gs := e1.extractLsb' 17 3, acc := e1.getLsbD 16,
           satI := e1.getLsbD 15, bSigned := e1.getLsbD 14, aSigned := e1.getLsbD 13, kc := e1.extractLsb' 3 10,
           nb := e1.extractLsb' 0 3, lower := e2.getLsbD 17, force := e2.getLsbD 16, diag := e2.extractLsb' 8 8,
           ofs := e2.extractLsb' 0 8 }
  else none

/-- The Glaze control words (R47). -/
def glzOf (e1 e2 : Word32) : Option GlzCtl :=
  if e1.extractLsb' 19 13 == 0#13 && e2.extractLsb' 24 8 == 0#8 then
    some { signed := e1.getLsbD 18, epl := e1.extractLsb' 16 2, rm := e1.extractLsb' 13 3, seed := e1.extractLsb' 10 3,
           rot := e1.getLsbD 9, rb := e1.extractLsb' 7 2, sck := e1.extractLsb' 5 2, fmt := e1.extractLsb' 0 5,
           kb := e2.extractLsb' 16 8, sca := e2.extractLsb' 8 8, ela := e2.extractLsb' 0 8 }
  else none

/-- E2 of MMW (R281). -/
def mmwOf (e2 : Word32) : Option MmwCtl :=
  if e2.extractLsb' 16 16 == 0#16 then
    some { gs := e2.extractLsb' 13 3, barEn := e2.getLsbD 12, bar := e2.extractLsb' 8 4, pos := e2.extractLsb' 0 8 }
  else none

/-- The copy control and element words (R307). -/
def copyOf (e1 e2 : Word32) : Option CopyCtl :=
  if e2.extractLsb' 3 29 == 0#29 then
    some { mc := e1.extractLsb' 20 12, barEn := e1.getLsbD 19, bar := e1.extractLsb' 15 4, gs := e1.extractLsb' 12 3,
           dsp := e1.extractLsb' 10 2, ssp := e1.extractLsb' 8 2, np := e1.extractLsb' 3 5, slot := e1.extractLsb' 0 3,
           satR := e2.getLsbD 2, el := e2.extractLsb' 0 2 }
  else none

/-- The control words of COLL (R319). -/
def collOf (e1 e2 : Word32) : Option CollCtl :=
  if e1.extractLsb' 14 18 == 0#18 && e2.extractLsb' 6 26 == 0#26 then
    some { barEn := e1.getLsbD 13, bar := e1.extractLsb' 9 4, gs := e1.extractLsb' 6 3, op := e1.extractLsb' 4 2,
           fmt := e1.extractLsb' 2 2, kind := e1.extractLsb' 0 2, comm := e2.extractLsb' 0 6 }
  else none

/-- The queue word (R351). -/
def queueOf (e1 : Word32) : Option QueueWord :=
  if e1.extractLsb' 23 9 == 0#9 then
    some { sel := e1.extractLsb' 21 2, qs := e1.getLsbD 20, qr := e1.extractLsb' 12 8, qn := e1.extractLsb' 0 12 }
  else none

/-! ## Layouts: what a form takes at each length (R37, R42, R50) -/

def aluOf (x : Word64) (ext : Ext) : Alu :=
  { g := guardOf x, md := fld x 11 3, dst := fld x 31 10, sa := fld x 41 10, sb := fld x 51 10, ta := bitOf x 61,
    tb := bitOf x 62, tc := bitOf x 63, ext := ext }

/-- The layouts of R37; LEN 10 without a prefix belongs to MOV alone. -/
def aluForm (len : Nat) (x : Word64) (e1 e2 : Word32) : Option Alu :=
  match len, bitOf x 14 with
  | 0, false => some (aluOf x .none)
  | 1, false => some (aluOf x (.imm e1))
  | 1, true => some (aluOf x (.pfx (pfxOf e1)))
  | 2, true => some (aluOf x (.pfxImm (pfxOf e1) e2))
  | _, _ => none

/-- MOV, with the IMM64 layout of R38: MOD, SA, SB and the T bits zero. -/
def movForm (len : Nat) (x : Word64) (e1 e2 : Word32) : Option Instr :=
  if len = 2 ∧ bitOf x 14 = false then
    if fld x 11 4 == 0#4 && fld x 41 23 == 0#23 then some (.movImm64 (guardOf x) (fld x 31 10) (cat32 e2 e1)) else none
  else (aluForm len x e1 e2).map Instr.mov

def baseForm (len : Nat) (x : Word64) : Option Base := if len = 0 then some (baseOf x) else none
def base96Form (len : Nat) (x : Word64) (e1 : Word32) : Option (Base × Word32) :=
  if len = 1 then some (baseOf x, e1) else none
def baseOptForm (len : Nat) (x : Word64) (e1 : Word32) : Option (Base × Option Word32) :=
  if len = 0 then some (baseOf x, none) else if len = 1 then some (baseOf x, some e1) else none
def mem96Form (len : Nat) (x : Word64) (e1 : Word32) : Option (Base × MemWord) :=
  if len = 1 then some (baseOf x, memWordOf e1) else none
def memForm (len : Nat) (x : Word64) (e1 e2 : Word32) : Option (Base × MemWord × Option Word32) :=
  if len = 1 then some (baseOf x, memWordOf e1, none)
  else if len = 2 then some (baseOf x, memWordOf e1, some e2) else none
def mmaForm (len : Nat) (x : Word64) (e1 e2 : Word32) : Option (Base × MmaCtl) :=
  if len = 2 then (mmaOf e1 e2).map (fun c => (baseOf x, c)) else none
def glzForm (len : Nat) (x : Word64) (e1 e2 : Word32) : Option (Base × GlzCtl) :=
  if len = 2 then (glzOf e1 e2).map (fun c => (baseOf x, c)) else none
def mmwForm (len : Nat) (x : Word64) (e1 e2 : Word32) : Option (Base × GlzCtl × MmwCtl) :=
  if len = 2 then (glzOf e1 0#32).bind (fun c => (mmwOf e2).map (fun w => (baseOf x, c, w))) else none
def copyForm (len : Nat) (x : Word64) (e1 e2 : Word32) : Option (Base × CopyCtl) :=
  if len = 2 then (copyOf e1 e2).map (fun c => (baseOf x, c)) else none
def collForm (len : Nat) (x : Word64) (e1 e2 : Word32) : Option (Base × CollCtl) :=
  if len = 2 then (collOf e1 e2).map (fun c => (baseOf x, c)) else none
def queueForm (len : Nat) (x : Word64) (e1 : Word32) : Option (Base × QueueWord) :=
  if len = 1 then (queueOf e1).map (fun q => (baseOf x, q)) else none

/-! ## The opcode map (R49, R50, R51) -/

/-- The instruction that opcode `op` names; an opcode or modifier that is not assigned, or a length that the opcode map does
not list, names none. -/
def byOpcode (op len : Nat) (x : Word64) (e1 e2 : Word32) : Option Instr :=
  let mod4 := (fld x 11 4).toNat
  let mod3 := (fld x 11 3).toNat
  match op with
  | 0x000 => (aluForm len x e1 e2).map Instr.nop
  | 0x001 => movForm len x e1 e2
  | 0x002 => (aluForm len x e1 e2).map Instr.sel
  | 0x003 => (aluForm len x e1 e2).map Instr.iadd
  | 0x004 => (aluForm len x e1 e2).map Instr.isub
  | 0x005 => (aluForm len x e1 e2).map Instr.imul
  | 0x006 => (aluForm len x e1 e2).map Instr.imad
  | 0x007 => (aluForm len x e1 e2).map Instr.idiv
  | 0x008 => (aluForm len x e1 e2).map Instr.irem
  | 0x009 => (aluForm len x e1 e2).map Instr.imin
  | 0x00A => (aluForm len x e1 e2).map Instr.imax
  | 0x00B => (aluForm len x e1 e2).map Instr.iabs
  | 0x00C => (aluForm len x e1 e2).map Instr.ineg
  | 0x00D => (aluForm len x e1 e2).map Instr.and
  | 0x00E => (aluForm len x e1 e2).map Instr.or
  | 0x00F => (aluForm len x e1 e2).map Instr.xor
  | 0x010 => (aluForm len x e1 e2).map Instr.not
  | 0x011 => (aluForm len x e1 e2).map Instr.lut3
  | 0x012 => (aluForm len x e1 e2).map Instr.shl
  | 0x013 => (aluForm len x e1 e2).map Instr.shr
  | 0x014 => (aluForm len x e1 e2).map Instr.rotl
  | 0x015 => (aluForm len x e1 e2).map Instr.bfe
  | 0x016 => (aluForm len x e1 e2).map Instr.bfi
  | 0x017 => (aluForm len x e1 e2).map Instr.popc
  | 0x018 => (aluForm len x e1 e2).map Instr.clz
  | 0x019 => (aluForm len x e1 e2).map Instr.brev
  | 0x01A => (aluForm len x e1 e2).map Instr.bsel
  | 0x01B => (aluForm len x e1 e2).map Instr.cmp
  | 0x01C => (aluForm len x e1 e2).map Instr.bop
  | 0x01D => (aluForm len x e1 e2).map Instr.lea
  | 0x040 => (aluForm len x e1 e2).map Instr.fadd
  | 0x041 => (aluForm len x e1 e2).map Instr.fsub
  | 0x042 => (aluForm len x e1 e2).map Instr.fmul
  | 0x043 => (aluForm len x e1 e2).map Instr.ffma
  | 0x044 => (aluForm len x e1 e2).map Instr.fdiv
  | 0x045 => (aluForm len x e1 e2).map Instr.fmin
  | 0x046 => (aluForm len x e1 e2).map Instr.fmax
  | 0x047 => (aluForm len x e1 e2).map Instr.fcmp
  | 0x048 => (aluForm len x e1 e2).map Instr.fclass
  | 0x049 => (aluForm len x e1 e2).map Instr.fscale
  | 0x04A => (aluForm len x e1 e2).map Instr.frnd
  | 0x04B => (aluForm len x e1 e2).map Instr.hadd2
  | 0x04C => (aluForm len x e1 e2).map Instr.hmul2
  | 0x04D => (aluForm len x e1 e2).map Instr.hfma2
  | 0x04E => (aluForm len x e1 e2).map Instr.hmin2
  | 0x04F => (aluForm len x e1 e2).map Instr.hmax2
  | 0x050 => (aluForm len x e1 e2).map Instr.hcmp2
  | 0x051 => (aluForm len x e1 e2).map Instr.rcp
  | 0x052 => (aluForm len x e1 e2).map Instr.rsq
  | 0x053 => (aluForm len x e1 e2).map Instr.sqrt
  | 0x054 => (aluForm len x e1 e2).map Instr.ex2
  | 0x055 => (aluForm len x e1 e2).map Instr.lg2
  | 0x056 => (aluForm len x e1 e2).map Instr.sin
  | 0x057 => (aluForm len x e1 e2).map Instr.cos
  | 0x058 => (aluForm len x e1 e2).map Instr.tanh
  | 0x059 => (aluForm len x e1 e2).map Instr.fdot2
  | 0x080 => (aluForm len x e1 e2).map Instr.cvt
  | 0x081 => (aluForm len x e1 e2).map Instr.pack
  | 0x082 => (aluForm len x e1 e2).map Instr.unpack
  | 0x083 => (glzForm len x e1 e2).map (fun p => Instr.glzq p.1 p.2)
  | 0x084 => (glzForm len x e1 e2).map (fun p => Instr.glzd p.1 p.2)
  | 0x085 => if e1.getLsbD 9 then (glzForm len x e1 e2).map (fun p => Instr.glzrInv p.1 p.2) else (glzForm len x e1 e2).map (fun p => Instr.glzrFwd p.1 p.2)
  | 0x086 =>
    match mod3 with
    | 0 => (aluForm len x e1 e2).map Instr.rng
    | 1 => (aluForm len x e1 e2).map Instr.rngF
    | 2 => (aluForm len x e1 e2).map Instr.rngW
    | _ => none
  | 0x087 =>
    match mod3 with
    | 0 => (aluForm len x e1 e2).map Instr.rngseed
    | 1 => (aluForm len x e1 e2).map Instr.rngseedMix
    | _ => none
  | 0x0C0 => (base96Form len x e1).map (fun p => Instr.bra p.1 p.2)
  | 0x0C1 => (baseForm len x).map Instr.brx
  | 0x0C2 => (base96Form len x e1).map (fun p => Instr.call p.1 p.2)
  | 0x0C3 => (baseForm len x).map Instr.callx
  | 0x0C4 => (baseForm len x).map Instr.ret
  | 0x0C5 => (baseForm len x).map Instr.exit
  | 0x0C6 => (base96Form len x e1).map (fun p => Instr.safept p.1 p.2)
  | 0x0C7 => (base96Form len x e1).map (fun p => Instr.fork p.1 p.2)
  | 0x0C8 => (baseOptForm len x e1).map (fun p => Instr.xlane p.1 p.2)
  | 0x0C9 => (baseOptForm len x e1).map (fun p => Instr.vote p.1 p.2)
  | 0x0CA => (baseOptForm len x e1).map (fun p => Instr.peers p.1 p.2)
  | 0x0CB => (baseOptForm len x e1).map (fun p => Instr.gred p.1 p.2)
  | 0x0CC => (baseOptForm len x e1).map (fun p => Instr.scan p.1 p.2)
  | 0x0CD => (baseOptForm len x e1).map (fun p => Instr.gsync p.1 p.2)
  | 0x0CE => (baseForm len x).map Instr.rdsr
  | 0x0CF => if (fld x 31 10 == 0x010#10) then (baseForm len x).map Instr.wrsrExm else (baseForm len x).map Instr.wrsr
  | 0x0D0 => (baseOptForm len x e1).map (fun p => Instr.smov p.1 p.2)
  | 0x0D1 => (baseOptForm len x e1).map (fun p => Instr.sadd p.1 p.2)
  | 0x0D2 => (baseOptForm len x e1).map (fun p => Instr.ssub p.1 p.2)
  | 0x0D3 => (baseOptForm len x e1).map (fun p => Instr.smul p.1 p.2)
  | 0x0D4 => (baseOptForm len x e1).map (fun p => Instr.sand p.1 p.2)
  | 0x0D5 => (baseOptForm len x e1).map (fun p => Instr.sor p.1 p.2)
  | 0x0D6 => (baseOptForm len x e1).map (fun p => Instr.sxor p.1 p.2)
  | 0x0D7 => (baseOptForm len x e1).map (fun p => Instr.sshl p.1 p.2)
  | 0x0D8 => (baseOptForm len x e1).map (fun p => Instr.sshr p.1 p.2)
  | 0x0D9 => (baseOptForm len x e1).map (fun p => Instr.scmp p.1 p.2)
  | 0x0DA => (mem96Form len x e1).map (fun p => Instr.sld p.1 p.2)
  | 0x0DB => (mem96Form len x e1).map (fun p => Instr.srd p.1 p.2)
  | 0x0DC => (baseForm len x).map Instr.s2v
  | 0x0DD => (baseForm len x).map Instr.v2s
  | 0x0DE => (baseForm len x).map Instr.nsig
  | 0x100 => (memForm len x e1 e2).map (fun p => Instr.ld p.1 p.2.1 p.2.2)
  | 0x101 => (memForm len x e1 e2).map (fun p => Instr.st p.1 p.2.1 p.2.2)
  | 0x102 => (memForm len x e1 e2).map (fun p => Instr.lda p.1 p.2.1 p.2.2)
  | 0x103 => (memForm len x e1 e2).map (fun p => Instr.sta p.1 p.2.1 p.2.2)
  | 0x104 => (memForm len x e1 e2).map (fun p => Instr.ldc p.1 p.2.1 p.2.2)
  | 0x105 => (memForm len x e1 e2).map (fun p => Instr.stc p.1 p.2.1 p.2.2)
  | 0x106 => (memForm len x e1 e2).map (fun p => Instr.atom p.1 p.2.1 p.2.2)
  | 0x107 => (memForm len x e1 e2).map (fun p => Instr.atoma p.1 p.2.1 p.2.2)
  | 0x108 => (memForm len x e1 e2).map (fun p => Instr.red p.1 p.2.1 p.2.2)
  | 0x109 => (memForm len x e1 e2).map (fun p => Instr.pref p.1 p.2.1 p.2.2)
  | 0x10A => (mem96Form len x e1).map (fun p => Instr.invl p.1 p.2)
  | 0x10B => (mem96Form len x e1).map (fun p => Instr.wb p.1 p.2)
  | 0x10C => (baseForm len x).map Instr.fence
  | 0x10D => (base96Form len x e1).map (fun p => Instr.bind p.1 p.2)
  | 0x10E => (baseForm len x).map Instr.unbind
  | 0x10F => (baseForm len x).map Instr.acq
  | 0x110 => (baseForm len x).map Instr.rel
  | 0x140 =>
    match mod4 with
    | 0 => (baseForm len x).map Instr.rsv
    | 1 => (baseForm len x).map Instr.rsvClr
    | _ => none
  | 0x141 => (base96Form len x e1).map (fun p => Instr.rsvf p.1 p.2)
  | 0x142 => (baseForm len x).map Instr.rsvq
  | 0x143 => (mmaForm len x e1 e2).map (fun p => Instr.mma p.1 p.2)
  | 0x144 => (mmaForm len x e1 e2).map (fun p => Instr.mmat p.1 p.2)
  | 0x145 => (baseForm len x).map Instr.mmz
  | 0x146 => (mmwForm len x e1 e2).map (fun p => Instr.mmw p.1 p.2.1 p.2.2)
  | 0x180 =>
    match mod4 with
    | 0 => (baseOptForm len x e1).map (fun p => Instr.barInit p.1 p.2)
    | 1 => (baseForm len x).map Instr.barArrive
    | 2 => (baseForm len x).map Instr.barWait
    | 3 => (baseForm len x).map Instr.barTest
    | 4 => (baseForm len x).map Instr.barInval
    | 5 => (baseOptForm len x e1).map (fun p => Instr.barExpect p.1 p.2)
    | 6 => (baseForm len x).map Instr.barRead
    | 7 => (baseForm len x).map Instr.barWrite
    | _ => none
  | 0x181 =>
    match mod4 with
    | 0 => (memForm len x e1 e2).map (fun p => Instr.barwInit p.1 p.2.1 p.2.2)
    | 1 => (memForm len x e1 e2).map (fun p => Instr.barwArrive p.1 p.2.1 p.2.2)
    | 2 => (memForm len x e1 e2).map (fun p => Instr.barwWait p.1 p.2.1 p.2.2)
    | _ => none
  | 0x182 => (baseForm len x).map Instr.step
  | 0x183 => (memForm len x e1 e2).map (fun p => Instr.monitor p.1 p.2.1 p.2.2)
  | 0x184 => (baseForm len x).map Instr.mwait
  | 0x185 =>
    match mod4 with
    | 0 => (baseForm len x).map Instr.gset
    | 1 => (baseForm len x).map Instr.gsetOpen
    | _ => none
  | 0x186 => (baseForm len x).map Instr.gclr
  | 0x187 => (copyForm len x e1 e2).map (fun p => Instr.cpy p.1 p.2)
  | 0x188 => (copyForm len x e1 e2).map (fun p => Instr.cpyt p.1 p.2)
  | 0x189 => (copyForm len x e1 e2).map (fun p => Instr.cpyr p.1 p.2)
  | 0x18A =>
    match mod4 with
    | 0 => (baseForm len x).map Instr.cpyq
    | 1 => (baseForm len x).map Instr.cpyqJ
    | _ => none
  | 0x18B => (collForm len x e1 e2).map (fun p => Instr.coll p.1 p.2)
  | 0x18C =>
    match mod4 with
    | 0 => (queueForm len x e1).map (fun p => Instr.enq p.1 p.2)
    | 1 => (queueForm len x e1).map (fun p => Instr.enqTry p.1 p.2)
    | _ => none
  | 0x18D => (queueForm len x e1).map (fun p => Instr.deq p.1 p.2)
  | 0x18E => (queueForm len x e1).map (fun p => Instr.deqt p.1 p.2)
  | 0x18F =>
    match mod4 with
    | 0 => (queueForm len x e1).map (fun p => Instr.qctlQuery p.1 p.2)
    | 1 => (queueForm len x e1).map (fun p => Instr.qctlCreate p.1 p.2)
    | 2 => (queueForm len x e1).map (fun p => Instr.qctlFreeze p.1 p.2)
    | 3 => (queueForm len x e1).map (fun p => Instr.qctlThaw p.1 p.2)
    | 4 => (queueForm len x e1).map (fun p => Instr.qctlDrain p.1 p.2)
    | 5 => (queueForm len x e1).map (fun p => Instr.qctlDestroy p.1 p.2)
    | 6 => (queueForm len x e1).map (fun p => Instr.qctlSetptr p.1 p.2)
    | _ => none
  | 0x1C0 => (baseForm len x).map Instr.trap
  | 0x1C1 =>
    match mod4 with
    | 0 => (baseForm len x).map Instr.rft
    | 1 => (baseForm len x).map Instr.rftTarget
    | 2 => (baseForm len x).map Instr.rftSave
    | 3 => (baseForm len x).map Instr.rftRest
    | _ => none
  | 0x1C2 => (baseForm len x).map Instr.syscall
  | 0x1C3 => (base96Form len x e1).map (fun p => Instr.rdsys p.1 p.2)
  | 0x1C4 => (base96Form len x e1).map (fun p => Instr.wrsys p.1 p.2)
  | 0x1C5 =>
    match mod4 with
    | 0 => (base96Form len x e1).map (fun p => Instr.ctxctlCmd p.1 p.2)
    | 1 => (base96Form len x e1).map (fun p => Instr.ctxctlExm p.1 p.2)
    | _ => none
  | 0x1C6 =>
    match mod4 with
    | 0 => (baseForm len x).map Instr.fresRetry
    | 1 => (baseForm len x).map Instr.fresKill
    | 2 => (baseForm len x).map Instr.fresRetryD
    | _ => none
  | 0x1C7 =>
    match mod4 with
    | 0 => (base96Form len x e1).map (fun p => Instr.pgmapLeaf p.1 p.2)
    | 1 => (base96Form len x e1).map (fun p => Instr.pgmapTable p.1 p.2)
    | _ => none
  | 0x1C8 =>
    match mod4 with
    | 0 => (baseForm len x).map Instr.pgshare
    | 1 => (baseForm len x).map Instr.pgshareCow
    | _ => none
  | 0x1C9 => (baseForm len x).map Instr.pgunshare
  | 0x1CA => (baseForm len x).map Instr.pgmove
  | 0x1CB =>
    match mod4 with
    | 0 => (baseForm len x).map Instr.pginv
    | 1 => (baseForm len x).map Instr.pginvAbs
    | 2 => (baseForm len x).map Instr.pginvTlb
    | _ => none
  | 0x1CC =>
    match mod4 with
    | 0 => (baseForm len x).map Instr.pgdirty
    | 1 => (baseForm len x).map Instr.pgdirtyPeek
    | _ => none
  | _ => none

/-- The instruction of a base word and the two words after it, or none where step 4 of R53 fails. -/
def decodeWords (w0 w1 e1 e2 : Word32) : Option Instr :=
  let x : Word64 := w1 ++ w0
  match byOpcode (fld x 2 9).toNat (fld x 0 2).toNat x e1 e2 with
  | some i => if instrWf i then some i else none
  | none => none

/-- The length in bytes that LEN gives (R27, R28); none for a pad word or another word with LEN 11. -/
def lenOf (w0 : Word32) : Option Nat :=
  match (w0.extractLsb' 0 2).toNat with
  | 0 => some 8
  | 1 => some 12
  | 2 => some 16
  | _ => none

/-- The little-endian word at byte `k` of a list of bytes; bytes beyond the list are zero. -/
def wordAt (bs : List Byte) (k : Nat) : Word32 :=
  bs.getD (k + 3) 0#8 ++ bs.getD (k + 2) 0#8 ++ bs.getD (k + 1) 0#8 ++ bs.getD k 0#8

/-- The instruction that stands at the head of a list of bytes (R27). -/
def decodeBytes (bs : List Byte) : Option Instr :=
  decodeWords (wordAt bs 0) (wordAt bs 4) (wordAt bs 8) (wordAt bs 12)

/-! ## The encoder -/

def guardBits (g : Guard) : BitVec 16 := g.gr ++ g.gb ++ BitVec.ofBool g.gn

/-- The base word of an opcode, a length and the fields of R31. -/
def baseBits (op : BitVec 9) (len : BitVec 2) (b : Base) : Word64 :=
  BitVec.ofBool b.tc ++ BitVec.ofBool b.tb ++ BitVec.ofBool b.ta ++ b.sb ++ b.sa ++ b.dst ++ guardBits b.g ++ b.md ++ op
    ++ len

def split64 (x : Word64) : List Word32 := [lo32 x, hi32 x]

def baseWords (op : BitVec 9) (len : BitVec 2) (b : Base) : List Word32 := split64 (baseBits op len b)

def baseOptWords (op : BitVec 9) (b : Base) : Option Word32 → List Word32
  | none => baseWords op 0#2 b
  | some e => baseWords op 1#2 b ++ [e]

def pfxBits (p : Pfx) : Word32 :=
  BitVec.ofBool p.sat ++ p.rm ++ BitVec.ofBool p.mn ++ p.mb ++ p.mr ++ BitVec.ofBool p.zm ++ BitVec.ofBool p.sbs
    ++ BitVec.ofBool p.sas ++ BitVec.ofBool p.scs ++ p.sc

def memWordBits (m : MemWord) : Word32 :=
  m.off ++ BitVec.ofBool m.ix ++ m.ord ++ m.scope ++ BitVec.ofBool m.bs ++ BitVec.ofBool m.sx ++ m.width ++ m.lease
    ++ m.ty

def memWords (op : BitVec 9) (b : Base) (m : MemWord) : Option Word32 → List Word32
  | none => baseWords op 1#2 b ++ [memWordBits m]
  | some d => baseWords op 2#2 b ++ [memWordBits m, d]

def mmaWords (op : BitVec 9) (b : Base) (c : MmaCtl) : List Word32 :=
  baseWords op 2#2 b ++
    [0#7 ++ BitVec.ofBool c.barEn ++ c.bar ++ c.gs ++ BitVec.ofBool c.acc ++ BitVec.ofBool c.satI
       ++ BitVec.ofBool c.bSigned ++ BitVec.ofBool c.aSigned ++ c.kc ++ c.nb,
     0#14 ++ BitVec.ofBool c.lower ++ BitVec.ofBool c.force ++ c.diag ++ c.ofs]

def glzE1 (c : GlzCtl) : Word32 :=
  0#13 ++ BitVec.ofBool c.signed ++ c.epl ++ c.rm ++ c.seed ++ BitVec.ofBool c.rot ++ c.rb ++ c.sck ++ c.fmt

def glzWords (op : BitVec 9) (b : Base) (c : GlzCtl) : List Word32 :=
  baseWords op 2#2 b ++ [glzE1 c, 0#8 ++ c.kb ++ c.sca ++ c.ela]

def mmwWords (op : BitVec 9) (b : Base) (c : GlzCtl) (w : MmwCtl) : List Word32 :=
  baseWords op 2#2 b ++ [glzE1 c, 0#16 ++ w.gs ++ BitVec.ofBool w.barEn ++ w.bar ++ w.pos]

def copyE1 (c : CopyCtl) : Word32 := c.mc ++ BitVec.ofBool c.barEn ++ c.bar ++ c.gs ++ c.dsp ++ c.ssp ++ c.np ++ c.slot
def copyE2 (c : CopyCtl) : Word32 := 0#29 ++ BitVec.ofBool c.satR ++ c.el
def copyWords (op : BitVec 9) (b : Base) (c : CopyCtl) : List Word32 := baseWords op 2#2 b ++ [copyE1 c, copyE2 c]

def collE1 (c : CollCtl) : Word32 := 0#18 ++ BitVec.ofBool c.barEn ++ c.bar ++ c.gs ++ c.op ++ c.fmt ++ c.kind
def collE2 (c : CollCtl) : Word32 := 0#26 ++ c.comm
def collWords (op : BitVec 9) (b : Base) (c : CollCtl) : List Word32 := baseWords op 2#2 b ++ [collE1 c, collE2 c]

def queueWordBits (q : QueueWord) : Word32 := 0#9 ++ q.sel ++ BitVec.ofBool q.qs ++ q.qr ++ q.qn

/-- The base word of a form of classes 0 to 2: MOD<3> is XP. -/
def aluBits (op : BitVec 9) (len : BitVec 2) (xp : Bool) (f : Alu) : Word64 :=
  baseBits op len
    { g := f.g, md := BitVec.ofBool xp ++ f.md, dst := f.dst, sa := f.sa, sb := f.sb, ta := f.ta, tb := f.tb,
      tc := f.tc }

def aluWords (op : BitVec 9) (f : Alu) : List Word32 :=
  match f.ext with
  | .none => split64 (aluBits op 0#2 false f)
  | .imm v => split64 (aluBits op 1#2 false f) ++ [v]
  | .pfx p => split64 (aluBits op 1#2 true f) ++ [pfxBits p]
  | .pfxImm p v => split64 (aluBits op 2#2 true f) ++ [pfxBits p, v]

def movImm64Words (g : Guard) (dst : BitVec 10) (imm : Word64) : List Word32 :=
  baseWords 0x001#9 2#2 { g := g, md := 0#4, dst := dst, sa := 0#10, sb := 0#10, ta := false, tb := false, tc := false }
    ++ [lo32 imm, hi32 imm]

/-- The words of an instruction; an event of the device has none. -/
def encode : Instr → List Word32
  | .nop f => aluWords 0x000#9 f
  | .mov f => aluWords 0x001#9 f
  | .movImm64 g dst imm => movImm64Words g dst imm
  | .sel f => aluWords 0x002#9 f
  | .iadd f => aluWords 0x003#9 f
  | .isub f => aluWords 0x004#9 f
  | .imul f => aluWords 0x005#9 f
  | .imad f => aluWords 0x006#9 f
  | .idiv f => aluWords 0x007#9 f
  | .irem f => aluWords 0x008#9 f
  | .imin f => aluWords 0x009#9 f
  | .imax f => aluWords 0x00A#9 f
  | .iabs f => aluWords 0x00B#9 f
  | .ineg f => aluWords 0x00C#9 f
  | .and f => aluWords 0x00D#9 f
  | .or f => aluWords 0x00E#9 f
  | .xor f => aluWords 0x00F#9 f
  | .not f => aluWords 0x010#9 f
  | .lut3 f => aluWords 0x011#9 f
  | .shl f => aluWords 0x012#9 f
  | .shr f => aluWords 0x013#9 f
  | .rotl f => aluWords 0x014#9 f
  | .bfe f => aluWords 0x015#9 f
  | .bfi f => aluWords 0x016#9 f
  | .popc f => aluWords 0x017#9 f
  | .clz f => aluWords 0x018#9 f
  | .brev f => aluWords 0x019#9 f
  | .bsel f => aluWords 0x01A#9 f
  | .cmp f => aluWords 0x01B#9 f
  | .bop f => aluWords 0x01C#9 f
  | .lea f => aluWords 0x01D#9 f
  | .fadd f => aluWords 0x040#9 f
  | .fsub f => aluWords 0x041#9 f
  | .fmul f => aluWords 0x042#9 f
  | .ffma f => aluWords 0x043#9 f
  | .fdiv f => aluWords 0x044#9 f
  | .fmin f => aluWords 0x045#9 f
  | .fmax f => aluWords 0x046#9 f
  | .fcmp f => aluWords 0x047#9 f
  | .fclass f => aluWords 0x048#9 f
  | .fscale f => aluWords 0x049#9 f
  | .frnd f => aluWords 0x04A#9 f
  | .hadd2 f => aluWords 0x04B#9 f
  | .hmul2 f => aluWords 0x04C#9 f
  | .hfma2 f => aluWords 0x04D#9 f
  | .hmin2 f => aluWords 0x04E#9 f
  | .hmax2 f => aluWords 0x04F#9 f
  | .hcmp2 f => aluWords 0x050#9 f
  | .rcp f => aluWords 0x051#9 f
  | .rsq f => aluWords 0x052#9 f
  | .sqrt f => aluWords 0x053#9 f
  | .ex2 f => aluWords 0x054#9 f
  | .lg2 f => aluWords 0x055#9 f
  | .sin f => aluWords 0x056#9 f
  | .cos f => aluWords 0x057#9 f
  | .tanh f => aluWords 0x058#9 f
  | .fdot2 f => aluWords 0x059#9 f
  | .cvt f => aluWords 0x080#9 f
  | .pack f => aluWords 0x081#9 f
  | .unpack f => aluWords 0x082#9 f
  | .glzq b c => glzWords 0x083#9 b c
  | .glzd b c => glzWords 0x084#9 b c
  | .glzrFwd b c => glzWords 0x085#9 b c
  | .glzrInv b c => glzWords 0x085#9 b c
  | .rng f => aluWords 0x086#9 f
  | .rngF f => aluWords 0x086#9 f
  | .rngW f => aluWords 0x086#9 f
  | .rngseed f => aluWords 0x087#9 f
  | .rngseedMix f => aluWords 0x087#9 f
  | .bra b e1 => baseWords 0x0C0#9 1#2 b ++ [e1]
  | .brx b => baseWords 0x0C1#9 0#2 b
  | .call b e1 => baseWords 0x0C2#9 1#2 b ++ [e1]
  | .callx b => baseWords 0x0C3#9 0#2 b
  | .ret b => baseWords 0x0C4#9 0#2 b
  | .exit b => baseWords 0x0C5#9 0#2 b
  | .safept b e1 => baseWords 0x0C6#9 1#2 b ++ [e1]
  | .fork b e1 => baseWords 0x0C7#9 1#2 b ++ [e1]
  | .xlane b m => baseOptWords 0x0C8#9 b m
  | .vote b m => baseOptWords 0x0C9#9 b m
  | .peers b m => baseOptWords 0x0CA#9 b m
  | .gred b m => baseOptWords 0x0CB#9 b m
  | .scan b m => baseOptWords 0x0CC#9 b m
  | .gsync b m => baseOptWords 0x0CD#9 b m
  | .rdsr b => baseWords 0x0CE#9 0#2 b
  | .wrsr b => baseWords 0x0CF#9 0#2 b
  | .wrsrExm b => baseWords 0x0CF#9 0#2 b
  | .smov b m => baseOptWords 0x0D0#9 b m
  | .sadd b m => baseOptWords 0x0D1#9 b m
  | .ssub b m => baseOptWords 0x0D2#9 b m
  | .smul b m => baseOptWords 0x0D3#9 b m
  | .sand b m => baseOptWords 0x0D4#9 b m
  | .sor b m => baseOptWords 0x0D5#9 b m
  | .sxor b m => baseOptWords 0x0D6#9 b m
  | .sshl b m => baseOptWords 0x0D7#9 b m
  | .sshr b m => baseOptWords 0x0D8#9 b m
  | .scmp b m => baseOptWords 0x0D9#9 b m
  | .sld b m => baseWords 0x0DA#9 1#2 b ++ [memWordBits m]
  | .srd b m => baseWords 0x0DB#9 1#2 b ++ [memWordBits m]
  | .s2v b => baseWords 0x0DC#9 0#2 b
  | .v2s b => baseWords 0x0DD#9 0#2 b
  | .nsig b => baseWords 0x0DE#9 0#2 b
  | .ld b m d => memWords 0x100#9 b m d
  | .st b m d => memWords 0x101#9 b m d
  | .lda b m d => memWords 0x102#9 b m d
  | .sta b m d => memWords 0x103#9 b m d
  | .ldc b m d => memWords 0x104#9 b m d
  | .stc b m d => memWords 0x105#9 b m d
  | .atom b m d => memWords 0x106#9 b m d
  | .atoma b m d => memWords 0x107#9 b m d
  | .red b m d => memWords 0x108#9 b m d
  | .pref b m d => memWords 0x109#9 b m d
  | .invl b m => baseWords 0x10A#9 1#2 b ++ [memWordBits m]
  | .wb b m => baseWords 0x10B#9 1#2 b ++ [memWordBits m]
  | .fence b => baseWords 0x10C#9 0#2 b
  | .bind b e1 => baseWords 0x10D#9 1#2 b ++ [e1]
  | .unbind b => baseWords 0x10E#9 0#2 b
  | .acq b => baseWords 0x10F#9 0#2 b
  | .rel b => baseWords 0x110#9 0#2 b
  | .rsv b => baseWords 0x140#9 0#2 b
  | .rsvClr b => baseWords 0x140#9 0#2 b
  | .rsvf b e1 => baseWords 0x141#9 1#2 b ++ [e1]
  | .rsvq b => baseWords 0x142#9 0#2 b
  | .mma b c => mmaWords 0x143#9 b c
  | .mmat b c => mmaWords 0x144#9 b c
  | .mmz b => baseWords 0x145#9 0#2 b
  | .mmw b c w => mmwWords 0x146#9 b c w
  | .barInit b m => baseOptWords 0x180#9 b m
  | .barArrive b => baseWords 0x180#9 0#2 b
  | .barWait b => baseWords 0x180#9 0#2 b
  | .barTest b => baseWords 0x180#9 0#2 b
  | .barInval b => baseWords 0x180#9 0#2 b
  | .barExpect b m => baseOptWords 0x180#9 b m
  | .barRead b => baseWords 0x180#9 0#2 b
  | .barWrite b => baseWords 0x180#9 0#2 b
  | .barwInit b m d => memWords 0x181#9 b m d
  | .barwArrive b m d => memWords 0x181#9 b m d
  | .barwWait b m d => memWords 0x181#9 b m d
  | .step b => baseWords 0x182#9 0#2 b
  | .monitor b m d => memWords 0x183#9 b m d
  | .mwait b => baseWords 0x184#9 0#2 b
  | .gset b => baseWords 0x185#9 0#2 b
  | .gsetOpen b => baseWords 0x185#9 0#2 b
  | .gclr b => baseWords 0x186#9 0#2 b
  | .cpy b c => copyWords 0x187#9 b c
  | .cpyt b c => copyWords 0x188#9 b c
  | .cpyr b c => copyWords 0x189#9 b c
  | .cpyq b => baseWords 0x18A#9 0#2 b
  | .cpyqJ b => baseWords 0x18A#9 0#2 b
  | .coll b c => collWords 0x18B#9 b c
  | .enq b q => baseWords 0x18C#9 1#2 b ++ [queueWordBits q]
  | .enqTry b q => baseWords 0x18C#9 1#2 b ++ [queueWordBits q]
  | .deq b q => baseWords 0x18D#9 1#2 b ++ [queueWordBits q]
  | .deqt b q => baseWords 0x18E#9 1#2 b ++ [queueWordBits q]
  | .qctlQuery b q => baseWords 0x18F#9 1#2 b ++ [queueWordBits q]
  | .qctlCreate b q => baseWords 0x18F#9 1#2 b ++ [queueWordBits q]
  | .qctlFreeze b q => baseWords 0x18F#9 1#2 b ++ [queueWordBits q]
  | .qctlThaw b q => baseWords 0x18F#9 1#2 b ++ [queueWordBits q]
  | .qctlDrain b q => baseWords 0x18F#9 1#2 b ++ [queueWordBits q]
  | .qctlDestroy b q => baseWords 0x18F#9 1#2 b ++ [queueWordBits q]
  | .qctlSetptr b q => baseWords 0x18F#9 1#2 b ++ [queueWordBits q]
  | .trap b => baseWords 0x1C0#9 0#2 b
  | .rft b => baseWords 0x1C1#9 0#2 b
  | .rftTarget b => baseWords 0x1C1#9 0#2 b
  | .rftSave b => baseWords 0x1C1#9 0#2 b
  | .rftRest b => baseWords 0x1C1#9 0#2 b
  | .syscall b => baseWords 0x1C2#9 0#2 b
  | .rdsys b e1 => baseWords 0x1C3#9 1#2 b ++ [e1]
  | .wrsys b e1 => baseWords 0x1C4#9 1#2 b ++ [e1]
  | .ctxctlCmd b e1 => baseWords 0x1C5#9 1#2 b ++ [e1]
  | .ctxctlExm b e1 => baseWords 0x1C5#9 1#2 b ++ [e1]
  | .fresRetry b => baseWords 0x1C6#9 0#2 b
  | .fresKill b => baseWords 0x1C6#9 0#2 b
  | .fresRetryD b => baseWords 0x1C6#9 0#2 b
  | .pgmapLeaf b e1 => baseWords 0x1C7#9 1#2 b ++ [e1]
  | .pgmapTable b e1 => baseWords 0x1C7#9 1#2 b ++ [e1]
  | .pgshare b => baseWords 0x1C8#9 0#2 b
  | .pgshareCow b => baseWords 0x1C8#9 0#2 b
  | .pgunshare b => baseWords 0x1C9#9 0#2 b
  | .pgmove b => baseWords 0x1CA#9 0#2 b
  | .pginv b => baseWords 0x1CB#9 0#2 b
  | .pginvAbs b => baseWords 0x1CB#9 0#2 b
  | .pginvTlb b => baseWords 0x1CB#9 0#2 b
  | .pgdirty b => baseWords 0x1CC#9 0#2 b
  | .pgdirtyPeek b => baseWords 0x1CC#9 0#2 b
  | .asyncResultWrite _ | .threadSlotFree _ | .loadReturn _ | .l1Eviction _ _ | .engineArbitrate _
  | .enginePass _ | .meCommandComplete _ _ | .pugLineFetch _ _ _ | .laneBallastPacket _ | .barwPoll _
  | .mwaitTimeout _ | .slipBeat _ _ | .copyComplete _ | .copyReplayStart _ | .collMatch _ _ | .collComplete _
  | .collWatchdog _ | .deqtTimeout _ | .hostEnqueue _ _ _ | .launchQueueItem _ | .deviceItemEnqueue _
  | .teamSaved _ | .pageMoveComplete _ | .frameReturn _ _ | .homeUncorrectableError _ | .homeWrite _
  | .moveOutStart _ _ | .moveOutComplete _ | .recallStart _ | .recallComplete _ | .rendezvousWatchdog _ _
  | .preemptDeadline _ | .nodeSignal _ _ | .placementPass | .placementBlockTimeout _ _ | .windowBoundary
  | .rampDeadline _ | .clampRaise _ | .clampLower _ | .ctxBuild _ _ | .ctxCommit _ _ | .ctxRun _ _
  | .ctxPreempt _ _ | .ctxMigrate _ _ | .ctxAdopt _ _ | .ctxTeardown _ _ | .teardownComplete _
  | .spmapWrite _ _ _ | .spmapDrainComplete _ | .commcfgWrite _ _ _ _ | .steerWrite _ _ _ | .fxsteerWrite _ _
  | .fxslotWrite _ _ | .registerWrite _ _ | .linkPause _ | .linkResume _ | .linkTrain _ | .linkDisable _
  | .pauseAcknowledged _ | .trainingDone _ | .trainingFailed _ | .replayExhausted _ | .retrainDone _
  | .retrainFailed _ | .adapterReplay _ | .readSiWt _ | .readOwn _ | .readUc _ | .write _ | .writeBack _
  | .atomic _ | .reduce _ | .armMonitor _ | .dropMonitor _ | .tierRead _ | .tierWrite _ | .response _ | .data _
  | .recallMsg _ | .copyBeat _ | .recallTimeout _ | .hello _ | .ident _ | .assign _ | .accept _ _ | .refuse _ _
  | .failed _ | .helloTimeout _ | .vwBeatReplay _ _ | .vwRepair _ _ _ | .hostBar4Read _ _ _
  | .hostBar4Write _ _ _ | .setop _ | .ratioChangeComplete _ | .gate _ | .ungate _ | .offline _
  | .offlineComplete _ | .online _ | .setbound _ | .setfloor _ | .setalarm _ | .thermalAlarm _ _
  | .thermalTrip _ _ | .towerLost _ | .kilnWatchdogReset | .kilnUpdate _ | .deviceReset | .attestationStart
  | .attestationComplete | .lcProvision | .lcCommission | .lcReturn | .lcDispose | .tkdata _ | .tkreset
  | .fetchFault _ _ | .protocolError _ _ | .flitCrcFailure _ _ | .pcieDataLinkDown | .pcieDataLinkUp
  | .coolantFlowLow | .kilnHang | .kilnRestartComplete  => []

/-- Whether an instruction has words: every row of the opcode map, and no event of the device. -/
def hasWords (i : Instr) : Bool := !(encode i).isEmpty

/-- The bytes of a word list in memory (R2, R27). -/
def wordBytes (ws : List Word32) : List Byte := ws.flatMap (fun w => Machine.leBytes w.toNat 4)

/-- The instruction that the decoder reads from an instruction whose bits are `w`, numbered from the least significant bit
of its first word; bits above `nbits` are zero. -/
def decodeTableWord (nbits w : Nat) : Option Instr := decodeBytes (Machine.leBytes (w % 2 ^ nbits) 16)

end Sys2Proof
end

