-- ==== Sys2Proof/Config.lean ====
section
/-! DEFINITION. What the manual leaves to the implementation or leaves open: the free values (opaque, with no
body, applied to the counter `State.fresh`, so that nothing can be proved of one of them but what the rule
that uses it bounds), and the fused constants of one device. -/

namespace Sys2Proof.Config

/-- Extra delay, in ticks, of the n-th access beyond its entry in R25: "Contention, recalls and translation
misses add to these values" (R26). Log entry 12. -/
opaque contention : Nat → Nat

/-- The n-th choice between two outcomes that the manual both allows (R30, and what is lost with a path that fails). Log entry 11. -/
opaque freeBit : Nat → Bool

/-- The n-th choice among the versions of a block of code that a fetch may return (R30). Log entry 11. -/
opaque version : Nat → Nat

/-- Whether an access through a stale translation at this tick by this core to this page uses the old one (R393); one choice
for all the accesses of a packet to a page (R392). Log entry 11. -/
opaque staleBit : Nat → Nat → Nat → Bool

/-- Element `i` of a rotation block that an MMW does not cover whole (R100, R283): the manual states no value. Log entry 11. -/
opaque partBlock : Nat → Nat → Nat

/-- The n-th answer of another agent to a recall that a unit of the device makes (R213): the bytes that were dirty, and their
values. Log entry 17. -/
opaque recallMask : Nat → BitVec 128
opaque recallByte : Nat → Nat → Byte

/-- Byte `i` of what the n-th read of another die's memory by a unit of the device finds there, where it does not wait for the answer. Log
entry 17. -/
opaque farByte : Nat → Nat → Byte

/-- What an INT32 too large for FP16 becomes under a rounding mode with SAT 0 (R92 says that the conversion never overflows, and states no
value). Log entry 65. -/
opaque bigInt : Int → Nat → Half

/-- The n-th choice of the line that leaves a full L1 (R15, R217). Log entry 11. -/
opaque victim : Nat → Nat

/-- The n-th length of a ratio stop, in ticks, before it is bounded by 2 µs (R19). Log entry 11. -/
opaque stopTicks : Nat → Nat

/-- The activity, in LU, that a quad measures in a window (R456): a measured quantity. Log entry 11. -/
opaque activity : Nat → Nat → Nat

/-- The 48-byte fused seed of the device identity key: SK.seed, SK.prf and PK.seed (R466). Log entry 8. -/
opaque identitySeed : List Byte

/-- The 16 bytes that randomise the n-th signature (R466, FIPS 205): the manual does not say whether it is signed with any. Log entry 101. -/
opaque signRand : Nat → List Byte

/-- The device's fused unique id (R472). Log entry 8. -/
opaque uniqueId : List Byte

/-- The four fused key slots: the SHA-256 of an enrolled key and its revoke fuse (R465). Log entry 8. -/
opaque fusedKeys : List (List Byte × Bool)

/-- The public keys whose SHA-256 the key slots hold, by slot (R472). Log entry 8. -/
opaque enrolledKey : Nat → List Byte

/-- Where the fields of an attestation report stand in its body (R466 gives the fields and no places): the exchanges of two places that
lead there from their order in R466. Log entry 101. -/
opaque reportSwaps : List (Nat × Nat)

/-- The bytes of the body that no field takes. Log entry 101. -/
opaque reportFill : Nat → Byte

/-- The fused minimum security version (R465). Log entry 8. -/
opaque fusedMinVersion : Byte

/-- The image that stands in the module flash when the device leaves reset (R464): its security version and digest.
Log entry 8. -/
opaque bootImageVersion : Byte
opaque bootImageDigest : List Byte

end Sys2Proof.Config
end

