-- ==== Sys2Proof/Machine/Map.lean ====
section
/-! DEFINITION. The package map (R8 to R14, R23 to R26) and physical memory: identifiers, hop counts and routes, the ranges
of the physical address space, what memory holds after boot, and the reads and writes of memory. -/

namespace Sys2Proof.Machine

/-! ## Identifiers (R13) -/

def coreTower (c : Nat) : Nat := c / 512
def coreX (c : Nat) : Nat := c % 16
def coreY (c : Nat) : Nat := c / 16 % 32
def coreAt (tower x y : Nat) : Nat := tower * 512 + y * 16 + x
def coreQuad (c : Nat) : Nat := coreTower c * 128 + coreY c / 2 * 8 + coreX c / 2
def quadTower (q : Nat) : Nat := q / 128

/-- The four cores of a quad, in ascending order within it. -/
def quadCores (q : Nat) : List Nat :=
  let t := quadTower q
  let x := q % 8 * 2
  let y := q / 8 % 16 * 2
  [coreAt t x y, coreAt t (x + 1) y, coreAt t x (y + 1), coreAt t (x + 1) (y + 1)]

def sliceTower (s : Nat) : Nat := s / 256

/-- The slice that stands over a core, the two cores under a slice, and the two slices over a quad. -/
def coreSlice (c : Nat) : Nat := coreTower c * 256 + coreY c * 8 + coreX c / 2
def sliceCores (s : Nat) : List Nat :=
  let x := 2 * (s % 8)
  [coreAt (sliceTower s) x (s % 256 / 8), coreAt (sliceTower s) (x + 1) (s % 256 / 8)]
def quadSlices (q : Nat) : List Nat :=
  let l := q % 128
  let s := quadTower q * 256 + 2 * (l / 8) * 8 + l % 8
  [s, s + 8]

/-! ## Hops and routes (R10, R11) -/

def absDiff (a b : Nat) : Nat := if a ≤ b then b - a else a - b

/-- Towers that one hop joins: row neighbours, the end links and the forwarders of the hub. -/
def joined (a b : Nat) : Bool :=
  decide (absDiff (a % 4) (b % 4) + absDiff (a / 4) (b / 4) = 1)

/-- One round of the flood from tower `a`: towers reached so far, in hop order. -/
def flood (lost : List Nat) (seen : List Nat) : List Nat :=
  (List.range 8).filter (fun b => seen.contains b || (!lost.contains b && seen.any (fun a => joined a b)))

def hopsAux (lost : List Nat) (b : Nat) : Nat → Nat → List Nat → Nat
  | 0, _, _ => 0xFF
  | f + 1, k, seen => if seen.contains b then k else hopsAux lost b f (k + 1) (flood lost seen)

/-- The published hop count from tower `a` to tower `b`, with the towers of `lost` absent: 0xFF with no route. With none
lost it is the Manhattan distance of R10. -/
def hops (lost : List Nat) (a b : Nat) : Nat :=
  if lost.isEmpty then absDiff (a % 4) (b % 4) + absDiff (a / 4) (b / 4)
  else if lost.contains a || lost.contains b then 0xFF else hopsAux lost b 9 0 [a]

/-- The next tower on the route: the row changes first (R10); around a lost tower, the joined tower of the same row change
or the lowest one that is nearer. -/
def nextTower (lost : List Nat) (a b : Nat) : Nat :=
  if a = b || hops lost a b = 0xFF then 0xFF
  else
    let near := (List.range 8).filter (fun c => joined a c && !lost.contains c && hops lost c b + 1 == hops lost a b)
    match near.filter (fun c => c % 4 == a % 4) ++ near with
    | c :: _ => c
    | [] => 0xFF

/-! ## Physical ranges (R23, R24) -/

def hbmSize : Nat := 0x8000000000
def pinBase : Nat := 0x10000000000
def pinTower : Nat := 0xC0000000
def pinSize : Nat := 0x600000000
def hostBase : Nat := 0x100000000000
def hostSize : Nat := 0x100000000000
def fabBase : Nat := 0x800000000000
def fabSize : Nat := 0x200000000000
def fabSlot : Nat := 0x10000000000

inductive Range where
  | hbm | pinned | host | fabric | none
  deriving DecidableEq, Repr

/-- The range of a physical address that a translation may name; the register space is none of them. -/
def rangeOf (pa : Nat) : Range :=
  if pa < hbmSize then .hbm
  else if pinBase ≤ pa ∧ pa < pinBase + pinSize then .pinned
  else if hostBase ≤ pa ∧ pa < hostBase + hostSize then .host
  else if fabBase ≤ pa ∧ pa < fabBase + fabSize then .fabric
  else .none

/-- The tower, unit and layer of a byte of the pinned window (R207). -/
def pinnedTower (pa : Nat) : Nat := (pa - pinBase) / pinTower
def pinnedUnit (pa : Nat) : Nat := (pa - pinBase) % pinTower / 0x4000000

/-- The virtual slice of a physical line (R209), `tl` being the tower-local flag of its page and `reserve` whether the page
has contract reserve. -/
def virtualSlice (pa : Nat) (tl reserve : Bool) : Nat :=
  let a := if reserve then pa / 65536 * 65536 else pa
  let l := a / 128 % 2 ^ 45
  let h := (l % 2048) ^^^ (l / 2048 % 2048) ^^^ (l / 2 ^ 22 % 2048) ^^^ (l / 2 ^ 33 % 2048) ^^^ (l / 2 ^ 44)
  let low := (h % 256) ^^^ (h / 256 % 8)
  match rangeOf a with
  | .pinned => pinnedTower a * 256 + low
  | .hbm => if tl then a / 0x1000000000 * 256 + low else h
  | _ => h

/-! ## Frame and topology tables after boot (R394, R395, R433, R434) -/

def frameTable : Nat := 0x7FFBD00000
def frameTableEnd : Nat := frameTable + 8781824 * 8
def topoTable : Nat := 0x7FFBCF0000

/-- The index of the record of a frame, if it has one (R394). -/
def frameIndex (pa : Nat) : Option Nat :=
  match rangeOf pa with
  | .hbm => some (pa / 65536)
  | .pinned => some (8388608 + (pa - pinBase) / 65536)
  | _ => none

def frameRecAt (idx : Nat) : Nat := frameTable + 8 * idx

/-- A frame record as boot leaves it: TIER by address; SHARE 1 for the frames of the two tables. -/
def bootRecord (idx : Nat) : Nat :=
  (if idx < 8388608 then 1 * 2 ^ 18 else 0)
  + (if topoTable / 65536 ≤ idx ∧ idx < frameTable / 65536 + 1072 then 1 else 0)

/-- The agents of a W8 in ascending id: id, kind, tower, edge (R426, R434). -/
def bootAgents : List (Nat × Nat × Nat × Nat) :=
  (0x001, 2, 0, 0)
    :: (List.range 8).map (fun t => (0x010 + t, 0, t, 3))
    ++ (List.range 8).map (fun t => (0x020 + t, 1, t, 2))

/-- An agent entry of the topology table (R434): TOWER in bits 42:40, EDGE in bits 44:43, unit and count. -/
def agentEntry (id kind inc state tower edge unit units : Nat) : Nat :=
  id + kind * 2 ^ 12 + inc * 2 ^ 16 + state * 2 ^ 32 + tower * 2 ^ 40 + edge * 2 ^ 43 + unit * 2 ^ 48 + units * 2 ^ 56

/-- A byte of the topology table as the first publication leaves it. -/
def bootTopo (o : Nat) : Nat :=
  if o < 8 then (if o = 0 then 2 else 0)
  else if o < 0x10 then
    (0x01 + 0xFF * 256 + 17 * 2 ^ 24) / 256 ^ (o - 8) % 256
  else if o < 0x40 then 0
  else if o < 0x80 then hops [] ((o - 0x40) / 8) ((o - 0x40) % 8)
  else if o < 0xC0 then nextTower [] ((o - 0x80) / 8) ((o - 0x80) % 8)
  else if o < 0x100 then 0
  else if o < 0x2100 then
    match bootAgents[(o - 0x100) / 16]? with
    | some (id, kind, tower, edge) => agentEntry id kind 0 0 tower edge 0 0 / 256 ^ ((o - 0x100) % 16) % 256
    | none => 0
  else if o < 0x3100 then (o - 0x2100) / 2 / 256 ^ ((o - 0x2100) % 2) % 256
  else if o < 0x4100 then
    (if (o - 0x3100) / 8 = 0 then 2 ^ 18 else 3 * 2 ^ 16) / 256 ^ ((o - 0x3100) % 8) % 256
  else 0

/-- What an address that memory does not list reads as: the frame table and the topology table as boot leaves them, and
zero elsewhere, because boot wipes every memory (R467). -/
def memBlank (a : Nat) : Byte :=
  if a < topoTable then 0#8
  else if a < frameTable then BitVec.ofNat 8 (bootTopo (a - topoTable))
  else if a < frameTableEnd then
    BitVec.ofNat 8 (bootRecord ((a - frameTable) / 8) / 256 ^ ((a - frameTable) % 8))
  else 0#8

/-! ## Reads and writes -/

/-- The canonical form: addresses strictly rising, and no byte listed that an unlisted address reads as. -/
def memWf (m : Mem) : Bool := tsorted m && m.all (fun c => c.2 != memBlank c.1)

def memRead (m : Mem) (a : Nat) : Byte := (tget m a).getD (memBlank a)

def memWrite (m : Mem) (a : Nat) (b : Byte) : Mem := if b = memBlank a then tdel a m else tput a b m

def memReadN (m : Mem) (a : Nat) : Nat → List Byte
  | 0 => []
  | n + 1 => memRead m a :: memReadN m (a + 1) n

/-- Bytes written at ascending addresses (R2: little-endian). -/
def memWriteN (m : Mem) (a : Nat) : List Byte → Mem
  | [] => m
  | b :: r => memWriteN (memWrite m a b) (a + 1) r

def memNat (m : Mem) (a n : Nat) : Nat := leNat (memReadN m a n)

def memPutNat (m : Mem) (a n v : Nat) : Mem := memWriteN m a (leBytes v n)

/-- The same over a buffer or over memory outside the device, where an unlisted byte is zero. -/
def bufRead (m : Mem) (a : Nat) : Byte := tgetD m a 0#8

def bufWrite (m : Mem) (a : Nat) (b : Byte) : Mem := tset 0#8 a b m

def bufReadN (m : Mem) (a : Nat) : Nat → List Byte
  | 0 => []
  | n + 1 => bufRead m a :: bufReadN m (a + 1) n

def bufWriteN (m : Mem) (a : Nat) : List Byte → Mem
  | [] => m
  | b :: r => bufWriteN (bufWrite m a b) (a + 1) r

def bufNat (m : Mem) (a n : Nat) : Nat := leNat (bufReadN m a n)

def bufWf (m : Mem) : Bool := tsorted m && m.all (fun c => c.2 != 0#8)

end Sys2Proof.Machine
end

