-- ==== Sys2Proof/Machine/State.lean ====
section
/-! DEFINITION. The state of the machine: every piece of state the manual names, as plain data (INVENTORY.md,
heading State, lists each with its rule and reset value), the state after reset, and the reasons a step can stop. -/

namespace Sys2Proof.Machine

/-- Why the machine stops. -/
inductive Fault where
  /-- Raised by `step` when the boot sequence has failed (BOOTSTAT.FAIL is not 0) and no event is due: "A step that
  fails stops the boot at that step" (R464). Safe: nothing else happens on the hardware. -/
  | bootStopped
  deriving DecidableEq, Repr

/-- Why an instruction has no meaning. -/
inductive Refusal where
  /-- Raised by an arm of `exec` whose instruction is not modelled. Safe. -/
  | notModelled (mnemonic : String)
  deriving DecidableEq, Repr

/-! ## The thread (R124 to R143) -/

/-- One v register: its value, full bit (R128) and poison bit (R131). -/
structure VReg where
  val : Word32 := 0#32
  full : Bool := true
  poison : Bool := false
  deriving DecidableEq, Repr

/-- The mode of a thread (R372). -/
inductive Mode where
  | normal | trap | save | rest
  deriving DecidableEq, Repr

/-- The monitor of a thread (R293). `arming` is one whose registration the home has not yet served. -/
inductive Monitor where
  | disarmed
  | arming (line : Nat)
  | armed (line : Nat)
  | triggered (line : Nat) (overflow : Bool)
  deriving DecidableEq, Repr

/-- Where the registers of a thread lie (R133). -/
inductive Residence where
  | resident | movingOut | backed | recalling
  deriving DecidableEq, Repr

/-- What a thread at a BARW.WAIT waits for (R297): the team that holds an A-buffer word, or none for a global word; the
physical address or buffer offset of the word, its virtual address, the phase waited on, the length of the
instruction, whether its watcher is registered, whether its first read of PH is still to come, and whether a write has woken it
and its release stands in the Damper's list. -/
structure BarwWait where
  ab : Option Nat
  loc : Nat
  va : Nat
  ph : Bool
  len : Nat
  watched : Bool
  first : Bool
  woken : Bool := false
  deriving DecidableEq, Repr

/-- What a waiting thread waits for (R124). At a rendezvous: its guard, the form's member mask, and when its watchdog period
ends (R376). In the cases from `release` on, the thread stands at its instruction
and executes it again when the condition is met. -/
inductive WaitWhy where
  | rendezvous (guard all : Bool) (mm : LaneMask) (due : Option Nat)
  | bar (b target : Nat)
  | barw (w : BarwWait)
  | gridStep
  | mwait (deadline : Option Nat) (dst : Nat)
  | queue (q : Nat) (deadline : Option Nat) (dst : Nat)
  | acquire
  | result
  | release
  | returns
  | cRow (tile row : Nat)
  | table
  | journal
  | drain
  | page (move : Nat)
  | pageOp (id : Nat)
  | event
  deriving DecidableEq, Repr

/-- The state of a thread (R124). A thread of mode SAVE that is `ready` is the manual's SAFEPOINT; `saved` is one that
has executed RFT.SAVE. `parked` holds the registers it waits for; `faultWait` its token and whether it is at a
SYSCALL. -/
inductive Stat where
  | ready
  | parked (regs : List Nat)
  | waiting (w : WaitWhy)
  | faultWait (token : Word64) (sysc : Bool)
  | saved
  | exited
  deriving DecidableEq, Repr

/-- A fault that a thread raises: its code; whether it is of the wait class (R369); the INFO and FLAGS of `%trapcode` and the
value of `%trapaddr` (R371); the AUX and KIND of its record (R374); the page it concerns, which separates records (R373);
whether `%trappc` is the address after the instruction; and whether its delivery clears LINKLOST (R420). -/
structure Flt where
  code : Nat
  wait : Bool := false
  info : Nat := 0
  flags : Nat := 0
  addr : Word64 := 0#64
  aux : Nat := 0
  kind : Nat := 6
  page : Option Nat := none
  after : Bool := false
  lost : Bool := false
  deriving DecidableEq, Repr

/-- What a release in progress waits for: requests by id, and whether its flushing read of the host window is among them (R237). -/
structure RelWait where
  ids : List Nat
  flushed : Bool := false
  deriving DecidableEq, Repr

/-- The course of a move of registers (R133): its core clocks first, until the clock given, then its 60 ns, until the tick given. -/
inductive MoveEnd where
  | clk (k : Nat)
  | tick (t : Nat)
  deriving DecidableEq, Repr

/-- A thread. `idleSince` is the core clock of its quad from which it has been idle (R134). `turns` are
the picker cycles since it last became issuable or was last issued, and `waited` those that count toward its 512 (R176). `mates` are
the threads of the fully coalesced store whose releases it awaits beside its own, so that its lanes stay one event (R221). -/
structure Thread where
  stat : Stat := .ready
  pc : Word64 := 0#64
  v : Tab VReg := []
  fpc : Word32 := 0x400#32
  rng : Word64 := 0#64
  mode : Mode := .normal
  trapcode : Word32 := 0#32
  trappc : Word64 := 0#64
  trapaddr : Word64 := 0#64
  linklost : Bool := false
  mon : Monitor := .disarmed
  resume : BitVec 8 := 0#8
  savedAtSp : Bool := false
  res : Residence := .resident
  move : MoveEnd := .tick 0
  idleSince : Nat := 0
  turns : Nat := 0
  waited : Nat := 0
  rel : Option RelWait := none
  mates : List ThrRef := []
  held : List Nat := []
  deriving DecidableEq, Repr

/-! ## The group and the team (R166 to R197) -/

inductive GroupState where
  | active | held | exited
  deriving DecidableEq, Repr

structure Group where
  state : GroupState := .active
  s : Tab Word64 := []
  exm : LaneMask := 0xFFFFFFFF#32
  live : LaneMask := 0xFFFFFFFF#32
  slot : Nat := 0
  join : Option Nat := none
  sld : Option Nat := none
  deriving DecidableEq, Repr

inductive TeamState where
  | admitting | running | saving | saved | exited
  deriving DecidableEq, Repr

/-- One used safe-point table entry (R323). -/
structure SafePt where
  pc : Nat
  save : Nat
  rest : Nat
  deriving DecidableEq, Repr

/-- The kernel header as the device captured it (R322, R323, R327). -/
structure Header where
  addr : Word64 := 0#64
  entry : Nat := 256
  traph : Word64 := 0#64
  regs : Nat := 32
  groups : Nat := 1
  clw : Nat := 1
  clh : Nat := 1
  ramp : Nat := 0
  pinned : Bool := false
  useStep : Bool := false
  nsp : Nat := 1
  sptab : Nat := 0
  abuf : Nat := 0
  wbuf : Nat := 0
  cbuf : Nat := 0
  bars : Nat := 0
  rsvn : Nat := 0
  load : Nat := 0
  seedm : BitVec 8 := 0#8
  seeds : List Word32 := []
  safepts : Tab SafePt := []
  deriving DecidableEq, Repr

inductive BarState where
  | free | armed | complete | draining
  deriving DecidableEq, Repr

/-- A barrier register (R284) and the changes held while its release is pending (R286). -/
structure Bar where
  state : BarState := .free
  cyc : Bool := false
  err : Bool := false
  rp : Bool := false
  phase : Half := 0#16
  pend : Nat := 0
  arr : Nat := 0
  exp : Nat := 0
  base : Nat := 0
  heldExp : Int := 0
  heldPend : Nat := 0
  heldArr : Nat := 0
  deriving DecidableEq, Repr

/-- An arrival record (R285). -/
structure Arrival where
  mask : LaneMask := 0#32
  last : Option Half := none
  deriving DecidableEq, Repr

inductive SlotState where
  | isTrue | isFalse | isOpen
  deriving DecidableEq, Repr

/-- An entry of the binding table (R238, R249). -/
structure Binding where
  base : Nat
  len : Nat
  kind : BitVec 3
  obj : Word64
  deriving DecidableEq, Repr

/-- The state of a C row (R267). -/
structure CRow where
  out : Nat := 0
  poison : Bool := false
  deriving DecidableEq, Repr

/-- A copy slot that is assembling (R302): its header, and the journal entries of the parts it holds. -/
structure CopySlot where
  op : Nat
  e1 : Word32
  e2 : Word32
  gids : List Nat
  entries : List Nat
  deriving DecidableEq, Repr

/-- An issue journal entry (R305). -/
structure Journal where
  seq : Word64 := 0#64
  prog : Nat := 0
  st : BitVec 3 := 0#3
  gid : Nat := 0
  opc : Nat := 0
  xctl : Word32 := 0#32
  ctl : Word32 := 0#32
  pitch : Word64 := 0#64
  shape : Word64 := 0#64
  dsta : Word64 := 0#64
  srca : Word64 := 0#64
  deriving DecidableEq, Repr

structure Team where
  state : TeamState := .running
  ctx : Nat := 0
  node : Nat := 0
  index : Nat := 0
  core : Nat := 0
  cluster : Nat := 0
  clx : Nat := 0
  cly : Nat := 0
  w : Nat := 1
  h : Nat := 1
  prio : Nat := 0
  slot : Nat := 0
  placed : Nat := 0
  restored : Bool := false
  hdr : Header := {}
  code : Mem := []
  codePages : List Nat := []
  codeFrom : Nat := 0
  abuf : Mem := []
  wbuf : Mem := []
  cbuf : Tab Word32 := []
  crows : Tab CRow := []
  apoison : List Nat := []
  wpoison : List Nat := []
  cpoison : List Nat := []
  bars : Tab Bar := []
  arrs : Tab Arrival := []
  gslots : Tab SlotState := []
  recs : Tab (BitVec 256) := []
  binds : Tab Binding := []
  cslots : Tab CopySlot := []
  journal : Tab Journal := []
  jseq : Word64 := 0#64
  rampslot : Nat := 0
  flush : List Nat := []
  stepDone : Bool := false
  pass : Nat := 0
  granted : Option Nat := none
  counted : Bool := false
  freed : Bool := false
  deriving DecidableEq, Repr

/-! ## The core and the quad (R136, R137, R212, R255, R457) -/

/-- A line of an L1 data cache (R212): valid words, dirty bytes, data, expiry in ticks (`none` for L7), the words of an
owned span, the contexts and virtual lines under which it was used, the request whose fill it last took, and the threads
that stored its dirty bytes. -/
structure L1Line where
  valid : BitVec 32 := 0#32
  dirty : BitVec 128 := 0#128
  data : Mem := []
  expiry : Option Nat := none
  own : BitVec 32 := 0#32
  vls : List (Nat × Nat) := []
  leaf : Word64 := 0#64
  fetch : Nat := 0
  writers : List ThrRef := []
  deriving DecidableEq, Repr

/-- A TLB entry (R392): context, virtual page of 64 KiB, the leaf entry and its level and address. -/
structure TlbEntry where
  ctx : Nat
  vpn : Nat
  leaf : Word64
  level : Nat
  at' : Nat
  deriving DecidableEq, Repr

/-- A core. `sfuUntil` and `nextPick` are core clocks of its quad (R129, R176). -/
structure Core where
  l1 : Tab L1Line := []
  tlb : List TlbEntry := []
  thresh : Half := 0x400#16
  sfuUntil : Nat := 0
  nextPick : Nat := 0
  deriving DecidableEq, Repr

inductive MeKind where
  | mma | mmat | mmz | mmw
  deriving DecidableEq, Repr

/-- A command of the request table (R253 to R258), with what it captured at acceptance, the chunks accumulated so
far (key: row × 256 + column), and the operand lines Pug has fetched and pinned (key: line; data by offset). -/
structure MeCmd where
  id : Nat
  team : Nat
  gid : Nat
  kind : MeKind
  mask : LaneMask
  ra : BitVec 256 := 0#256
  rb : BitVec 256 := 0#256
  m0 : Nat := 0
  n0 : Nat := 0
  k0 : Nat := 0
  dw : Word64 := 0#64
  acc : Bool := false
  satI : Bool := false
  sgnA : Bool := false
  sgnB : Bool := false
  lower : Bool := false
  force : Bool := false
  kc : Nat := 1
  nb : Nat := 0
  tile : Nat := 0
  ctl : Option GlzCtl := none
  dst : Nat := 0
  srcA : Nat := 64
  srcB : Nat := 64
  seedv : Word32 := 0#32
  bar : Option Nat := none
  gs : Nat := 0
  held : Bool := false
  wait : Nat := 0
  since : Nat := 0
  todo : List (Nat × Nat) := []
  vals : Tab Word32 := []
  need : List Nat := []
  lines : Tab Mem := []
  pages : List (Nat × Nat × Word64) := []
  bad : List Nat := []
  lost : List Nat := []
  cls : Tab Nat := []
  doneAt : Option Nat := none
  doneTick : Option Nat := none
  deriving DecidableEq, Repr

/-- A quad. Its core clock `clkBase` begins at tick `clkSince`, or is the one in which it stands while gated or stopped (R19,
R140). `passAt` and the `doneAt` of its commands are core clocks, `slipFree` counts in 256ths of one (R258, R313).
`latched` are the faults detected during a ratio stop on instructions issued before it; the pass and the commands that a stop finds under
way end at `passTick` and `doneTick` (R460). -/
structure Quad where
  gated : Bool := true
  ratio : BitVec 2 := 0#2
  entry : BitVec 2 := 0#2
  pass : BitVec 2 := 0#2
  floor : BitVec 2 := 0#2
  ilim : Half := 40#16
  clampev : Word32 := 0#32
  stopUntil : Option Nat := none
  nextOp : Option Word64 := none
  heldReturns : List Nat := []
  latched : List (ThrRef × Flt) := []
  quiet : Nat := 0
  measure : Nat := 0
  clkBase : Nat := 0
  clkSince : Nat := 0
  me : List MeCmd := []
  busy : Option (Nat × Nat) := none
  passAt : Option Nat := none
  passTick : Option Nat := none
  pugClk : Nat := 0
  pugCnt : Nat := 0
  slipFree : Nat := 0
  slipLast : Nat := 0
  mepass : Word64 := 0#64
  meskip : Word64 := 0#64
  mebal : Word64 := 0#64
  balPending : Nat := 0
  ballast : Word64 := 0#64
  share : Nat := 0
  tlb : List TlbEntry := []
  deriving DecidableEq, Repr

/-! ## The tower and the slice (R203, R209, R213, R218, R293, R438, R462, R470) -/

structure Tower where
  spmap : Tab (BitVec 4) := []
  errUnit : Nat := 0
  err : Bool := false
  busy : Bool := false
  leaving : List Nat := []
  alarm : Byte := 100#8
  tj : Byte := 0#8
  tstate : BitVec 2 := 0#2
  alrm : Bool := false
  alrmAt : Option Nat := none
  offlining : Option Nat := none
  wasOn : List Nat := []
  secnt : Word64 := 0#64
  bufcnt : Word64 := 0#64
  parcnt : Word64 := 0#64
  hbmcnt : Word64 := 0#64
  trcseq : Word64 := 0#64
  deriving DecidableEq, Repr

/-- An owner span at a home (R213): line, owning agent (`0x10 + tower` on this device), sub-agent (core), words, and the
order in which it was granted. -/
structure Span where
  line : Nat
  agent : Nat
  sub : Nat
  words : BitVec 32
  seq : Nat
  deriving DecidableEq, Repr

/-- A watcher at a home (R293): a thread of this device, or a sub-agent of another agent. -/
inductive Watcher where
  | thread (t : ThrRef)
  | agent (id sub tag : Nat)
  deriving DecidableEq, Repr

/-- A line held in the cache partition or in the KV reserve of its home slice (R205, R218): dirty, last use, KEEP, reserve
or cache, the tick until which it is not a victim (R266), and the unit of the partition that holds it (R204). -/
structure CacheLine where
  dirty : Bool := false
  used : Nat := 0
  keep : Nat := 0
  reserve : Bool := false
  guardUntil : Nat := 0
  slice : Nat := 0
  unit : Nat := 0
  deriving DecidableEq, Repr

/-- A slice's vertical wires (R437, R438). By bundle and direction, `beats` is the sequence number that the receiver expects next, and
`fails` how often in a row that beat has failed. -/
structure Slice where
  replays : BitVec 24 := 0#24
  half : Byte := 0#8
  spused : BitVec 24 := 0#24
  retired : Bool := false
  beats : Tab Nat := []
  fails : Tab Nat := []
  deriving DecidableEq, Repr

/-! ## Contexts, nodes and queues (R318, R326, R330, R342, R363) -/

inductive CtxState where
  | free | building | ready | running | preempting | saved | migrating | faulted | teardown
  deriving DecidableEq, Repr

structure Comm where
  cfg : Word64 := 0#64
  tab : Word64 := 0#64
  deriving DecidableEq, Repr

structure Ctx where
  state : CtxState := .free
  busy : Bool := false
  cmdst : Byte := 0#8
  cause : Byte := 0#8
  ptroot : Word64 := 0#64
  gtbase : Word64 := 0#64
  gtsize : Nat := 0
  sysq : Word64 := 0#64
  area : Nat := 0
  slots : Nat := 0
  predl : Half := 50#16
  wdog : Word32 := 1000000#32
  cseq : Word64 := 0#64
  flogcnt : Word64 := 0#64
  bar4base : Word64 := 0#64
  part : Tab Word64 := []
  seeds : Tab Word32 := []
  leases : Tab Half := []
  comms : Tab Comm := []
  migrate : Bool := false
  counted : Nat := 0
  countSince : Option Nat := none
  limit : Nat := 0
  queued : List (CmdSource × Nat) := []
  adopted : Bool := false
  deriving DecidableEq, Repr

/-- A launched node: the record fields captured when PRED reached 0 (R327), its pool entry and its course (R328 to
R336). -/
structure NodeRun where
  ctx : Nat
  node : Nat
  hdr : Header
  args : Word64 := 0#64
  privhi : Nat := 0
  stkw : Nat := 0
  ncl : Nat := 1
  w : Nat := 1
  h : Nat := 1
  prio : Nat := 0
  persistent : Bool := false
  ramp : Nat := 0
  cq : Option Nat := none
  succA : Nat := 0
  nsucc : Nat := 0
  stamp : Nat := 0
  affinity : Option Nat := none
  pooled : Bool := false
  next : Nat := 0
  ended : Nat := 0
  since : Nat := 0
  tstart : Nat := 0
  killed : Bool := false
  failed : Bool := false
  refused : Bool := false
  blocking : Bool := false
  record : Nat := 0
  seq : Word64 := 0#64
  deriving DecidableEq, Repr

inductive QState where
  | free | active | frozen | draining | error
  deriving DecidableEq, Repr

/-- An enqueue or a QCTL of a thread that has begun and has not reached the queue unit: where the thread stands, and the id that was next when it
came (R344). -/
structure Turn where
  thr : ThrRef
  pc : Word64
  stamp : Nat
  deriving DecidableEq, Repr

structure Queue where
  state : QState := .free
  owner : Nat := 0
  c : Nat := 0
  home : Nat := 0
  base : Nat := 0
  head : Nat := 0
  tail : Nat := 0
  drop : Word64 := 0#64
  waiters : List ThrRef := []
  turn : List Turn := []
  deriving DecidableEq, Repr

/-- What follows a device item (R349): a completion step, threads or a copy waiting on a record, the return of a frame. A `host`
item is a host enqueue that waits for a page move or for earlier host writes (R246, R359). -/
inductive ItemKind where
  | completion (run : Nat)
  | record (waits : Bool) (code : Byte)
  | frame (pa : Nat)
  | host
  deriving DecidableEq, Repr

/-- An item that waits at its queue (R349). -/
structure DevItem where
  id : Nat
  ctx : Nat
  queue : Nat
  kind : ItemKind
  bytes : List Byte
  deriving DecidableEq, Repr

/-! ## Accesses in flight (R211 to R235) -/

/-- The kinds of request; `arm` and `disarm` are of a monitor at another die's home (R293, R417). -/
inductive ReqKind where
  | read | own | uc | write | writeBack | atomic | reduce | prefetch | arm | disarm
  deriving DecidableEq, Repr

/-- What one thread asks of the line of a request: byte offset and width, destination register and its register count,
sign extension, data or operand b, the CAS new value, whether an acquire follows, whether it is an SLD or reads PH for a BARW.WAIT,
and the value returned with its poison. -/
structure Part where
  thr : Option ThrRef
  off : Nat
  width : Nat
  dst : Nat := 0
  sx : Bool := false
  val : Nat := 0
  nv : Nat := 0
  fcoal : Bool := false
  sld : Bool := false
  poll : Bool := false
  got : Option (Nat × Bool) := none
  deriving DecidableEq, Repr

/-- An access issued and not yet performed, or performed and not yet returned. `acqs` are the threads that acquire at its
return, with the scope and the covered regions. It is served at `serve`, returns at `due`, or in the core clock `dueClk` of the quad where its latency is in core
clocks, was translated by `leaf`, and does
not keep in L1 the words of `nokeep`, which the core has stored to the home or dropped since (R214, R237). `out` says that the
message of a fabric request has gone out, under `tag`. `vls` are the contexts and virtual lines by which it was made; `fetched` and `home`
are the words that a read fetched for L1 and the line as it stood; `writers` are the threads whose stores a write-back carries, and `gives` the words of an owner span that it gives back (R213). `watch` is the thread whose
monitor an `arm` registers. `order`
rises with every request sent: a core's requests to one line are served in it (R234). `walk` marks what a walker, a fetch or a unit of the
device asks of another die's home, and `hub` says that it is a unit's, which stands at the hub. -/
structure Req where
  id : Nat
  kind : ReqKind
  core : Nat
  ctx : Nat
  line : Nat
  vls : List (Nat × Nat) := []
  parts : List Part
  aop : Nat := 0
  w64 : Bool := false
  lease : Option (Option Nat) := none
  mask : BitVec 128 := 0#128
  data : Mem := []
  due : Nat
  dueClk : Option Nat := none
  serve : Nat := 0
  leaf : Word64 := 0#64
  nokeep : BitVec 32 := 0#32
  fetched : BitVec 32 := 0#32
  home : List Byte := []
  writers : List ThrRef := []
  gives : BitVec 32 := 0#32
  watch : Option ThrRef := none
  order : Nat := 0
  performed : Bool := false
  out : Bool := false
  tag : Nat := 0
  copy : Option (Nat × Nat) := none
  bar4 : Option (Nat × Nat × Nat) := none
  walk : Bool := false
  hub : Bool := false
  deriving DecidableEq, Repr

/-- A line of another die's home that a walk, a fetch or a unit has read there, until it is used (R28, R343, R389); `bad` says that it came
poisoned, or not at all. -/
structure FarRead where
  line : Nat
  bytes : List Byte := []
  bad : Bool := false
  deriving DecidableEq, Repr

/-- A result of an asynchronous arithmetic form not yet written (R129). -/
structure Async where
  thr : ThrRef
  dst : Nat
  val : Word32
  flags : BitVec 5 := 0#5
  sync : Bool := false
  deriving DecidableEq, Repr

/-- The arrival of an exited forked group on its join register, once the accesses listed are performed (R193). -/
structure PendJoin where
  team : Nat
  bar : Nat
  reqs : List Nat
  deriving DecidableEq, Repr

/-- An acquire that waits for a return (R225, R237): the thread, the scope, the regions covered (`none` for every
address), and what it waits for. -/
structure PendAcq where
  thr : ThrRef
  req : Nat
  scope : Nat
  cover : Option (List (Nat × Nat))
  deriving DecidableEq, Repr

/-! ## Copies and collectives (R302 to R321) -/

inductive CopyState where
  | held | running | faultWait | replay
  deriving DecidableEq, Repr

/-- A part of a running copy; `row` and `off` say which beat comes next. -/
structure CopyPart where
  entry : Nat
  src : Word64
  dst : Word64
  rows : Nat
  rb : Nat
  sp : Nat
  dp : Nat
  row : Nat := 0
  off : Nat := 0
  deriving DecidableEq, Repr

/-- A piece of a destination row: the row, the offset in it, and bytes. -/
structure BeatSeg where
  row : Nat
  off : Nat
  len : Nat
  deriving DecidableEq, Repr

/-- A beat of a copy (R313): its part, destination row and byte range in the row, and the pieces of later rows that it writes in
the word in which that range ends, so that the word is written whole. Until its source is read it is `unread`; then it carries its bytes,
by their offset from the first, to one destination, a cluster member's buffer or a physical address. `bad` are the offsets of bytes whose
source word was poisoned (R315). A beat that has `begun` goes on in a ratio stop (R460); `remote` holds the lines
that another device or die has sent it, and `badLines` those that were poisoned there. -/
structure CopyBeat where
  id : Nat
  part : Nat
  row : Nat
  off : Nat
  len : Nat
  more : List BeatSeg := []
  unread : Bool := true
  blocked : Bool := false
  member : Option Nat := none
  pa : Nat := 0
  leaf : Word64 := 0#64
  data : Tab Byte := []
  bad : List Nat := []
  begun : Bool := false
  counts : Bool := false
  due : Nat := 0
  remote : Tab Mem := []
  badLines : List Nat := []
  deriving DecidableEq, Repr

structure CopyCmd where
  id : Nat
  team : Nat
  op : Nat
  ctl : CopyCtl
  core : Nat
  parts : List CopyPart
  state : CopyState
  token : Word64 := 0#64
  logged : Bool := false
  beats : List CopyBeat := []
  deriving DecidableEq, Repr

inductive CollState where
  | held | posted | matched | faultWait | withdrawn
  deriving DecidableEq, Repr

/-- A collective (R320, R321). `wdog` is the watchdog period in force when it was posted; from its match on it holds the posts of the
ranks and the device ids of its communicator's table, and, as they come, the lines of its send buffer that other devices hold. `ran` says
that its results are on their way, `outs` are those that have not been performed. -/
structure Coll where
  id : Nat
  team : Nat
  gid : Nat
  entry : Nat
  ctl : CollCtl
  send : Word64
  recv : Word64
  count : Nat
  seq : Nat
  core : Nat
  state : CollState
  postedAt : Nat
  wdog : Nat := 0
  posts : List RankPost := []
  devs : List Nat := []
  remote : Tab Mem := []
  ran : Bool := false
  outs : List Nat := []
  token : Word64 := 0#64
  deriving DecidableEq, Repr

/-! ## The Damper and Kiln (R448, R458, R464 to R472) -/

inductive ReqFor where
  | admission (cluster : Nat)
  | bar (team b : Nat)
  | wake (thrs : List ThrRef)
  | gridStep (ctx node team : Nat)
  deriving DecidableEq, Repr

/-- A request to the Damper (R448). `event` names the event that submitted it with others, and is 0 where it stands alone. -/
structure DamperReq where
  id : Nat
  what : ReqFor
  load : Nat
  pinned : Bool
  window : Nat
  release : Bool
  core : Nat
  order : Nat
  deadline : Option Nat
  event : Nat := 0
  deriving DecidableEq, Repr

structure Damper where
  bound : Nat := 120
  t : Nat := 0
  r : Nat := 0
  reqs : List DamperReq := []
  excess : Word64 := 0#64
  short : Word64 := 0#64
  room : Nat := 0
  spent : Bool := false
  win : Nat := 0
  viol : Word64 := 0#64
  deriving DecidableEq, Repr

/-- Kiln. `unpublished` is set where the topology table changed while it was down (R435); `ataim` and `atseal` are the address and the
nonce of the attestation under way (R466), `dyn` the dynamic address of its I3C target (R472). -/
structure Kiln where
  arg : Word64 := 0#64
  status : Byte := 0#8
  busy : Option (Nat × Word64) := none
  down : Option Nat := none
  restarting : Bool := false
  unpublished : Bool := false
  step : Nat := 6
  fail : Nat := 0
  stopped : Bool := false
  ataddr : Nat := 0
  nonce : Tab Word64 := []
  atstatus : Byte := 0#8
  atbusy : Bool := false
  ataim : Nat := 0
  atseal : Tab Word64 := []
  dyn : Option Nat := none
  life : BitVec 3 := 2#3
  pending : BitVec 3 := 7#3
  lcresult : BitVec 2 := 0#2
  token : List Byte := []
  flash : Option KilnImage := none
  imageVersion : Byte := 0#8
  imageDigest : List Byte := []
  identity : Bool := true
  slotsRevoked : Bool := false
  deriving DecidableEq, Repr

/-! ## Links and agents (R412 to R443) -/

inductive LinkState where
  | down | training | active | pausing | paused | retraining | error | failed
  deriving DecidableEq, Repr

/-- One end of a module, or a Fazin-X port (R421, R424). By virtual channel, `used` are the credits that its sender has spent and not
got back, of the `credits` that the far end offers, and `held` those that it has to return for flits that have arrived (R419). `dead` are
the receive lanes that no longer work, `farRepair` the repair entries at the end of an integrator's die, `upper` the half in use at x32, and
`attempts` those of the training under way that have failed (R421, R493). -/
structure LinkEnd where
  state : LinkState := .down
  peerInc : Half := 0#16
  peerId : Nat := 0xFFF
  spused : Nat := 0
  width : BitVec 2 := 0#2
  rth : Bool := false
  rthresh : Word32 := 0x400#32
  tgtw : BitVec 2 := 0#2
  crcerr : Word32 := 0#32
  retries : Word32 := 0#32
  repair : Word64 := 0#64
  lane : Word64 := 0#64
  dead : Word64 := 0#64
  farRepair : Word64 := 0#64
  upper : Bool := false
  attempts : Nat := 0
  stale : Word32 := 0#32
  badid : Word32 := 0#32
  seqs : Tab Word32 := []
  err : BitVec 4 := 0#4
  fromPaused : Bool := false
  aim : BitVec 2 := 0#2
  credits : Nat := 32
  used : Tab Nat := []
  held : Tab Nat := []
  deriving DecidableEq, Repr

inductive AgentState where
  | active | failed | refused | absent
  deriving DecidableEq, Repr

/-- An agent as Kiln and the homes record it (R426, R430, R434). -/
structure Agent where
  kind : Nat
  inc : Half := 0#16
  state : AgentState := .active
  tower : Nat := 0
  edge : Nat := 0
  unit : Nat := 0
  units : Nat := 0
  hello : Option Nat := none
  assigned : Bool := true
  deriving DecidableEq, Repr

/-- A recall that its home waits for (R213, R428, R429), with the TAG of its message. -/
structure Recall where
  id : Nat
  tag : Nat := 0
  agent : Nat
  sub : Nat
  line : Nat
  words : BitVec 32
  sentAt : Nat
  deriving DecidableEq, Repr

/-- A message that the device has sent to another agent, to the host or to the board management controller (R417, R441, R443, R472). The
words that a beat writes poisoned have no place in the layout of R417 (DESIGN CHOICE, log entry 95). -/
inductive Sent where
  | response (agent sub tag : Nat) (status : BitVec 3) (val : Word64)
  | data (agent sub tag line : Nat) (mask : BitVec 128) (bytes : List Byte)
  | recallOf (agent sub tag line : Nat) (words : BitVec 32)
  | request (agent sub tag line : Nat) (kind : Nat) (words : BitVec 32) (aop : Nat) (w64 : Bool)
  | beat (agent sub tag line dsp : Nat) (mask : BitVec 128) (bytes : List Byte) (bad : BitVec 32)
  | control (agent src opc : Nat) (field : Word64)
  | hostData (fn : Nat) (bytes : List Byte)
  | completerAbort (fn : Nat)
  | managed (bytes : List Byte)
  | configRetry (fn : Nat)
  deriving DecidableEq, Repr

/-- A message that waits at its sender (R414, R419): the modules on its way, its virtual channel, and what it says. A control message
lists no module: it takes the lowest ACTIVE ones when it goes. -/
structure OutMsg where
  path : List (Nat × Nat)
  vc : Nat
  msg : Sent
  deriving DecidableEq, Repr

/-! ## The page (R409) -/

/-- The page instructions (R405), and the return of a frame (R397). -/
inductive PageKind where
  | leaf (level : Nat)
  | table (level : Nat)
  | share (cow : Bool)
  | unshare
  | move
  | inv (mode : Nat)
  | dirty (peek : Bool)
  | frame
  deriving DecidableEq, Repr

/-- A page instruction in progress: its operands, the threads that wait for it, how far it has come, and what it waits for:
requests, copy beats and fetches of Pug that used the old translations, write-backs, and lines of another device. -/
structure Move where
  kind : PageKind
  ctx : Nat
  va : Nat
  ctx2 : Nat := 0
  va2 : Nat := 0
  user : Bool := false
  entry : Word64 := 0#64
  count : Nat := 0
  thrs : List ThrRef := []
  dst : Nat := 0
  len : Nat := 8
  stage : Nat := 0
  reqs : List Nat := []
  beats : List (Nat × Nat) := []
  cmds : List (Nat × Nat) := []
  pages : List Nat := []
  frames : List Nat := []
  zeroed : List (Nat × Nat) := []
  result : Word64 := 0#64
  old : Word64 := 0#64
  entryAt : Nat := 0
  remote : Tab Mem := []
  bad : List Nat := []
  deriving DecidableEq, Repr

/-! ## The packet and the agenda -/

/-- The packet being executed (R177, R178): its core, team, the address of its instruction, the instruction's length, its
threads as (gid, lane) in ascending order of home lane, and the id of the first access it issues. -/
structure Packet where
  core : Nat
  team : Nat
  pc : Word64
  len : Nat
  thrs : List (Nat × Nat)
  base : Nat := 0
  deriving DecidableEq, Repr

/-- One action of the agenda: a core's picker issues a packet, or an event happens. -/
inductive Act where
  | pick (core : Nat)
  | ev (i : Instr)
  deriving DecidableEq, Repr

/-- A 32-byte block of code, by its number in physical memory, as it stood before a write, and the id that was next then (R30). -/
structure OldBlock where
  block : Nat
  stamp : Nat
  bytes : List Byte
  deriving DecidableEq, Repr

structure State where
  now : Nat
  mem : Mem
  hostMem : Mem
  poison : List Nat
  codeFrames : List Nat
  codePast : List OldBlock
  threads : Tab Thread
  groups : Tab Group
  teams : Tab Team
  cores : Tab Core
  quads : Tab Quad
  towers : Tab Tower
  slices : Tab Slice
  remap : Tab Nat
  spans : List Span
  watchers : Tab (List Watcher)
  cache : Tab CacheLine
  ctxs : Tab Ctx
  nodes : Tab NodeRun
  stamp : Nat
  queues : Tab Queue
  items : List DevItem
  reqs : Tab Req
  farReads : List FarRead
  asyncs : Tab Async
  acqs : List PendAcq
  joins : List PendJoin
  copies : Tab CopyCmd
  colls : Tab Coll
  damper : Damper
  kiln : Kiln
  links : Tab LinkEnd
  steer : Tab Word64
  edgeErr : List Nat
  agents : Tab Agent
  fx : Tab Agent
  fxslots : Tab Word64
  fxself : Nat
  fxSet : Bool
  fxsteer : Tab Word64
  recalls : Tab Recall
  msgData : Tab Msg
  waiting : List Instr
  sent : List Sent
  outbox : List OutMsg
  hubIn : List (Nat × Msg)
  routed : List Nat
  fxInc : Half
  topoBase : Nat
  moves : Tab Move
  t1 : Bool
  package : BootFind
  pcieUp : Bool
  d3hot : List Nat
  msixTab : Tab Word64
  msixPend : List (Nat × Nat)
  bar4Log : Tab Nat
  msix : List (Nat × Nat)
  agenda : List Act
  timers : Tab (List Instr)
  ctimers : Tab (Tab (List Instr))
  cur : Option Packet
  nextId : Nat
  fresh : Nat
  deriving DecidableEq, Repr

/-! ## Reset -/

/-- The agents of a W8 after discovery (R426, R433). -/
def resetAgents : Tab Agent :=
  bootAgents.map (fun (id, kind, tower, edge) => (id, { kind := kind, tower := tower, edge := edge }))

/-- A module end after discovery: ACTIVE, with the far-end agent named (R424, R433). The HELLO that went over it and the IDENT that came
back stand in the counters of the control channel (R495); of ASSIGN and ACCEPT the manual does not say which modules they crossed (log
entry 96). -/
def bootLink (peer : Nat) : LinkEnd := { state := .active, peerId := peer, seqs := [(5, 0x00010001#32)] }

/-- The tower at the far end of a tower edge (R9): edge 1 toward the centre of the row, edge 2 the other neighbour, or the
other row in columns 0 and 3. -/
def edgePeer (t e : Nat) : Nat :=
  let c := t % 4
  if e = 0 then (if c = 0 then t + 1 else if c = 1 then t + 1 else if c = 2 then t - 1 else t - 1)
  else (if c = 0 ∨ c = 3 then (t + 4) % 8 else if c = 1 then t - 1 else t + 1)

/-- Modules of each edge (R9). -/
def edgeModules (e : Nat) : Nat := if e < 2 then 12 else if e = 2 then 8 else 4

/-- The number of a register block of the link blocks (R423), in units of 0x1000 from 0x0500_0000. -/
def towerBlk (t e m : Nat) : Nat := t * 0x40 + e * 0x10 + m
def bridgeBlk (t m : Nat) : Nat := 0x400 + t * 0x10 + m
def hubBlk (t m : Nat) : Nat := 0x600 + t * 0x10 + m
def portBlk (p : Nat) : Nat := 0x800 + p

def resetTowerLinks (t : Nat) : Tab LinkEnd :=
  (List.range 4).flatMap (fun e => (List.range (edgeModules e)).map (fun m =>
    (towerBlk t e m, bootLink (if e = 2 then 0x20 + t else if e = 3 then 0x001 else 0x10 + edgePeer t e))))

/-- Every module ACTIVE at x64 after boot (R433 step 1); the Fazin-X ports are not listed and are DOWN. -/
def resetLinks : Tab LinkEnd :=
  (List.range 8).flatMap resetTowerLinks
    ++ (List.range 8).flatMap (fun t => (List.range 8).map (fun m => (bridgeBlk t m, bootLink (0x10 + t))))
    ++ (List.range 8).flatMap (fun t => (List.range 4).map (fun m => (hubBlk t m, bootLink (0x10 + t))))

/-- What discovery finds around a W8 (R433): the memory bridge and the compute die of every tower, at the module ends where they are met
first. -/
def w8Package : BootFind where
  t1 := false
  dies := (List.range 8).flatMap (fun t =>
    [(towerBlk t 2 0, 1#4), (towerBlk t 3 0, 0#4)].map (fun x =>
      { blk := x.1, src := 0xFFF, kind := x.2, inc := 0#16, credits := 32#8, firstUnit := 0#8, units := 0#8, wiped := true, dev := 0#9 }))

/-- The machine right after reset, at step 6 of R464: every quad gated (R19), every context FREE (R364), memory wiped
(R467), the first window boundary of the Damper to come (R445). Values that the manual does not give are named in
log entries 1 to 12. -/
def State.reset : State where
  now := 0
  mem := []
  hostMem := []
  poison := []
  codeFrames := []
  codePast := []
  threads := []
  groups := []
  teams := []
  cores := []
  quads := []
  towers := []
  slices := []
  remap := []
  spans := []
  watchers := []
  cache := []
  ctxs := []
  nodes := []
  stamp := 0
  queues := []
  items := []
  reqs := []
  farReads := []
  asyncs := []
  acqs := []
  joins := []
  copies := []
  colls := []
  damper := {}
  kiln := { imageVersion := Config.bootImageVersion, imageDigest := Config.bootImageDigest }
  links := resetLinks
  steer := []
  edgeErr := []
  agents := resetAgents
  fx := []
  fxslots := []
  fxself := 0
  fxSet := false
  fxsteer := []
  recalls := []
  msgData := []
  waiting := []
  sent := []
  outbox := []
  hubIn := []
  routed := []
  fxInc := 0#16
  topoBase := topoTable
  moves := []
  t1 := false
  package := w8Package
  pcieUp := true
  d3hot := []
  msixTab := []
  msixPend := []
  bar4Log := []
  msix := []
  agenda := []
  timers := [(302400, [.windowBoundary])]
  ctimers := []
  cur := none
  nextId := 1
  fresh := 0

end Sys2Proof.Machine
end

