-- ==== Sys2Proof/Machine/Ops.lean ====
section
/-! DEFINITION. The named operations over the state: access to its tables, time and timers, registers, the order in which
the checks of an instruction run for the threads of a packet (R33, R34, R53) and for a rendezvous (R170 to R174), taking
an exception (R369 to R374) and returning from one, the context fault log (R375). -/

namespace Sys2Proof.Machine

abbrev Out := Host.Outcome State Fault Refusal

/-! ## Tables -/

/-- The key of a thread in `State.threads`, and of a group in `State.groups`. -/
def thrKey (t : ThrRef) : Nat := t.team * 1024 + t.gid * 32 + t.lane
def grpKey (team gid : Nat) : Nat := team * 32 + gid
def refOf (k : Nat) : ThrRef := { team := k / 1024, gid := k / 32 % 32, lane := k % 32 }

def noThread : Thread := { stat := .exited }

def thrOf (s : State) (t : ThrRef) : Thread := tgetD s.threads (thrKey t) noThread
def setThr (s : State) (t : ThrRef) (x : Thread) : State := { s with threads := tput (thrKey t) x s.threads }
def modThr (s : State) (t : ThrRef) (f : Thread → Thread) : State := setThr s t (f (thrOf s t))

def grpOf (s : State) (team gid : Nat) : Group := tgetD s.groups (grpKey team gid) { state := .exited, live := 0#32 }
def setGrp (s : State) (team gid : Nat) (x : Group) : State := { s with groups := tput (grpKey team gid) x s.groups }
def modGrp (s : State) (team gid : Nat) (f : Group → Group) : State := setGrp s team gid (f (grpOf s team gid))

def teamOf (s : State) (k : Nat) : Team := tgetD s.teams k {}
def modTeam (s : State) (k : Nat) (f : Team → Team) : State := { s with teams := tput k (f (teamOf s k)) s.teams }

def coreOf (s : State) (c : Nat) : Core := tgetD s.cores c {}
def modCore (s : State) (c : Nat) (f : Core → Core) : State := { s with cores := tset {} c (f (coreOf s c)) s.cores }

def quadOf (s : State) (q : Nat) : Quad := tgetD s.quads q {}
def modQuad (s : State) (q : Nat) (f : Quad → Quad) : State := { s with quads := tset {} q (f (quadOf s q)) s.quads }

def towerOf (s : State) (t : Nat) : Tower := tgetD s.towers t {}
def modTower (s : State) (t : Nat) (f : Tower → Tower) : State := { s with towers := tset {} t (f (towerOf s t)) s.towers }

def ctxOf (s : State) (c : Nat) : Ctx := tgetD s.ctxs c {}
def modCtx (s : State) (c : Nat) (f : Ctx → Ctx) : State := { s with ctxs := tset {} c (f (ctxOf s c)) s.ctxs }

def queueAt (s : State) (q : Nat) : Queue := tgetD s.queues q {}
def modQueue (s : State) (q : Nat) (f : Queue → Queue) : State := { s with queues := tset {} q (f (queueAt s q)) s.queues }

def linkAt (s : State) (b : Nat) : LinkEnd := tgetD s.links b {}
def modLink (s : State) (b : Nat) (f : LinkEnd → LinkEnd) : State := { s with links := tput b (f (linkAt s b)) s.links }

def nodeKey (ctx node : Nat) : Nat := ctx * 65536 + node

/-- The team and group of a thread, its context, core and quad. -/
def thrTeam (s : State) (t : ThrRef) : Team := teamOf s t.team
def thrCtx (s : State) (t : ThrRef) : Nat := (thrTeam s t).ctx
def thrCore (s : State) (t : ThrRef) : Nat := (thrTeam s t).core
def tid (t : ThrRef) : Nat := t.gid * 32 + t.lane

/-- Threads of context 0 run at supervisor level, all others at user level (R360). -/
def isUser (tm : Team) : Bool := tm.ctx != 0

/-- A fresh id, and a fresh argument for the free values of Config (log entry 11). -/
def newId (s : State) : Nat × State := (s.nextId, { s with nextId := s.nextId + 1 })
def newFresh (s : State) : Nat × State := (s.fresh, { s with fresh := s.fresh + 1 })

/-- The keys of the threads of a team, and of a group. -/
def teamThreads (s : State) (team : Nat) : List ThrRef :=
  (s.threads.filter (fun e => e.1 / 1024 == team)).map (fun e => refOf e.1)
def teamGroups (s : State) (team : Nat) : List Nat :=
  (s.groups.filter (fun e => e.1 / 32 == team)).map (fun e => e.1 % 32)
def groupLanes : List Nat := List.range 32

/-! ## Time (R3, R18, R137, R140) -/

/-- Ticks of a nanosecond: every clock of R18 has a whole number of ticks. -/
def nsTicks : Nat := 3024

/-- `%time`, in ns. -/
def timeNs (s : State) : Nat := s.now / nsTicks

/-- The period of a quad's core clock in ticks (R18). -/
def period (q : Quad) : Nat :=
  match q.ratio.toNat, q.entry.toNat with
  | 0, 0 => 7200
  | 0, 1 => 8400
  | 0, _ => 10080
  | 1, 0 => 5040
  | 1, 1 => 5600
  | 1, _ => 6300
  | _, 0 => 3780
  | _, 1 => 4200
  | _, _ => 4725

/-- `%passcnt` (R457). -/
def passCount (q : Quad) : Nat := if q.pass = 0#2 then 1 else if q.pass = 1#2 then 2 else 4

/-- The clock of a quad stands: it is gated or stopped for a change of ratio (R19, R140). -/
def clockStands (x : Quad) : Bool := x.gated || x.stopUntil.isSome

/-- `%clock`: core clocks since the quad was last ungated; it stands while the quad is gated or stopped (R140). A new entry counts
from the clock boundary at `clkSince`, which may still be to come (R19). -/
def clockOf (s : State) (q : Quad) : Nat :=
  if clockStands q then q.clkBase
  else if s.now < q.clkSince then q.clkBase - 1
  else q.clkBase + (s.now - q.clkSince) / period q

/-- The tick at which core clock `k` of a running quad begins. -/
def clockTick (q : Quad) (k : Nat) : Nat := q.clkSince + (k - q.clkBase) * period q

/-- The tick at which the next core clock of a quad begins. -/
def nextClock (s : State) (q : Nat) : Nat := clockTick (quadOf s q) (clockOf s (quadOf s q) + 1)

/-- Now is a clock boundary of a running quad. -/
def onEdge (s : State) (x : Quad) : Bool :=
  !clockStands x && decide (x.clkSince ≤ s.now) && (s.now - x.clkSince) % period x == 0

/-- The core clock of a core, and of the core of a thread. -/
def coreClock (s : State) (core : Nat) : Nat := clockOf s (quadOf s (coreQuad core))
def thrClock (s : State) (t : ThrRef) : Nat := coreClock s (thrCore s t)

/-- Puts an event on the timers, after those already due at that tick. -/
def schedule (s : State) (tick : Nat) (e : Instr) : State :=
  { s with timers := tput tick (tgetD s.timers tick [] ++ [e]) s.timers }

/-- The same, unless it stands there already. -/
def scheduleOnce (s : State) (tick : Nat) (e : Instr) : State :=
  if (tgetD s.timers tick []).contains e then s else schedule s tick e

/-- Puts an event on the timers of a quad for one of its core clocks, after those already due in it. A duration in core clocks
stretches with the clock and stands when it stands (R3, R20). -/
def scheduleClk (s : State) (q k : Nat) (e : Instr) : State :=
  let t := tgetD s.ctimers q []
  { s with ctimers := tput q (tput k (tgetD t k [] ++ [e]) t) s.ctimers }

/-- An event `n` core clocks from now. -/
def afterClocks (s : State) (q n : Nat) (e : Instr) : State := scheduleClk s q (clockOf s (quadOf s q) + n) e

/-- A latency: core clocks of the core's quad, or ns (R3, R25). -/
inductive Lat where
  | clk (n : Nat)
  | ns (n : Nat)
  deriving DecidableEq, Repr

/-- An event after a latency and a free delay of its unit. -/
def afterLat (s : State) (q : Nat) (l : Lat) (d : Nat) (e : Instr) : State :=
  match l with
  | .clk n => afterClocks s q (n + d) e
  | .ns n => schedule s (s.now + n * nsTicks + d) e

/-- What waits at its sender: for a module, a recall or a page move. -/
def waitFor (s : State) (e : Instr) : State := if s.waiting.contains e then s else { s with waiting := s.waiting ++ [e] }

/-- What waits looks again. -/
def wakeWaiting (s : State) : State := s.waiting.foldl (fun s e => scheduleOnce s s.now e) { s with waiting := [] }

/-- Removes an event from the timers. -/
def unschedule (s : State) (e : Instr) : State :=
  { s with timers := (s.timers.map (fun (k, es) => (k, es.filter (· != e)))).filter (fun x => !x.2.isEmpty) }

/-- A free delay beyond the figures of R25 (R26, log entry 12). -/
def contend (s : State) : Nat × State := (Config.contention s.fresh, { s with fresh := s.fresh + 1 })

/-! ## Registers (R32, R127, R128, R131, R135) -/

/-- `v0` reads as all ones and is always full (R32). -/
def regOf (th : Thread) (n : Nat) : VReg :=
  if n = 0 then { val := 0xFFFFFFFF#32 } else tgetD th.v n {}

def regVal (th : Thread) (n : Nat) : Word32 := (regOf th n).val

/-- A write: the register becomes full and its poison bit is set as given; `v0` discards it (R32, R131). -/
def putReg (th : Thread) (n : Nat) (x : Word32) (poison : Bool := false) : Thread :=
  if n = 0 then th else { th with v := tset {} n { val := x, full := true, poison := poison } th.v }

/-- Marks a destination empty (R128). -/
def dropReg (th : Thread) (n : Nat) : Thread :=
  if n = 0 then th else { th with v := tset {} n { regOf th n with full := false } th.v }

def putRegs (th : Thread) (n : Nat) : List Word32 → Thread
  | [] => th
  | x :: r => putRegs (putReg th n x) (n + 1) r

def dropRegs (th : Thread) : List Nat → Thread
  | [] => th
  | n :: r => dropRegs (dropReg th n) r

/-- A pair, and a run of registers as one number (R32). -/
def pairVal (th : Thread) (n : Nat) : Word64 := cat32 (regVal th (n + 1)) (regVal th n)
def putPair (th : Thread) (n : Nat) (x : Word64) : Thread :=
  if n = 0 then th else putReg (putReg th n (lo32 x)) (n + 1) (hi32 x)

def sregOf (g : Group) (n : Nat) : Word64 := tgetD g.s n 0#64
def setSreg (g : Group) (n : Nat) (x : Word64) : Group := { g with s := tset 0#64 n x g.s }

/-- The s register that a thread reads comes from its own group's file (R178). -/
def thrSreg (s : State) (t : ThrRef) (n : Nat) : Word64 := sregOf (grpOf s t.team t.gid) n

/-! ## The states of a thread (R124) -/

/-- The thread becomes READY. -/
def makeReady (s : State) (t : ThrRef) : State := modThr s t (fun th => { th with stat := .ready })

def makeWait (s : State) (t : ThrRef) (w : WaitWhy) : State :=
  modThr s t (fun th => { th with stat := .waiting w, idleSince := thrClock s t })

def park (s : State) (t : ThrRef) (rs : List Nat) : State :=
  modThr s t (fun th => { th with stat := .parked rs, idleSince := thrClock s t })

/-- The thread's PC moves on; it stays READY. -/
def advance (s : State) (t : ThrRef) (pc : Word64) : State :=
  modThr s t (fun th => { th with stat := .ready, pc := pc, idleSince := thrClock s t })

/-- A PARKED thread whose registers have filled becomes READY (R124), and so does one at a SAFEPT (R339). -/
def unpark (s : State) (t : ThrRef) : State :=
  match (thrOf s t).stat with
  | .parked rs => if rs.all (fun n => (regOf (thrOf s t) n).full) then makeReady s t else s
  | .waiting .drain => if (thrOf s t).v.all (fun e => e.2.full) then makeReady s t else s
  | _ => s

/-- Wakes every thread that waits for what `p` says, to execute its instruction again. -/
def wakeWhere (s : State) (p : WaitWhy → Bool) : State :=
  { s with threads := tmap (fun th =>
      match th.stat with
      | .waiting w => if p w then { th with stat := .ready } else th
      | _ => th) s.threads }

/-! ## Faults (R369 to R375) -/

def fILLOP : Nat := 0x01
def fFETCH_SPLIT : Nat := 0x02
def fEMPTY_READ : Nat := 0x03
def fPRIV : Nat := 0x04
def fMISALIGN : Nat := 0x05
def fPAGE_NOTPRESENT : Nat := 0x06
def fPAGE_PERM : Nat := 0x07
def fPAGE_COW : Nat := 0x08
def fPOISON : Nat := 0x09
def fTAG_MISMATCH : Nat := 0x0A
def fRSV_INVALID : Nat := 0x0B
def fBUFFER_ACCESS : Nat := 0x0C
def fBAR_BUSY : Nat := 0x0D
def fBAR_INVALID : Nat := 0x0E
def fQUEUE_FAULT : Nat := 0x0F
def fRAMP_VIOLATION : Nat := 0x10
def fPREEMPT_TIMEOUT : Nat := 0x11
def fRESTORE_CAPACITY : Nat := 0x12
def fFP_TRAP : Nat := 0x13
def fSOFTWARE : Nat := 0x14
def fTOWER_LOST : Nat := 0x15
def fLINK_DOWN : Nat := 0x16
def fCOPY_FAULT : Nat := 0x17
def fWATCHDOG : Nat := 0x18
def fLAUNCH_REFUSED : Nat := 0x19

def flt (code : Nat) : Flt := { code := code }
def fltAt (code : Nat) (addr : Word64) : Flt := { code := code, addr := addr }

/-- The mask bit of a vector in the MSI-X table of a function (R442, R443): the Vector Control word of its entry. -/
def msixMasked (s : State) (fn vec : Nat) : Bool := (tgetD s.msixTab (fn * 8 + 2 * vec + 1) 0#64).getLsbD 32

/-- Whether a vector is held back: it is masked, its function is in D3hot (log entry 77), or the boot has stopped before the functions were
enabled (R464). -/
def msixHeld (s : State) (fn vec : Nat) : Bool := msixMasked s fn vec || s.d3hot.contains fn || s.kiln.stopped

/-- An MSI-X interrupt to a function (R444): sent, or pending in the PBA while its vector is held back. -/
def interrupt (s : State) (fn vec : Nat) : State :=
  if msixHeld s fn vec then
    { s with msixPend := if s.msixPend.contains (fn, vec) then s.msixPend else s.msixPend ++ [(fn, vec)] }
  else { s with msix := s.msix ++ [(fn, vec)] }

/-- The context goes to FAULTED with a cause (R364); its teams stop where they stand. -/
def faultCtx (s : State) (c : Nat) (cause : Nat) : State :=
  modCtx s c (fun x => if x.state = .free ∨ x.state = .teardown then x
    else { x with state := .faulted, cause := BitVec.ofNat 8 cause })

/-- The fields of SYSQ (R363). -/
def sysqEn (x : Ctx) (bit : Nat) : Bool := x.sysq.getLsbD bit
def sysqNum (x : Ctx) (lo : Nat) : Nat := x.sysq.toNat / 2 ^ lo % 4096

/-- Gives a device item to its queue: the event that enqueues it, or finds no room, comes next (R349). -/
def produce (s : State) (ctx queue : Nat) (kind : ItemKind) (bytes : List Byte) : State :=
  let (id, s) := newId s
  schedule { s with items := s.items ++ [{ id := id, ctx := ctx, queue := queue, kind := kind, bytes := bytes }] }
    s.now (.deviceItemEnqueue id)

/-- The next context sequence number (R247), for a record or a completion. -/
def takeSeq (s : State) (c : Nat) : Word64 × State :=
  ((ctxOf s c).cseq, modCtx s c (fun x => { x with cseq := x.cseq + 1 }))

/-- The bytes of a fault record (R374). -/
def recordBytes (seq : Word64) (addr pc : Word64) (aux : Nat) (token : Word64) (lanes team time src kind info code : Nat) :
    List Byte :=
  leBytes (code + info * 2 ^ 16 + kind * 2 ^ 32 + src * 2 ^ 40) 8 ++ leBytes time 8
    ++ leBytes (team % 2 ^ 32 + lanes * 2 ^ 32) 8 ++ leBytes token.toNat 8 ++ leBytes aux 8 ++ leBytes pc.toNat 8
    ++ leBytes addr.toNat 8 ++ leBytes seq.toNat 8

/-- A token (R374): kind, context, the low bits of the record's SEQ, the group slot or journal entry, the core. -/
def tokenOf (kind ctx : Nat) (seq : Word64) (slot core : Nat) : Word64 :=
  BitVec.ofNat 64 (kind * 2 ^ 60 + ctx % 64 * 2 ^ 48 + seq.toNat % 2 ^ 25 * 2 ^ 23 + slot % 2 ^ 11 * 2 ^ 12 + core % 4096)

/-- Sends a fault record to the context's fault queue; without one, a record on which something waits faults the context,
and any other is not delivered (R373). -/
def sendRecord (s : State) (ctx : Nat) (addr pc : Word64) (aux : Nat) (token : Word64) (lanes team src kind info code : Nat)
    (waits : Bool) : State :=
  let x := ctxOf s ctx
  if sysqEn x 28 then
    let (seq, s) := takeSeq s ctx
    produce s ctx (sysqNum x 16) (.record waits (BitVec.ofNat 8 code))
      (recordBytes seq addr pc aux token lanes team (timeNs s) src kind info code)
  else if waits then faultCtx s ctx code else s

def noTeam : Nat := 0xFFFFFFFF

/-- A handler-class fault in mode NORMAL with a trap handler declared (R372): the trap state is written, the mode becomes
TRAP and the PC goes to the handler; registers, `%fpc` and `%exm` are unchanged. -/
def enterHandler (hdr : Header) (pc next : Word64) (f : Flt) (th : Thread) : Thread :=
  { th with
    stat := .ready
    mode := .trap
    trapcode := BitVec.ofNat 32 (f.code + f.flags * 2 ^ 8 + f.info * 2 ^ 16)
    trappc := if f.after then next else pc
    trapaddr := f.addr
    linklost := th.linklost && !f.lost
    rel := none
    pc := hdr.addr + hdr.traph }

/-- Whether a fault runs the trap handler in the thread, or is delivered as a wait-class fault (R372). -/
def toHandler (hdr : Header) (th : Thread) (f : Flt) : Bool :=
  !f.wait && th.mode == .normal && hdr.traph != 0#64

/-- Faults that share one record: one group, one code, one page (R373). -/
def sameRecord (a b : ThrRef × Flt) : Bool :=
  a.1.gid == b.1.gid && a.2.code == b.2.code && a.2.page == b.2.page

/-- Counting toward a pre-emption deadline stands while a thread of the context is in FAULT_WAIT (R377). -/
def pauseCount (s : State) (c : Nat) : State :=
  match (ctxOf s c).countSince with
  | some t => modCtx s c (fun x => { x with counted := x.counted + (s.now - t), countSince := none })
  | none => s

/-- It goes on when none is, and the deadline is set anew. -/
def resumeCount (s : State) (c : Nat) : State :=
  let waits := s.threads.any (fun e => (match e.2.stat with | .faultWait _ _ => true | _ => false) && thrCtx s (refOf e.1) == c)
  let x := ctxOf s c
  if x.state = .preempting ∧ !waits ∧ x.countSince = none then
    schedule (modCtx s c (fun x => { x with countSince := some s.now })) (s.now + (x.limit - x.counted)) (.preemptDeadline c)
  else s

/-- The threads of one record go to FAULT_WAIT under one token, and the record is sent (R373, R374). `lead` is the lowest of
their lanes. -/
def waitFault (s : State) (core : Nat) (pc : Word64) (lead : ThrRef × Flt) (ts : List ThrRef) : State :=
  let tm := teamOf s lead.1.team
  let g := grpOf s lead.1.team lead.1.gid
  let tok := tokenOf 0 tm.ctx (ctxOf s tm.ctx).cseq g.slot core
  let s := pauseCount s tm.ctx
  let s := ts.foldl (fun s t => modThr s t (fun th =>
    { th with
      stat := .faultWait tok false, pc := pc, idleSince := thrClock s t, linklost := th.linklost && !lead.2.lost, rel := none })) s
  sendRecord s tm.ctx lead.2.addr pc lead.2.aux tok (ts.foldl (fun m t => m ||| 2 ^ t.lane) 0) tm.index 0 lead.2.kind
    lead.2.info lead.2.code true

/-- Delivers the wait-class faults of one packet, one record for each class of `sameRecord`. -/
def waitFaults (core : Nat) (pc : Word64) : Nat → List (ThrRef × Flt) → State → State
  | 0, _, s => s
  | _, [], s => s
  | n + 1, x :: r, s =>
    waitFaults core pc n (r.filter (fun y => !sameRecord x y))
      (waitFault s core pc x (x.1 :: (r.filter (fun y => sameRecord x y)).map (·.1)))

/-- Taking the exceptions of one packet: each fault of the handler class enters its thread's handler, and the others wait.
`pc` is the address of the instruction, `next` the address after it. -/
def deliver (core : Nat) (pc next : Word64) (fs : List (ThrRef × Flt)) (s : State) : State :=
  let hs := fs.filter (fun x => toHandler (teamOf s x.1.team).hdr (thrOf s x.1) x.2)
  let ws := fs.filter (fun x => !toHandler (teamOf s x.1.team).hdr (thrOf s x.1) x.2)
  let s := hs.foldl (fun s x => modThr s x.1 (enterHandler (teamOf s x.1.team).hdr pc next x.2)) s
  waitFaults core pc ws.length ws s

/-- Faults detected on instructions that threads of a core had issued and wait at: they are taken now, or latched while the quad
stands in a ratio stop (R460). -/
def deliverLater (core : Nat) (fs : List (ThrRef × Flt)) (s : State) : State :=
  if (quadOf s (coreQuad core)).stopUntil.isSome then
    modQuad s (coreQuad core) (fun x => { x with latched := x.latched ++ fs })
  else
    let pcs := (fs.map (fun x => (thrOf s x.1).pc)).eraseDups
    pcs.foldl (fun s' pc => deliver core pc pc (fs.filter (fun x => (thrOf s x.1).pc == pc)) s') s

/-- The faults latched in a ratio stop are taken as issue resumes, before any later instruction of their threads (R460). -/
def deliverLatched (s : State) (q : Nat) : State :=
  let fs := (quadOf s q).latched.filter (fun x => (tget s.threads (thrKey x.1)).isSome && (thrOf s x.1).stat != .exited)
  let s := modQuad s q (fun x => { x with latched := [] })
  ((fs.map (fun x => x.1.team)).eraseDups).foldl (fun s k =>
    deliverLater (teamOf s k).core (fs.filter (fun x => x.1.team == k)) s) s

/-- The return from a handler (R382): mode NORMAL and the PC given. -/
def leaveHandler (pc : Word64) (th : Thread) : Thread := { th with mode := .normal, pc := pc, stat := .ready }

/-! ## The checks of an instruction for the threads of a packet (R53) -/

/-- The registers of an instruction for the checks: guard, mask register with its bit and negation, v sources in the order SA,
SB, third source with their T bits, v registers written, and whether the instruction is privileged. -/
structure Opnds where
  g : Guard
  mask : Option Nat := none
  mb : Nat := 0
  mn : Bool := false
  srcs : List (Nat × Bool) := []
  dsts : List Nat := []
  priv : Bool := false
  deriving DecidableEq, Repr

/-- What an instruction does for one thread: it is done and the PC goes to `pc`; it faults; it faults after the effects given;
or the state is final as given (the thread waits, or the entry has set its PC). -/
inductive ThrOut where
  | done (s : State) (pc : Word64)
  | fault (f : Flt)
  | failed (s : State) (f : Flt)
  | left (s : State)

/-- Every register that the words name lies below the kernel's count (R127). -/
def regsOk (o : Opnds) (n : Nat) : Bool :=
  (o.g.gr.toNat < n || o.g.gr == 0#10) && (match o.mask with | some m => m < n || m == 0 | none => true)
    && o.srcs.all (fun x => x.1 < n || x.1 == 0) && o.dsts.all (fun x => x < n || x == 0)

def guardBit (th : Thread) (g : Guard) : Bool := ((regVal th g.gr.toNat).getLsbD g.gb.toNat) != g.gn

/-- The registers that R34 wants full and that are not. -/
def missing (o : Opnds) (th : Thread) : List Nat :=
  ((match o.mask with | some m => [m] | none => []) ++ (o.srcs.filter (fun x => !x.2)).map (·.1) ++ o.dsts).filter
    (fun n => !(regOf th n).full)

/-- The mask register of an instruction is poisoned. -/
def maskBad (o : Opnds) (th : Thread) : Bool := match o.mask with | some m => (regOf th m).poison | none => false

/-- The mask bit of an instruction is 0 (R40). -/
def maskedOff (o : Opnds) (th : Thread) : Bool := match o.mask with | some m => (regVal th m).getLsbD o.mb == o.mn | none => false

/-- Steps 6 and 7 of R53 and the poison check of R131, for a thread whose guard is 1 and that is ready. Under a mask bit of 0 no
fault but EMPTY_READ is raised for a source (R40); a poisoned mask register raises POISON, since it decides nothing. -/
def stepSeven (o : Opnds) (user : Bool) (th : Thread) : Option Flt :=
  if o.priv && user then some (flt fPRIV)
  else if o.srcs.any (fun x => x.2 && !(regOf th x.1).full) then some (flt fEMPTY_READ)
  else if maskBad o th || (!maskedOff o th && o.srcs.any (fun x => (regOf th x.1).poison)) then some (flt fPOISON)
  else none

/-- The address after the instruction of a packet. -/
def Packet.next (p : Packet) : Word64 := p.pc + BitVec.ofNat 64 p.len

/-- One thread of the packet: guard register full, its poison, the guard, readiness, steps 6 and 7, then the entry. -/
def stepThread (o : Opnds) (p : Packet) (body : ThrRef → State → ThrOut) (t : ThrRef)
    (acc : State × List (ThrRef × Flt)) : State × List (ThrRef × Flt) :=
  let s := acc.1
  let th := thrOf s t
  let gr := regOf th o.g.gr.toNat
  if !gr.full then (park s t [o.g.gr.toNat], acc.2)
  else if gr.poison then (s, acc.2 ++ [(t, flt fPOISON)])
  else if !guardBit th o.g then (advance s t p.next, acc.2)
  else match missing o th with
    | m :: ms => (park s t (m :: ms), acc.2)
    | [] =>
      match stepSeven o (isUser (teamOf s t.team)) th with
      | some f => (s, acc.2 ++ [(t, f)])
      | none =>
        match body t s with
        | .done s' pc => (advance s' t pc, acc.2)
        | .fault f => (s, acc.2 ++ [(t, f)])
        | .failed s' f => (s', acc.2 ++ [(t, f)])
        | .left s' => (s', acc.2)

def Packet.refs (p : Packet) : List ThrRef := p.thrs.map (fun x => { team := p.team, gid := x.1, lane := x.2 })

/-- The threads of a packet in ascending home lane, then the delivery of their faults (R370). -/
def runThreads (o : Opnds) (p : Packet) (body : ThrRef → State → ThrOut) (s : State) : State :=
  let r := p.refs.foldl (fun acc t => stepThread o p body t acc) (s, [])
  deliver p.core p.pc p.next r.2 r.1

/-- Step 4 of R53 faults every thread of the packet alike, whatever its guard. -/
def faultPacket (p : Packet) (code : Nat) (s : State) : State :=
  deliver p.core p.pc p.next (p.refs.map (fun t => (t, flt code))) s

/-- An instruction that acts for each thread of the packet on its own. `ill` holds the limits of the kernel header that the
form checks at step 4. Without a packet nothing executes. -/
def perThread (o : Opnds) (ill : Team → Bool) (body : Packet → ThrRef → State → ThrOut) (s : State) : Out :=
  match s.cur with
  | none => .next s
  | some p =>
    if !regsOk o (teamOf s p.team).hdr.regs || ill (teamOf s p.team) then .next (faultPacket p fILLOP s)
    else .next (runThreads o p (body p) s)

def noIll : Team → Bool := fun _ => false

/-! ## Forms that act once for a packet -/

/-- The threads of the packet that take part in a form: guard register sound, guard 1, ready and clear of steps 6 and 7. -/
def takesPart (o : Opnds) (s : State) (t : ThrRef) : Bool :=
  let th := thrOf s t
  (regOf th o.g.gr.toNat).full && !(regOf th o.g.gr.toNat).poison && guardBit th o.g && (missing o th).isEmpty
    && (stepSeven o (isUser (teamOf s t.team)) th).isNone

/-- What a form that acts once answers: the state with its effect and what each participant then writes and where its PC
goes is left to the thread part; a fault of every participant; or every participant waits and executes it again. -/
inductive OnceOut where
  | done (s : State)
  | fault (f : Flt)
  | wait (s : State) (w : WaitWhy)

/-- A form that acts once for each packet that holds a thread with guard 1, with its operands from the lowest such home
lane, its s registers being those of that thread's group where the packet holds several (DESIGN CHOICE, log entry 91); `each` is what every such thread then receives. -/
def oncePerPacket (o : Opnds) (ill : Team → Bool) (act : Packet → ThrRef → State → OnceOut)
    (each : ThrRef → State → State) (s : State) : Out :=
  match s.cur with
  | none => .next s
  | some p =>
    if !regsOk o (teamOf s p.team).hdr.regs || ill (teamOf s p.team) then .next (faultPacket p fILLOP s)
    else
      match p.refs.filter (takesPart o s) with
      | [] => .next (runThreads o p (fun _ s => .left s) s)
      | t :: _ =>
        match act p t s with
        | .done s' => .next (runThreads o p (fun t s => .done (each t s) p.next) s')
        | .fault f => .next (runThreads o p (fun _ _ => .fault f) s)
        | .wait s' w => .next (runThreads o p (fun t s => .left (makeWait s t w)) s')

/-! ## Rendezvous (R170 to R175) -/

/-- The participants of a rendezvous by lane mask: live threads, under `%exm` unless the thread runs a save or restore
routine or the form names all live threads, under the member mask. -/
def participants (g : Group) (mode : Mode) (all : Bool) (mm : LaneMask) : LaneMask :=
  if all then g.live
  else if mode = .save ∨ mode = .rest then g.live &&& mm
  else g.live &&& g.exm &&& mm

/-- The lanes of a mask in ascending order. -/
def lanesOf (m : LaneMask) : List Nat := groupLanes.filter (fun l => m.getLsbD l)

/-- The guard with which a thread has arrived at the rendezvous at `pc`, if it has. -/
def arrivedAt (th : Thread) (pc : Word64) : Option Bool :=
  match th.stat with
  | .waiting (.rendezvous g _ _ _) => if th.pc = pc then some g else none
  | _ => none

/-- What the execution of a rendezvous answers: it is done for every participant; the faults of the lanes named, with nothing
done or after the effects given; or the participants stay as the state says. -/
inductive RvOut where
  | done (s : State)
  | fault (fs : List (Nat × Flt))
  | failed (s : State) (fs : List (Nat × Flt))
  | left (s : State)

/-- A participant waits, and its watchdog period starts (R376). -/
def awaitMeeting (s : State) (t : ThrRef) (guard all : Bool) (mm : LaneMask) : State :=
  let w := (ctxOf s (thrCtx s t)).wdog.toNat
  let due := if w = 0 then none else some (s.now + w * 1000 * nsTicks)
  let s := makeWait s t (.rendezvous guard all mm due)
  match due with
  | some d => scheduleOnce s d (.rendezvousWatchdog t.team t.gid)
  | none => s

/-- A thread of the packet arrives at a rendezvous: a non-participant with guard 1 raises ILLOP at step 8, after steps 6 and 7
(R172), and with guard 0 moves on; a participant waits. -/
def arrive (o : Opnds) (p : Packet) (all : Bool) (mm : LaneMask) (t : ThrRef) (acc : State × List (ThrRef × Flt)) :
    State × List (ThrRef × Flt) :=
  let s := acc.1
  let th := thrOf s t
  let gr := regOf th o.g.gr.toNat
  let part := (participants (grpOf s t.team t.gid) th.mode all mm).getLsbD t.lane
  if !gr.full then (park s t [o.g.gr.toNat], acc.2)
  else if gr.poison then (s, acc.2 ++ [(t, flt fPOISON)])
  else if !guardBit th o.g then
    if part then (awaitMeeting s t false all mm, acc.2) else (advance s t p.next, acc.2)
  else match missing o th with
    | m :: ms => (park s t (m :: ms), acc.2)
    | [] =>
      if part then (awaitMeeting s t true all mm, acc.2)
      else (s, acc.2 ++ [(t, (stepSeven o (isUser (teamOf s t.team)) th).getD (flt fILLOP))])

/-- Executes the rendezvous when every participant has arrived: steps 6 and 7 for every present participant, then the entry
with the present lanes (R174). -/
def meet (o : Opnds) (p : Packet) (gid : Nat) (all : Bool) (mm : LaneMask)
    (run : List Nat → State → RvOut) (s : State) : State :=
  let ref := fun l => ({ team := p.team, gid := gid, lane := l } : ThrRef)
  let mode := match p.refs with | t :: _ => (thrOf s t).mode | [] => .normal
  let parts := lanesOf (participants (grpOf s p.team gid) mode all mm)
  if (grpOf s p.team gid).sld.isSome then s
  else if parts.isEmpty || !parts.all (fun l => (arrivedAt (thrOf s (ref l)) p.pc).isSome) then s
  else
    let present := parts.filter (fun l => arrivedAt (thrOf s (ref l)) p.pc == some true)
    let bad := present.filterMap (fun l =>
      (stepSeven o (isUser (teamOf s p.team)) (thrOf s (ref l))).map (fun f => (ref l, f)))
    if !bad.isEmpty then deliver p.core p.pc p.next bad s
    else match run present s with
      | .done s' => parts.foldl (fun s l => advance s (ref l) p.next) s'
      | .fault fs => deliver p.core p.pc p.next (fs.map (fun x => (ref x.1, x.2))) s
      | .failed s' fs => deliver p.core p.pc p.next (fs.map (fun x => (ref x.1, x.2))) s'
      | .left s' => s'

/-- A rendezvous instruction: the packet holds threads of one group (R177). -/
def rendezvous (o : Opnds) (ill : Team → Bool) (all : Bool) (mm : LaneMask)
    (run : Packet → Nat → List Nat → State → RvOut) (s : State) : Out :=
  match s.cur with
  | none => .next s
  | some p =>
    if !regsOk o (teamOf s p.team).hdr.regs || ill (teamOf s p.team) then .next (faultPacket p fILLOP s)
    else
      match p.refs with
      | [] => .next s
      | t :: _ =>
        let r := p.refs.foldl (fun acc t => arrive o p all mm t acc) (s, [])
        .next (meet o p t.gid all mm (run p t.gid) (deliver p.core p.pc p.next r.2 r.1))

/-- Lane `l` is the lowest participant of a rendezvous all of whose participants have arrived. -/
def leadsMeeting (s : State) (team gid l : Nat) : Bool :=
  let ref := fun l => ({ team := team, gid := gid, lane := l } : ThrRef)
  let th := thrOf s (ref l)
  match th.stat with
  | .waiting (.rendezvous _ all mm _) =>
    let parts := lanesOf (participants (grpOf s team gid) th.mode all mm)
    parts.head? == some l && parts.all (fun k => (arrivedAt (thrOf s (ref k)) th.pc).isSome)
  | _ => false

/-- After a participant has left the set, each rendezvous whose remaining participants have all arrived executes in the next
picker cycle (R173): its lowest participant issues again. An SLD in flight has executed, and waits for its data (R191). -/
def retryMeeting (s : State) (team gid : Nat) : State :=
  if (grpOf s team gid).sld.isSome then s
  else (groupLanes.filter (leadsMeeting s team gid)).foldl (fun s l => makeReady s { team := team, gid := gid, lane := l }) s

end Sys2Proof.Machine
end

