-- ==== Sys2Proof/Machine/Flags.lean ====
section
/-! DEFINITION. The exception flags and the fields of `%fpc` (R93, R138, R139), and the flags that comparisons and rounding
raise are given with the operations in Float.lean. -/

namespace Sys2Proof.Machine

/-- The flags NV, DZ, OF, UF, NX in bits 4 down to 0, as in `%fpc` (R138). -/
abbrev FpFlags := BitVec 5

def flNone : FpFlags := 0#5
def flNX : FpFlags := 1#5
def flUF : FpFlags := 2#5
def flOF : FpFlags := 4#5
def flDZ : FpFlags := 8#5
def flNV : FpFlags := 16#5

def fpcRm (fpc : Word32) : BitVec 3 := fpc.extractLsb' 10 3
def fpcFtz (fpc : Word32) : Bool := fpc.getLsbD 13
/-- The trap enables, in the order of the flags. -/
def fpcTraps (fpc : Word32) : FpFlags := fpc.extractLsb' 5 5

/-- R93: flags are sticky. -/
def raiseFlags (fpc : Word32) (fl : FpFlags) : Word32 := fpc ||| fl.setWidth 32

/-- R139: a write of RM as 000 or 111 stores 001; reserved bits stay zero. -/
def fpcWrite (x : Word32) : Word32 :=
  let y := x &&& 0x3FFF#32
  if fpcRm y = 0#3 ∨ fpcRm y = 7#3 then (y &&& ~~~0x1C00#32) ||| 0x400#32 else y

/-- The enabled flags among those that an instruction raises (R95). -/
def trapping (fpc : Word32) (fl : FpFlags) : FpFlags := fl &&& fpcTraps fpc

def fpTrap (fl : FpFlags) : Flt := { code := fFP_TRAP, flags := fl.toNat }

end Sys2Proof.Machine
end

