-- ==== Sys2Proof/Machine/Wake.lean ====
section
/-! DEFINITION. Waking waiters: the acquire that a woken thread makes, the Damper's list of requests (R446, R448 to R450),
and the counts, phases and releases of barrier registers (R284 to R289). -/

namespace Sys2Proof.Machine

/-! ## Bound regions (R238, R239) -/

/-- Object kinds of the binding table (R249). -/
def objBar : Nat := 0
def objWord : Nat := 1
def objQueue : Nat := 2
def objLock : Nat := 3
def objStep : Nat := 4

/-- The union of the regions that a team has bound to an object, as (virtual base, length). -/
def boundTo (tm : Team) (kind : Nat) (obj : Word64) : List (Nat × Nat) :=
  (tm.binds.filter (fun e => e.2.kind.toNat == kind && e.2.obj == obj)).map (fun e => (e.2.base, e.2.len))

/-- The scopes of R43. -/
def scCore : Nat := 0
def scCluster : Nat := 1
def scTower : Nat := 2
def scPackage : Nat := 3
def scFabric : Nat := 4
def scSystem : Nat := 5

/-- A wait that is over: the PC moves past the instruction, and the acquire runs before any later instruction of the thread
issues (R237). The acquire is the part of `LOAD_RETURN` that follows a return. -/
def resumeAcq (s : State) (t : ThrRef) (len scope : Nat) (cover : Option (List (Nat × Nat))) : State :=
  let (id, s) := newId s
  let s := modThr s t (fun th =>
    { th with stat := .waiting .acquire, pc := th.pc + BitVec.ofNat 64 len, idleSince := thrClock s t })
  schedule { s with acqs := s.acqs ++ [{ thr := t, req := id, scope := scope, cover := cover }] } s.now (.loadReturn id)

/-! ## Requests to the Damper (R446, R448) -/

/-- Ticks of a window (R445). -/
def windowTicks : Nat := 302400

/-- A thread that leaves its team quiet (R446). -/
def quietThread (s : State) (t : ThrRef) : Bool :=
  let th := thrOf s t
  match th.stat with
  | .exited => true
  | .saved => true
  | .faultWait _ _ => true
  | .waiting (.bar _ _) => true
  | .waiting (.barw w) => !w.first
  | .waiting .gridStep => true
  | .waiting (.mwait _ _) => true
  | .waiting (.queue _ _ _) => true
  | .waiting (.rendezvous _ _ _ _) => false
  | .parked _ => false
  | _ => (grpOf s t.team t.gid).state == .held && th.mode != .save && th.mode != .rest

def quietTeam (s : State) (k : Nat) : Bool := (teamThreads s k).all (quietThread s)

/-- The raw load R (R446). -/
def rawLoad (s : State) : Nat :=
  s.teams.foldl (fun a e => if e.2.counted && !quietTeam s e.1 then a + e.2.hdr.load else a) 0

/-- Whether request `a` stands ahead of `b` in the list, of different events (R448). -/
def reqBefore (a b : DamperReq) : Bool :=
  if a.pinned != b.pinned then a.pinned
  else if a.window != b.window then decide (a.window < b.window)
  else if a.release != b.release then a.release
  else if a.core != b.core then decide (a.core < b.core)
  else decide (a.order < b.order)

/-- Whether two requests were submitted by one event, in one class: their row's order decides (R448). -/
def sameEvent (a b : DamperReq) : Bool := a.event != 0 && a.event == b.event && a.pinned == b.pinned

/-- The place of a new request: behind those of its own event that stand already, and there by what R448 says of different events (log
entry 100). -/
def insertReq (r : DamperReq) : List DamperReq → List DamperReq
  | [] => [r]
  | x :: l => if reqBefore r x && !(x :: l).any (sameEvent r) then r :: x :: l else x :: insertReq r l

/-- The ramp tolerance of a team of a pinned kernel (R454): that of its node. -/
def rampOf (s : State) (tm : Team) : Nat :=
  match tget s.nodes (nodeKey tm.ctx tm.node) with
  | some r => if r.ramp = 0 then tm.hdr.ramp else r.ramp
  | none => tm.hdr.ramp

/-- The request of an event for a team: its deadline is the boundary at or after now, plus the tolerance (R454). -/
def putRequest (s : State) (what : ReqFor) (k load core : Nat) (release : Bool) (event : Nat := 0) : State :=
  let tm := teamOf s k
  let (id, s) := newId s
  let first := (s.now + windowTicks - 1) / windowTicks
  let dl := if tm.hdr.pinned then some (first + rampOf s tm) else none
  let r : DamperReq :=
    { id := id, what := what, load := load, pinned := tm.hdr.pinned, window := s.now / windowTicks, release := release,
      core := core, order := id, deadline := dl, event := event }
  let s := { s with damper := { s.damper with reqs := insertReq r s.damper.reqs } }
  if dl = some (s.now / windowTicks) && s.now % windowTicks = 0 then schedule s s.now (.rampDeadline id) else s

/-! ## Barrier registers (R284 to R289) -/

def barOf (tm : Team) (b : Nat) : Bar := tgetD tm.bars b {}
def modBar (s : State) (k b : Nat) (f : Bar → Bar) : State :=
  modTeam s k (fun tm => { tm with bars := tput b (f (barOf tm b)) tm.bars })

def arrKey (gid b : Nat) : Nat := gid * 16 + b
def arrOf (tm : Team) (gid b : Nat) : Arrival := tgetD tm.arrs (arrKey gid b) {}
def setArr (s : State) (k gid b : Nat) (a : Arrival) : State :=
  modTeam s k (fun tm => { tm with arrs := tput (arrKey gid b) a tm.arrs })

/-- Phase `p` is released when (PHASE − p) mod 2^16 lies between 1 and 2^15 (R289). -/
def phaseReleased (x : Bar) (p : Half) : Bool :=
  let d := (x.phase - p).toNat
  decide (1 ≤ d ∧ d ≤ 32768)

/-- In a COMPLETE register every wait returns at once (R289). -/
def waitOver (x : Bar) (p : Half) : Bool := x.state == .complete || phaseReleased x p

/-- The grant of a release (R287): the phase moves on, the register re-arms or is COMPLETE, and the changes held under R286
apply. -/
def grantPhase (x : Bar) : Bar :=
  if x.cyc then
    { x with phase := x.phase + 1, rp := false, arr := x.heldArr, exp := ((x.base : Int) + x.heldExp).toNat,
             pend := x.pend + x.heldPend, heldExp := 0, heldPend := 0, heldArr := 0 }
  else { x with phase := x.phase + 1, rp := false, state := .complete, heldExp := 0, heldPend := 0, heldArr := 0 }

/-- The threads of a team that wait at register `b` for a phase that is released. -/
def barWaiters (s : State) (k b : Nat) : List ThrRef :=
  (teamThreads s k).filter (fun t =>
    match (thrOf s t).stat with
    | .waiting (.bar n p) => n == b && waitOver (barOf (teamOf s k) b) (BitVec.ofNat 16 p)
    | _ => false)

/-- The length of BAR.WAIT and of STEP (R294, R298). -/
def waitLen : Nat := 8

/-- Wakes the threads whose wait target is released: each acquires at SYSTEM scope over the regions bound to the register
(R295). -/
def wakeBar (s : State) (k b : Nat) : State :=
  (barWaiters s k b).foldl
    (fun s t => resumeAcq s t waitLen scSystem (some (boundTo (teamOf s k) objBar (BitVec.ofNat 64 b)))) s

/-- OnGrant of R287. -/
def grantBar (s : State) (k b : Nat) : State := wakeBar (modBar s k b grantPhase) k b

def barDone (x : Bar) : Bool := x.state == .armed && !x.rp && decide (x.exp ≤ x.arr) && x.pend == 0

/-- OnChange of R287. A release of load 0 is granted at once (R449), after which a held change may complete the next phase;
a cyclic register has BASE of at least 1, so this ends after two rounds. The release of a saved team is submitted when it is
restored (R290). -/
def barSettle : Nat → State → Nat → Nat → State
  | 0, s, _, _ => s
  | n + 1, s, k, b =>
    if barDone (barOf (teamOf s k) b) then
      let s := modBar s k b (fun x => { x with rp := true })
      if (teamOf s k).state = .saved then s
      else
        let load := if quietTeam s k then (teamOf s k).hdr.load else 0
        if load = 0 then barSettle n (grantBar s k b) k b
        else putRequest s (.bar k b) k load (teamOf s k).core true
    else s

def barChanged (s : State) (k b : Nat) : State := barSettle 3 s k b

/-- A register with nothing pending that is invalidated or drained (R288): the image becomes 0 apart from PHASE. -/
def freeBar (x : Bar) : Bar := { phase := x.phase }

/-- An engine command or forked group arrives on register `b` (R286, R288). One whose acceptance is held while RP is set
arrives in the phase that follows; after the team has exited the arrival is discarded (R290). -/
def engineArrive (s : State) (k b : Nat) (err : Bool) : State :=
  let x := barOf (teamOf s k) b
  if (teamOf s k).state = .exited then modBar s k b (fun x => { x with pend := x.pend - 1 })
  else if x.state = .draining then
    modBar s k b (fun x => if x.pend ≤ 1 then freeBar x else { x with pend := x.pend - 1 })
  else if x.rp && 0 < x.heldPend then
    modBar s k b (fun x => { x with heldPend := x.heldPend - 1, heldArr := x.heldArr + 1, err := x.err || err })
  else if x.pend = 0 then s
  else
    barChanged (modBar s k b (fun x => { x with arr := x.arr + 1, pend := x.pend - 1, err := x.err || err })) k b

/-- Whether a command, a FORK or a BAR.EXPECT may name the register (R286, R288). -/
def barTakes (x : Bar) : Bool := x.state == .armed && (!x.rp || x.cyc)

/-- Acceptance of `n` arrivals to come: EXP and PEND rise, or the rise is held while RP is set (R286). -/
def barExpectEngine (s : State) (k b n : Nat) : State :=
  modBar s k b (fun x =>
    if x.rp then { x with heldExp := x.heldExp + n, heldPend := x.heldPend + n }
    else { x with exp := x.exp + n, pend := x.pend + n })

/-- The test of R285 for one group and register. -/
def groupArrive (s : State) (k gid b : Nat) : State :=
  let tm := teamOf s k
  let a := arrOf tm gid b
  let g := grpOf s k gid
  let x := barOf tm b
  if a.mask ≠ 0#32 ∧ g.live &&& g.exm &&& ~~~a.mask = 0#32 ∧ x.state = .armed then
    let s := setArr s k gid b { mask := 0#32, last := some x.phase }
    barChanged (modBar s k b (fun x => { x with arr := x.arr + 1 })) k b
  else s

/-- The test of R285 for every register of a team, after a thread of the group exits or its `%exm` changes. -/
def groupTest (s : State) (k gid : Nat) : State :=
  (List.range (teamOf s k).hdr.bars).foldl (fun s b => groupArrive s k gid b) s

/-! ## Other releases -/

/-- A waiter that a write has woken, and whose release waits in the Damper's list, is not woken again (R297). -/
def markWoken (s : State) (t : ThrRef) : State :=
  match (thrOf s t).stat with
  | .waiting (.barw w) => modThr s t (fun th => { th with stat := .waiting (.barw { w with woken := true }) })
  | _ => s

/-- BARW.WAIT waiters woken by one write form one release, with one request per team in ascending `%team` (R297, R448). -/
def wakeBarw (s : State) (ts : List ThrRef) : State :=
  let teams := (s.teams.filter (fun e => ts.any (fun t => t.team == e.1)))
  let ord := teams.mergeSort (fun a b => decide (a.2.index ≤ b.2.index))
  let (ev, s) := newId s
  ord.foldl (fun s e =>
    let mine := ts.filter (fun t => t.team == e.1)
    let load := if quietTeam s e.1 then (teamOf s e.1).hdr.load else 0
    if load = 0 then
      mine.foldl (fun s t =>
        match (thrOf s t).stat with
        | .waiting (.barw w) => resumeAcq s t w.len scSystem (some (boundTo (teamOf s e.1) objWord (BitVec.ofNat 64 w.va)))
        | _ => s) s
    else putRequest (mine.foldl markWoken s) (.wake mine) e.1 load e.2.core true ev) s

/-- The grant of a release (R449) for a request that waited. -/
def grantRelease (s : State) (what : ReqFor) : State :=
  match what with
  | .bar k b => barChanged (grantBar s k b) k b
  | .wake ts =>
    ts.foldl (fun s t =>
      match (thrOf s t).stat with
      | .waiting (.barw w) =>
        resumeAcq s t w.len scSystem (some (boundTo (teamOf s t.team) objWord (BitVec.ofNat 64 w.va)))
      | _ => s) s
  | .gridStep _ _ k =>
    (teamThreads s k).foldl (fun s t =>
      match (thrOf s t).stat with
      | .waiting .gridStep => resumeAcq s t waitLen scPackage (some (boundTo (teamOf s k) objStep 0#64))
      | _ => s) (modTeam s k (fun tm => { tm with stepDone := false }))
  | .admission _ => s

end Sys2Proof.Machine
end

