-- ==== Sys2Proof/Machine/Cost.lean ====
section
/-! DEFINITION. Fields of words, the leaf entry (R388), the partitions (R202, R203), which slice homes a line (R209) and what an
access costs (R25, R26), and the slots of the fabric window (R440). -/

namespace Sys2Proof.Machine

/-! ## Fields -/

/-- Bits `lo` to `lo + n - 1` of a 64-bit word. -/
def bits (x : Word64) (lo n : Nat) : Nat := x.toNat / 2 ^ lo % 2 ^ n

/-! ## The leaf entry (R388) -/

def leafPa (e : Word64) (level va : Nat) : Nat :=
  if level = 2 then bits e 38 26 * 2 ^ 26 + va % 2 ^ 26 else bits e 28 36 * 2 ^ 16 + va % 2 ^ 16
def leafLease (e : Word64) : Nat := bits e 20 3
def leafContract (e : Word64) : Nat := bits e 14 3
def leafTier (e : Word64) : Nat := bits e 12 2
def leafLayer (e : Word64) : Nat := bits e 10 2
def leafRot (e : Word64) : Bool := e.getLsbD 9
def leafTl (e : Word64) : Bool := e.getLsbD 8
def leafKeep (e : Word64) : Nat := bits e 5 3
def leafX (e : Word64) : Bool := e.getLsbD 4
def leafW (e : Word64) : Bool := e.getLsbD 3
def leafR (e : Word64) : Bool := e.getLsbD 2
def leafLeaf (e : Word64) : Bool := e.getLsbD 1
def leafV (e : Word64) : Bool := e.getLsbD 0
def leafA (e : Word64) : Bool := e.getLsbD 17
def leafD (e : Word64) : Bool := e.getLsbD 18
def leafCow (e : Word64) : Bool := e.getLsbD 19

/-! ## Partitions (R202, R203) -/

/-- The partition code of a unit; 1 at reset. -/
def spCode (s : State) (t u : Nat) : Nat := (tgetD (towerOf s t).spmap u 1#4).toNat

def spUnits (s : State) (t code : Nat) : Nat := ((List.range 48).filter (fun u => spCode s t u == code)).length

def spLayer (s : State) (t code layer : Nat) : Bool := (List.range 12).any (fun i => spCode s t (layer * 12 + i) == code)

/-- The layer that holds a line of a partition (R206). -/
def layerFor (s : State) (t code want : Nat) : Nat :=
  if spLayer s t code want then want else ((List.range 4).filter (fun l => spLayer s t code l)).headD 0

/-! ## The fabric window (R440) -/

/-- The slot register of a fabric-window address, and the device it names (R440). -/
def slotReg (s : State) (pa : Nat) : Word64 := tgetD s.fxslots ((pa - fabBase) / fabSlot) 0#64
def slotDev (s : State) (pa : Nat) : Nat := bits (slotReg s pa) 0 9

/-- The line of the remote device that a fabric-window line names (R440). -/
def remoteLine (line : Nat) : Nat :=
  let o := (line * 128 - fabBase) % fabSlot
  (if o < hbmSize then o else pinBase + (o - hbmSize)) / 128

/-! ## Lines that other agents home (R24, R433, R440) -/

/-- The integrator die of a T1 that homes a line of units 1 to 7 of the HBM range. -/
def homeDie (s : State) (pa : Nat) : Option (Nat × Agent) :=
  s.agents.find? (fun e => e.2.kind == 4 && e.2.state != .absent && e.2.state != .refused
    && decide (e.2.unit ≤ pa / 0x1000000000 ∧ pa / 0x1000000000 < e.2.unit + e.2.units))

/-- Lines whose home is not on this device: the fabric window, and on a T1 the HBM range above tower 0's part. -/
def isFar (s : State) (pa : Nat) : Bool :=
  match rangeOf pa with
  | .fabric => true
  | .hbm => s.t1 && decide (0x1000000000 ≤ pa)
  | _ => false

/-- The agent that homes such a line, and the line's number there. -/
def farAgent (s : State) (pa : Nat) : Nat :=
  match rangeOf pa with
  | .fabric => 0xE00 + slotDev s pa
  | _ => ((homeDie s pa).map (·.1)).getD 0xFFF

def farLine (line : Nat) : Nat :=
  match rangeOf (line * 128) with
  | .fabric => remoteLine line
  | _ => line

/-- Where a byte of physical memory stands in `State.mem`: on a T1 the part of tower 0's stack that holds the frame and topology tables
(R394, R434) trades places with the part that holds them on a W8. -/
def cellOf (s : State) (pa : Nat) : Nat :=
  if !s.t1 then pa
  else if topoTable ≤ pa ∧ pa < hbmSize then pa - 0x7000000000
  else if topoTable - 0x7000000000 ≤ pa ∧ pa < 0x1000000000 then pa + 0x7000000000
  else pa

/-- Where the frame record of an index lies, and where the table starts. -/
def recordAt (s : State) (idx : Nat) : Nat := cellOf s (frameRecAt idx)

/-! ## Homes and cost (R209, R25, R26) -/

/-- Towers that are not there: lost ones (R462), and on a T1 all but tower 0 (R12). The routing layer of a tower that has tripped, of which R11
says nothing, still passes traffic (DESIGN CHOICE, log entry 84). -/
def deadTowers (s : State) : List Nat :=
  if s.t1 then [1, 2, 3, 4, 5, 6, 7] else (s.towers.filter (fun e => e.2.tstate == 3#2)).map (fun e => e.1)

/-- Towers that the published hop and route tables leave out (R11): what a message takes and what an access costs follow these. -/
def lostTowers (s : State) : List Nat := s.routed

/-- A reserve page whose home slice has no KV reserve share is treated as cached (R205), and its lines keep the page's
one home. -/
def homeSlice (s : State) (pa : Nat) (leaf : Word64) : Nat :=
  let vs := virtualSlice pa (leafTl leaf) (leafContract leaf == 2)
  tgetD s.remap vs vs

/-- The hop count between towers (R10, R11): 0 on a T1 (R12). -/
def hopCount (s : State) (a b : Nat) : Nat := if s.t1 then 0 else hops (lostTowers s) a b

/-- The partition code that may hold a line of the page at its home: 0 where none. -/
def holdCode (s : State) (slice : Nat) (leaf : Word64) : Nat :=
  match leafContract leaf with
  | 1 => 1
  | 2 => if spUnits s (sliceTower slice) 3 = 0 then 1 else 3
  | _ => 0

def holdLayer (s : State) (slice pa : Nat) (leaf : Word64) : Nat :=
  layerFor s (sliceTower slice) (holdCode s slice leaf) (if leafRot leaf then pa / 128 % 4 else leafLayer leaf)

/-- The slice latency in ns. -/
def sliceNs (s : State) (tower slice layer : Nat) : Nat := 60 + 2 * layer + 20 * hopCount s tower (sliceTower slice)

/-- The unloaded latency in ns of an access from tower `t` (R25). -/
def latencyNs (s : State) (t pa : Nat) (leaf : Word64) : Nat :=
  let slice := homeSlice s pa leaf
  match rangeOf pa with
  | .fabric => 1800
  | .pinned => sliceNs s t slice (pinnedUnit pa / 12)
  | .host => if (tget s.cache (pa / 128)).isSome then sliceNs s t slice (holdLayer s slice pa leaf) else 1100
  | .hbm =>
    if (tget s.cache (pa / 128)).isSome then sliceNs s t slice (holdLayer s slice pa leaf)
    else 190 + 20 * (hopCount s t (sliceTower slice) + hopCount s (sliceTower slice) (pa / 0x1000000000))
  | .none => 0

/-- The slice latency of a write-back (R26). For a line that its home does not hold the manual names no layer; it is taken as
layer 0 (DESIGN CHOICE, log entry 69). -/
def backNs (s : State) (t pa : Nat) (leaf : Word64) : Nat :=
  let slice := homeSlice s pa leaf
  match rangeOf pa with
  | .fabric => 1800
  | .pinned => sliceNs s t slice (pinnedUnit pa / 12)
  | _ => sliceNs s t slice (if (tget s.cache (pa / 128)).isSome then holdLayer s slice pa leaf else 0)

/-- The latency of a write: of its home slice (as `backNs`), or of host memory (R25, R233). -/
def writeNs (s : State) (t pa : Nat) (leaf : Word64) : Nat :=
  match rangeOf pa with
  | .host => 1100
  | _ => backNs s t pa leaf

end Sys2Proof.Machine
end

