-- ==== Sys2Proof/Machine/Route.lean ====
section
/-! DEFINITION. The modules that a message crosses (R10, R412, R414, R425, R439), their sequence counters and credits (R418, R419),
and what waits at its sender. One message that this device sends travels in one flit (log entry 25). -/

namespace Sys2Proof.Machine

/-! ## Steering (R414, R415, R425, R439) -/

/-- The entry of an edge as Kiln sets it at boot: index j names module j mod n. -/
def steerBoot (n : Nat) : Word64 :=
  BitVec.ofNat 64 ((List.range 16).foldl (fun a j => a + j % n * 16 ^ j) 0)

def steerKey (t e : Nat) : Nat := t * 4 + e

def steerOf (s : State) (t e : Nat) : Word64 := tgetD s.steer (steerKey t e) (steerBoot (edgeModules e))

/-- The table index of a line. -/
def steerIndex (line : Nat) : Nat := (line % 16) ^^^ (line / 16 % 16) ^^^ (line / 256 % 16)

/-- The module that carries the messages of a line on an edge. -/
def steered (s : State) (t e line : Nat) : Nat := bits (steerOf s t e) (4 * steerIndex line) 4

def fxsteerBoot (k : Nat) : Word64 := BitVec.ofNat 64 ((List.range 8).foldl (fun a j => a + (8 * k + j) * 256 ^ j) 0)

def fxsteerOf (s : State) (k : Nat) : Word64 := tgetD s.fxsteer k (fxsteerBoot k)

/-- The port that carries the messages of a line. -/
def portFor (s : State) (line : Nat) : Nat :=
  let h := (line % 32) ^^^ (line / 32 % 32) ^^^ (line / 1024 % 32)
  bits (fxsteerOf s (h / 8)) (8 * (h % 8)) 5

/-! ## Ends of a module (R412, R423) -/

def isPort (blk : Nat) : Bool := decide (0x800 ≤ blk ∧ blk < 0x820)

/-- The edge of tower `a` that joins tower `b`. -/
def edgeTo (a b : Nat) : Nat := if edgePeer a 0 = b then 0 else 1

/-- The block of the other end of a package module of a W8. -/
def joinedEnd (blk : Nat) : Option Nat :=
  if blk < 0x400 then
    let t := blk / 0x40 % 8
    let e := blk / 0x10 % 4
    let m := blk % 0x10
    if blk / 0x40 < 8 ∧ m < edgeModules e then
      some (if e = 2 then bridgeBlk t m else if e = 3 then hubBlk t m else towerBlk (edgePeer t e) (edgeTo (edgePeer t e) t) m)
    else none
  else if blk < 0x600 then
    let t := (blk - 0x400) / 0x10
    let m := blk % 0x10
    if t < 8 ∧ m < 8 then some (towerBlk t 2 m) else none
  else if blk < 0x800 then
    let t := (blk - 0x600) / 0x10
    let m := blk % 0x10
    if t < 8 ∧ m < 4 then some (towerBlk t 3 m) else none
  else none

/-- The block of the other end of a module: none for a port, and on a T1, where an integrator's die stands there (R423). -/
def farEnd (s : State) (blk : Nat) : Option Nat := if s.t1 then none else joinedEnd blk

/-- Whether a number names a module end or a port. A T1 has those of tower 0. -/
def blkOk (s : State) (blk : Nat) : Bool :=
  if s.t1 then decide (blk < 0x40) && (joinedEnd blk).isSome else isPort blk || (joinedEnd blk).isSome

/-- Both ends of a module, where both stand on this device. -/
def ends (s : State) (blk : Nat) : List Nat := blk :: (farEnd s blk).toList

/-- A module of which this device has one end, as a step of a way. -/
def oneEnd (blk : Nat) : Nat × Nat := (blk, blk)

/-! ## Routes -/

/-- The modules of one hop between joined towers, as (sending end, receiving end). -/
def hopEnds (s : State) (a b line : Nat) : List (Nat × Nat) :=
  let c := a % 4
  if a / 4 ≠ b / 4 ∧ (c = 1 ∨ c = 2) then
    let m := steered s a 3 line
    let n := steered s b 3 line
    [(towerBlk a 3 m, hubBlk a m), (hubBlk b n, towerBlk b 3 n)]
  else
    let e := edgeTo a b
    let m := steered s a e line
    [(towerBlk a e m, towerBlk b (edgeTo b a) m)]

def routeEnds (s : State) (line b : Nat) : Nat → Nat → List (Nat × Nat)
  | 0, _ => []
  | n + 1, a =>
    let c := nextTower (lostTowers s) a b
    if a = b ∨ c = 0xFF then [] else hopEnds s a c line ++ routeEnds s line b n c

/-- The modules between a tower and the place that serves a physical address: the home slice's tower, and behind it the memory
bridge of the stack or the hub; for a fabric line the hub and a port; on a T1 the edge of the integrator's die. -/
def pathOf (s : State) (tower pa : Nat) (leaf : Word64) : List (Nat × Nat) :=
  let line := pa / 128
  let h := sliceTower (homeSlice s pa leaf)
  let hub := fun (t : Nat) => (towerBlk t 3 (steered s t 3 line), hubBlk t (steered s t 3 line))
  match rangeOf pa with
  | .fabric => [hub tower, oneEnd (portBlk (portFor s (remoteLine line)))]
  | .host => routeEnds s line h 8 tower ++ [hub h]
  | .hbm =>
    if isFar s pa then (match homeDie s pa with | some e => [oneEnd (towerBlk 0 e.2.edge (steered s 0 e.2.edge line))] | none => [])
    else if s.t1 then (if (tget s.cache line).isSome then [] else [oneEnd (towerBlk 0 2 (steered s 0 2 line))])
    else if (tget s.cache line).isSome then routeEnds s line h 8 tower
    else
      let k := pa / 0x1000000000
      let m := steered s k 2 line
      routeEnds s line h 8 tower ++ routeEnds s line k 8 h ++ [(towerBlk k 2 m, bridgeBlk k m)]
  | _ => routeEnds s line h 8 tower

def linkActive (s : State) (blk : Nat) : Bool := (linkAt s blk).state == .active

def pathActive (s : State) (p : List (Nat × Nat)) : Bool := p.all (fun x => linkActive s x.1 && linkActive s x.2)

/-- The modules of a request, from the tower of its core, or from the hub for an access of the host or of a unit to another device (R443). -/
def reqPath (s : State) (r : Req) : List (Nat × Nat) :=
  if r.bar4.isSome || (r.hub && !s.t1) then [oneEnd (portBlk (portFor s (remoteLine r.line)))]
  else pathOf s (coreTower r.core) (r.line * 128) r.leaf

/-- The module between the hub and a tower that carries the messages of a line. -/
def hubHop (s : State) (t line : Nat) : Nat × Nat := (hubBlk t (steered s t 3 line), towerBlk t 3 (steered s t 3 line))

/-- The way from a tower to the port of a line. -/
def fabricPath (s : State) (t line : Nat) : List (Nat × Nat) :=
  let h := hubHop s t line
  [(h.2, h.1), oneEnd (portBlk (portFor s line))]

/-! ## Sequence counters and credits (R418, R419) -/

def txNext (x : LinkEnd) (v : Nat) : Nat := (tgetD x.seqs v 0#32).toNat % 65536
def rxNext (x : LinkEnd) (v : Nat) : Nat := (tgetD x.seqs v 0#32).toNat / 65536

def setSeq (x : LinkEnd) (v tx rx : Nat) : LinkEnd :=
  { x with seqs := tset 0#32 v (BitVec.ofNat 32 (tx % 65536 + rx % 65536 * 65536)) x.seqs }

/-- A sequence number comes before another: modulo 2^16, over a window of 2^15 (R247). -/
def seqBefore (a b : Half) : Bool := decide (0 < (b - a).toNat ∧ (b - a).toNat < 32768)

def usedOf (x : LinkEnd) (v : Nat) : Nat := tgetD x.used v 0
def heldOf (x : LinkEnd) (v : Nat) : Nat := tgetD x.held v 0

/-- The credits that this device offers on each channel. -/
def offered : Nat := 32

/-- Whether a sender holds a credit of a channel. -/
def hasCredit (s : State) (blk v : Nat) : Bool := decide (usedOf (linkAt s blk) v < (linkAt s blk).credits)

/-- Whether every module of a path is ACTIVE and every sender on it holds a credit of the channels, on the way out and on the way
back. Where this device has one end, the credits for the way back are the far agent's. -/
def pathReady (s : State) (p : List (Nat × Nat)) (out back : List Nat) : Bool :=
  p.all (fun x => linkActive s x.1 && linkActive s x.2 && out.all (hasCredit s x.1)
    && (x.1 == x.2 || back.all (hasCredit s x.2)))

/-- The credits that the next flit of an end returns, by channel: those it holds, at most 15 of each. -/
def cretOf (x : LinkEnd) : BitVec 24 :=
  (List.range 6).foldl (fun a v => a ||| BitVec.ofNat 24 (min 15 (heldOf x v) * 16 ^ v)) 0#24

def cretVal (c : BitVec 24) (v : Nat) : Nat := (c.extractLsb' (4 * v) 4).toNat

/-- A change of the counts of all channels. -/
def creditAll (f : Nat → Nat → Nat) (t : Tab Nat) : Tab Nat := (List.range 6).foldl (fun t v => tset 0 v (f v (tgetD t v 0)) t) t

/-- A flit leaves an end: TXNEXT rises, a credit is spent, and the credits of CRET are returned. -/
def flitLeaves (v : Nat) (x : LinkEnd) : LinkEnd :=
  let c := cretOf x
  { setSeq x v (txNext x v + 1) (rxNext x v) with
    used := tset 0 v (usedOf x v + 1) x.used
    held := creditAll (fun u n => n - cretVal c u) x.held }

/-- A flit is accepted at an end: RXNEXT rises, its buffer is freed and its credit is to be returned, and the credits of its CRET come
back. -/
def flitLands (v : Nat) (c : BitVec 24) (x : LinkEnd) : LinkEnd :=
  { setSeq x v (txNext x v) (rxNext x v + 1) with
    used := creditAll (fun u n => n - cretVal c u) x.used
    held := tset 0 v (heldOf x v + 1) x.held }

def countTx (s : State) (blk v : Nat) : State := modLink s blk (flitLeaves v)

/-- Whether an end lacks credits of a channel. -/
def starved (s : State) (blk : Nat) : Bool := (List.range 6).any (fun v => !hasCredit s blk v)

/-- A flit is accepted; what waited for the credits that it brings looks again. -/
def countRx (s : State) (blk v : Nat) (c : BitVec 24) : State :=
  let t := modLink s blk (flitLands v c)
  if starved s blk && c != 0#24 then wakeWaiting t else t

/-- One flit over a module, or out of an end whose other end is not on this device. -/
def countHop (s : State) (a b v : Nat) : State :=
  if a = b then countTx s a v else countRx (countTx s a v) b v (cretOf (linkAt s a))

/-- One flit over every module of a path. -/
def countPath (s : State) (p : List (Nat × Nat)) (v : Nat) : State := p.foldl (fun s x => countHop s x.1 x.2 v) s

/-- The same on the way back, over the package's own modules. -/
def countBack (s : State) (p : List (Nat × Nat)) (v : Nat) : State :=
  p.foldl (fun s x => if x.1 = x.2 then s else countHop s x.2 x.1 v) s

/-- The channels of a request on its way out: the request, and its bytes. -/
def outChans (r : Req) : List Nat :=
  if r.kind == .write || r.kind == .writeBack || r.kind == .atomic || r.kind == .reduce then [0, 2] else [0]

/-- And on the way back: the response, and the data of a read. -/
def backChans (r : Req) : List Nat :=
  if r.kind == .read || r.kind == .own || r.kind == .uc || r.kind == .prefetch then [1, 2] else [1]

def countOut (s : State) (r : Req) : State := (outChans r).foldl (fun s v => countPath s (reqPath s r) v) s
def countIn (s : State) (r : Req) : State := (backChans r).foldl (fun s v => countBack s (reqPath s r) v) s

/-! ## Messages of the device's units (R414, R419) -/

/-- The lowest-numbered ACTIVE module of an edge, as its sending and its receiving end (R414). -/
def firstActive (s : State) (n : Nat) (f : Nat → Nat × Nat) : List (Nat × Nat) :=
  (((List.range n).map f).find? (fun x => linkActive s x.1 && linkActive s x.2)).toList

/-- The modules of a control flit from Kiln to an agent: none where no module is ACTIVE. -/
def controlPath (s : State) (a : Nat) : List (Nat × Nat) :=
  if 0xE00 ≤ a then firstActive s 32 (fun p => oneEnd (portBlk p))
  else if 0x100 ≤ a then
    (match tget s.agents a with
     | some x => firstActive s (edgeModules x.edge) (fun m => oneEnd (towerBlk x.tower x.edge m))
     | none => [])
  else
    let t := a % 16
    let hub := firstActive s 4 (fun m => (hubBlk t m, towerBlk t 3 m))
    if 0x20 ≤ a ∧ a < 0x28 then
      let b := firstActive s 8 (fun m => (towerBlk t 2 m, bridgeBlk t m))
      if hub.isEmpty || b.isEmpty then [] else hub ++ b
    else hub

/-- The modules that a waiting message takes now: a control message to a die without an id names its module. -/
def outPath (s : State) (m : OutMsg) : List (Nat × Nat) :=
  match m.msg with
  | .control a _ _ _ => if m.path.isEmpty then controlPath s a else m.path
  | _ => m.path

/-- Whether a message can go: control messages need an ACTIVE module, and all of them credits. -/
def canGo (s : State) (m : OutMsg) : Bool :=
  let p := outPath s m
  (match m.msg with | .control _ _ _ _ => !p.isEmpty | _ => true) && pathReady s p [m.vc] []

/-- Two messages take the same way: modules in common, or control messages to one agent. -/
def sameWay (x y : OutMsg) : Bool :=
  match x.msg, y.msg with
  | .control a _ _ _, .control b _ _ _ => a == b
  | _, _ => x.path.any (fun h => y.path.contains h)

/-- A message waits behind earlier ones of its channel on its way. -/
def outBehind (q : List OutMsg) (m : OutMsg) : Bool := q.any (fun x => x.vc == m.vc && sameWay x m)

/-- The waiting messages go out as far as their modules let them, in their order. -/
def drainFrom (s : State) : List OutMsg → List OutMsg → State
  | [], kept => { s with outbox := kept }
  | m :: r, kept =>
    if outBehind kept m || !canGo s m then drainFrom s r (kept ++ [m])
    else drainFrom (countPath { s with sent := s.sent ++ [m.msg] } (outPath s m) m.vc) r kept

def drainOutbox (s : State) : State := if s.outbox.isEmpty then s else drainFrom s s.outbox []

/-- A unit sends a message: it goes, or waits at its sender until its modules are ACTIVE and credits are there. -/
def post (s : State) (path : List (Nat × Nat)) (vc : Nat) (x : Sent) : State :=
  let m : OutMsg := { path := path, vc := vc, msg := x }
  if outBehind s.outbox m || !canGo s m then { s with outbox := s.outbox ++ [m] }
  else countPath { s with sent := s.sent ++ [x] } (outPath s m) vc

/-- The way of a message about a line from a tower to another agent: out of the port of the line for a device of the fabric, and over
its own edge for an integrator's die. -/
def awayPath (s : State) (a t line : Nat) : List (Nat × Nat) :=
  if 0xE00 ≤ a then fabricPath s t line
  else match tget s.agents a with
    | some x => if 0x100 ≤ a then [oneEnd (towerBlk x.tower x.edge (steered s x.tower x.edge line))] else []
    | none => []

/-- The same from the home of the line. -/
def agentPath (s : State) (a line : Nat) : List (Nat × Nat) := awayPath s a (sliceTower (homeSlice s (line * 128) 0#64)) line

/-- The way from the home of a line to the die of a core. -/
def ownerPath (s : State) (line core : Nat) (leaf : Word64) : List (Nat × Nat) :=
  routeEnds s line (coreTower core) 8 (sliceTower (homeSlice s (line * 128) leaf))

/-- Kiln sends a control message (R432, R497): SRC is 0x001 in the package, and the own device id on the fabric. -/
def sendControl (s : State) (a opc : Nat) (field : Word64) : State :=
  post s [] 5 (.control a (if 0xE00 ≤ a then 0xE00 + s.fxself else 0x001) opc field)

/-! ## Tags (R417) -/

/-- The lowest TAG under which a sub-agent of this device has no request outstanding at a remote device. -/
def freeTag (s : State) (sub : Nat) : Option Nat :=
  let busy := (s.reqs.filter (fun e => e.2.out && e.2.core == sub)).map (fun e => e.2.tag)
  (List.range 1024).find? (fun n => !busy.contains n)

/-- The lowest TAG for a recall to an owner. -/
def recallTag (s : State) (agent sub : Nat) : Nat :=
  let busy := (s.recalls.filter (fun e => e.2.agent == agent && e.2.sub == sub)).map (fun e => e.2.tag)
  ((List.range 1024).find? (fun n => !busy.contains n)).getD 0

end Sys2Proof.Machine
end

