-- ==== Sys2Proof/Machine/Home.lean ====
section
/-! DEFINITION. The homes (R210 to R213, R218, R219, R222, R293): the words of a line and what stands behind its home, the cache partition and KV reserve in front of a tier, owner spans and their recall, poison, and the writes performed
at a home, which wake the watchers of the line. -/

namespace Sys2Proof.Machine

/-! ## Words of a line -/

/-- The words of a line that bytes `off` to `off + n - 1` touch. -/
def wordMask (off n : Nat) : BitVec 32 :=
  if n = 0 then 0#32 else BitVec.ofNat 32 (2 ^ ((off + n - 1) / 4 + 1) - 2 ^ (off / 4))

def wordsOf (m : BitVec 32) : List Nat := (List.range 32).filter (fun i => m.getLsbD i)

/-- The byte mask of a word mask. -/
def bytesOf (m : BitVec 32) : BitVec 128 :=
  (wordsOf m).foldl (fun a i => a ||| (0xF#128 <<< (4 * i))) 0#128

/-- The smallest run of contiguous words that covers a set (R213). -/
def coverRun (m : BitVec 32) : BitVec 32 :=
  match wordsOf m with
  | [] => 0#32
  | i :: r => wordMask (4 * i) (4 * ((i :: r).getLastD i - i + 1))

/-! ## Poison (R222, R401) -/

/-- Poisoned words of a line, by word of the physical address. -/
def poisoned (s : State) (line : Nat) (words : BitVec 32) : Bool :=
  (wordsOf words).any (fun i => s.poison.contains (line * 32 + i))

def clearPoison (s : State) (line : Nat) : State :=
  { s with poison := s.poison.filter (fun w => w / 32 != line) }

/-- Keeps `State.poison` rising and without repeats. -/
def addSorted (x : Nat) : List Nat → List Nat
  | [] => [x]
  | y :: r => if x < y then x :: y :: r else if x = y then y :: r else y :: addSorted x r

/-! ## Memory behind the homes -/

/-- The bytes of physical memory as the homes hold them; host memory is the host's, and a line that another agent homes is
that agent's, which answers by message. -/
def physRead (s : State) (pa n : Nat) : List Byte :=
  if isFar s pa then List.replicate n 0#8
  else match rangeOf pa with
    | .host => bufReadN s.hostMem (pa - hostBase) n
    | _ => memReadN s.mem (cellOf s pa) n

def physSet (s : State) (pa : Nat) (bs : List Byte) : State :=
  if isFar s pa then s
  else match rangeOf pa with
    | .host => { s with hostMem := bufWriteN s.hostMem (pa - hostBase) bs }
    | _ => { s with mem := memWriteN s.mem (cellOf s pa) bs }

/-- The 32-byte blocks that bytes touch. -/
def blocksTouched (pa n : Nat) : List Nat := if n = 0 then [] else List.range' (pa / 32) ((pa + n - 1) / 32 - pa / 32 + 1)

/-- Whether a block lies in the code of a kernel, from ENTRY to SPTAB. -/
def codeSpan (h : Header) (block : Nat) : Bool :=
  decide ((h.addr.toNat + h.entry) / 32 ≤ block ∧ block < (h.addr.toNat + h.sptab + 31) / 32)

/-- Blocks that a write is about to change are kept as they stand, for fetches of teams that may execute them (R30). -/
def keepCode (s : State) (pa n : Nat) : State :=
  { s with codePast := s.codePast ++ (if (s.teams.isEmpty && s.codeFrames.isEmpty) || isFar s pa then []
      else (blocksTouched pa n).map (fun b => { block := b, stamp := s.nextId, bytes := physRead s (b * 32) 32 })) }

/-- One write of bytes. -/
def physPut (s : State) (pa : Nat) (bs : List Byte) : State := physSet (keepCode s pa bs.length) pa bs

def physSetAt (s : State) (line : Nat) : List (Nat × Byte) → State
  | [] => s
  | (o, b) :: r => physSetAt (physSet s (line * 128 + o) [b]) line r

/-- One write of bytes of a line, by their offsets. -/
def physPutAt (s : State) (line : Nat) (bs : List (Nat × Byte)) : State := physSetAt (keepCode s (line * 128) 128) line bs

/-! ## Watchers (R210, R293, R297) -/

def watchersOf (s : State) (line : Nat) : List Watcher := tgetD s.watchers line []

def setWatchers (s : State) (line : Nat) (ws : List Watcher) : State :=
  { s with watchers := tset [] line ws s.watchers }

/-- The phase bit of a barrier word (R291). -/
def wordPh (s : State) (w : BarwWait) : Bool :=
  match w.ab with
  | some k => bufNat (teamOf s k).abuf w.loc 8 / 2 ^ 63 == 1
  | none => leNat (physRead s w.loc 8) / 2 ^ 63 == 1

/-- The waiters of a set that a change has set free. -/
def freedWaiters (s : State) (ts : List ThrRef) : List ThrRef :=
  ts.filter (fun t =>
    match (thrOf s t).stat with
    | .waiting (.barw w) => !w.first && !w.woken && wordPh s w != w.ph
    | _ => false)

/-- A write performed at the home triggers the armed monitors of the line and has its BARW.WAIT watchers read PH again. An
agent's watcher is answered by a response message. -/
def wakeLine (s : State) (line : Nat) : State :=
  let ws := watchersOf s line
  if ws.isEmpty then s
  else
    let ts := ws.filterMap (fun w => match w with | .thread t => some t | .agent _ _ _ => none)
    let s := ts.foldl (fun s t =>
      let th := thrOf s t
      match th.mon with
      | .armed l =>
        if l = line then
          let s := modThr s t (fun th => { th with mon := .triggered l false })
          match th.stat with
          | .waiting (.mwait _ _) => makeReady s t
          | _ => s
        else s
      | _ => s) s
    let s := ws.foldl (fun s w =>
      match w with
      | .agent a sub tag => post s (agentPath s a line) 1 (.response a sub tag 0#3 0#64)
      | .thread _ => s) s
    let s := setWatchers s line (ws.filter (fun w => match w with | .thread _ => true | .agent _ _ _ => false))
    wakeBarw s (freedWaiters s ts)

/-- A write to an A-buffer has the waiters on its barrier words read PH again. -/
def wakeBuffer (s : State) (holder : Nat) : State :=
  let ts := (s.threads.filter (fun e =>
    match e.2.stat with
    | .waiting (.barw w) => w.ab == some holder
    | _ => false)).map (fun e => refOf e.1)
  if ts.isEmpty then s else wakeBarw s (freedWaiters s ts)

/-- The message that carries the registration of a thread of this device. -/
def armMsg (t : ThrRef) (core line : Nat) : Msg :=
  { blk := 0, src := 0x10 + coreTower core, inc := 0#16, sub := core, tag := thrKey t, line := line, wmask := 0#32, aop := 0#4,
    w64 := false, status := 0#3, val := 0#64, mask := 0#128, data := [], dsp := 0#2 }

/-- The registration of a thread at a die that homes its line is dropped there, unless another thread of the core keeps it (R417). -/
def dropFar (s : State) (t : ThrRef) : State :=
  match s.reqs.find? (fun e => e.2.kind == .arm && e.2.watch == some t) with
  | none => s
  | some (id, r) =>
    let s := { s with reqs := tdel id s.reqs }
    if s.reqs.any (fun e => e.2.kind == .arm && e.2.core == r.core && e.2.line == r.line) then s
    else
      let tag := (freeTag s r.core).getD 0
      let (n, s) := newId s
      let s := { s with reqs := tput n { r with id := n, kind := .disarm, tag := tag, watch := none } s.reqs }
      post s (reqPath s r) 0 (.request (farAgent s (r.line * 128)) r.core tag (farLine r.line) 8 0#32 0 false)

def dropWatcher (s : State) (t : ThrRef) : State :=
  dropFar { s with watchers := (s.watchers.map (fun e => (e.1, e.2.filter (· != .thread t)))).filter (fun e => !e.2.isEmpty) } t

/-! ## Owner spans (R213) -/

def localAgent (a : Nat) : Bool := decide (0x10 ≤ a ∧ a < 0x18)

def spansOn (s : State) (line : Nat) (words : BitVec 32) : List Span :=
  s.spans.filter (fun x => x.line == line && x.words &&& words != 0#32)

def l1Of (s : State) (core line : Nat) : L1Line := tgetD (coreOf s core).l1 line {}
def modL1 (s : State) (core line : Nat) (f : L1Line → L1Line) : State :=
  modCore s core (fun c => { c with l1 := tset {} line (f (tgetD c.l1 line {})) c.l1 })

/-- The bytes of a line under a byte mask. -/
def maskedBytes (d : Mem) (m : BitVec 128) : List (Nat × Byte) :=
  ((List.range 128).filter (fun i => m.getLsbD i)).map (fun i => (i, bufRead d i))

/-- Drops words from an L1 line: valid, dirty and owned bits and the data. -/
def l1Drop (l : L1Line) (words : BitVec 32) : L1Line :=
  let v := l.valid &&& ~~~words
  let l := { l with valid := v, dirty := l.dirty &&& ~~~(bytesOf words), own := l.own &&& ~~~words }
  if v = 0#32 ∧ l.dirty = 0#128 then {}
  else { l with data := l.data.filter (fun e => !words.getLsbD (e.1 / 4)) }

/-! ## Slices and the memory dies behind them (R205, R417) -/

/-- The words that a byte mask touches. -/
def maskWords (k : BitVec 128) : BitVec 32 :=
  (List.range 32).foldl (fun a i => if (k.extractLsb' (4 * i) 4) = 0#4 then a else a ||| (1#32 <<< i)) 0#32

/-- The agent id of the memory die behind a line of the HBM: the bridge of its stack, or the integrator's tier die of a T1 (R426, R433). -/
def tierAgent (s : State) (line : Nat) : Nat :=
  match (if s.t1 then s.agents.find? (fun e => e.2.kind == 3 && e.2.edge == 2) else none) with
  | some e => e.1
  | none => 0x20 + line * 128 / 0x1000000000

/-- Whether a line stands in a stack of this device and its home slice holds no copy of it. -/
def inStack (s : State) (line : Nat) : Bool :=
  rangeOf (line * 128) == .hbm && !isFar s (line * 128) && (tget s.cache line).isNone

/-- A slice reads a line from its memory die (KIND 9); the modules to it are counted with those of the access that asks. -/
def tierGet (s : State) (slice line : Nat) : State :=
  if inStack s line then { s with sent := s.sent ++ [.request (tierAgent s line) slice 0 line 9 0xFFFFFFFF#32 0 false] } else s

/-- A slice writes bytes of a line to its memory die (KIND 10). -/
def tierSend (s : State) (slice line : Nat) (mask : BitVec 128) : State :=
  { s with sent := s.sent ++ [.request (tierAgent s line) slice 0 line 10 (maskWords mask) 0 false,
    .data (tierAgent s line) slice 0 line mask (physRead s (line * 128) 128)] }

/-- Bytes that have been written at the home of a line that stands in a stack go there. -/
def tierPut (s : State) (line : Nat) (mask : BitVec 128) : State :=
  if inStack s line then tierSend s (homeSlice s (line * 128) 0#64) line mask else s

/-- The byte mask of a range of bytes of a line. -/
def rangeMask (off n : Nat) : BitVec 128 := BitVec.ofNat 128 ((2 ^ n - 1) * 2 ^ off)

/-- The module between a tower and the memory die of a line, as its sending and its receiving end. -/
def tierHop (s : State) (line : Nat) : Nat × Nat :=
  let k := if s.t1 then 0 else line * 128 / 0x1000000000
  let m := steered s k 2 line
  if s.t1 then oneEnd (towerBlk 0 2 m) else (towerBlk k 2 m, bridgeBlk k m)

/-- Lines leave the cache partition or the KV reserve: the dirty ones are written back to their tier (R204, R219). -/
def writeBackLines (s : State) (ls : Tab CacheLine) : State :=
  ls.foldl (fun s e =>
    if e.1 < 2 ^ 46 ∧ e.2.dirty ∧ rangeOf (e.1 * 128) = .hbm ∧ !isFar s (e.1 * 128) then
      let p := [tierHop s e.1]
      let s := if pathActive s p then countBack (countPath (countPath s p 0) p 2) p 1 else s
      tierSend s e.2.slice e.1 (BitVec.allOnes 128)
    else s) s

/-- Bytes written at their home, in home order (R235). -/
def homeBytes (s : State) (line : Nat) (bs : List (Nat × Byte)) : State :=
  if bs.isEmpty then s
  else
    wakeLine (tierPut (physPutAt s line bs) line (bs.foldl (fun m e => m ||| rangeMask e.1 1) 0#128)) line

/-- The write-backs of a core for a line that are on their way (R26). -/
def backsOut (s : State) (core line : Nat) : Tab Req :=
  s.reqs.filter (fun e => e.2.kind == .writeBack && e.2.core == core && e.2.line == line && !e.2.performed)

/-- A recall by a unit of the device, which takes no time (log entry 17), finds the bytes of the owner's write-backs on their way; what
waits for those write-backs still waits their latency (R26). -/
def backsNow (s : State) (core line : Nat) : State :=
  (backsOut s core line).foldl (fun s e =>
    let s := homeBytes s line (maskedBytes e.2.data e.2.mask)
    { s with reqs := tput e.1 { e.2 with mask := 0#128, data := [] } s.reqs }) s

/-- The agent id of the die of a core (R426). -/
def coreAgent (core : Nat) : Nat := 0x10 + coreTower core

def reqWords (r : Req) : BitVec 32 := r.parts.foldl (fun m p => m ||| wordMask p.off p.width) 0#32

/-- The event that serves a request at its home. -/
def serveEvent (r : Req) : Instr :=
  let m : Msg :=
    { blk := 0, src := coreAgent r.core, inc := 0#16, sub := r.core, tag := r.id, line := r.line, wmask := reqWords r,
      aop := BitVec.ofNat 4 r.aop, w64 := r.w64, status := 0#3, val := 0#64, mask := r.mask, data := [], dsp := 0#2 }
  match r.kind with
  | .read => .readSiWt m
  | .own => .readOwn m
  | .uc => .readUc m
  | .write => .homeWrite r.id
  | .writeBack => .writeBack m
  | .atomic => .atomic m
  | .reduce => .reduce m
  | .prefetch => if r.aop = 2 then .readOwn m else if r.aop = 3 then .readUc m else .readSiWt m
  | .arm | .disarm => .armMonitor m

/-- Dirty bytes of a fabric line go back to the remote home (R213): a write-back that goes out at once, or waits for its modules. -/
def sendBack (s : State) (core line : Nat) (m : BitVec 128) (data : Mem) : State :=
  if m = 0#128 then s
  else
    let (id, s) := newId s
    let l := l1Of s core line
    let r : Req :=
      { id := id, kind := .writeBack, core := core, ctx := (l.vls.headD (0, 0)).1, line := line, vls := l.vls, parts := [], mask := m
        data := data, due := s.now, serve := s.now, leaf := l.leaf, writers := l.writers, order := s.fresh }
    schedule { s with reqs := tput id r s.reqs, fresh := s.fresh + 1 } s.now (serveEvent r)

/-- A recall and its answer among the dies of this device (R428): a recall message from the home to the owner's die, and one data message
back. The home no longer waits for it. One that a unit's access makes over modules not ready moves no counter (log entry 17). -/
def recallFlits (s : State) (x : Span) (leaf : Word64) : State :=
  let p := ownerPath s x.line x.sub leaf
  let s := { s with recalls := s.recalls.filter (fun e => !(e.2.agent == x.agent && e.2.sub == x.sub && e.2.line == x.line)) }
  if pathReady s p [3] [2] then countBack (countPath s p 3) p 2 else s

/-- The owner on this device writes back the span's dirty bytes and drops the whole span. A span of a fabric line goes back to
the remote home. -/
def recallSpan (s : State) (x : Span) : State :=
  let l := l1Of s x.sub x.line
  if isFar s (x.line * 128) then
    let s := { s with spans := s.spans.filter (fun y => y != x) }
    let m := l.dirty &&& bytesOf x.words
    let s := sendBack s x.sub x.line m ((maskedBytes l.data m).foldl (fun d b => bufWrite d b.1 b.2) [])
    modL1 s x.sub x.line (fun l => l1Drop l x.words)
  else
    let s := recallFlits (backsNow s x.sub x.line) x l.leaf
    let s := { s with spans := s.spans.filter (fun y => y != x) }
    let s := homeBytes s x.line (maskedBytes l.data (l.dirty &&& bytesOf x.words))
    modL1 s x.sub x.line (fun l => l1Drop l x.words)

/-- The spans of an owner, which its own ownership requests and write-backs leave as they are (R213). -/
def spanOf (own : Option (Nat × Nat)) (x : Span) : Bool := own == some (x.agent, x.sub)

/-- Recalls the spans of this device's cores that overlap the words, save those of `own`. -/
def recallLocal (s : State) (line : Nat) (words : BitVec 32) (own : Option (Nat × Nat)) : State :=
  ((spansOn s line words).filter (fun x => localAgent x.agent && !spanOf own x)).foldl recallSpan s

/-- A span that its home cannot recall at once: another agent owns it, a module on the way to its owner's die is not ready, or bytes
that its owner wrote back before are still on their way (R26). -/
def spanFar (s : State) (x : Span) : Bool :=
  !localAgent x.agent || !pathReady s (ownerPath s x.line x.sub (l1Of s x.sub x.line).leaf) [3] [2]
    || !(backsOut s x.sub x.line).isEmpty

/-- The spans that overlap the words and cannot be recalled at once, save those of `own`. -/
def remoteSpans (s : State) (line : Nat) (words : BitVec 32) (own : Option (Nat × Nat) := none) : List Span :=
  (spansOn s line words).filter (fun x => spanFar s x && !spanOf own x)

/-- Recalls the spans over the words that are not reached at once: messages go out to other agents, and a recall to a die of this device
waits for its modules or for the owner's write-backs on their way (R213, R428, R429). Answers none where no such span stands in the way. -/
def askRecalls (s : State) (line : Nat) (words : BitVec 32) (own : Option (Nat × Nat) := none) : Option State :=
  match remoteSpans s line words own with
  | [] => none
  | x :: r =>
    some ((x :: r).foldl (fun s x =>
      if s.recalls.any (fun e => e.2.agent == x.agent && e.2.sub == x.sub && e.2.line == line)
          || (localAgent x.agent && pathReady s (ownerPath s x.line x.sub (l1Of s x.sub x.line).leaf) [3] [2]) then s
      else
        let (id, s) := newId s
        let tag := recallTag s x.agent x.sub
        let c : Recall := { id := id, tag := tag, agent := x.agent, sub := x.sub, line := line, words := x.words, sentAt := s.now }
        let s := { s with recalls := tput id c s.recalls }
        let s := if localAgent x.agent then s else post s (agentPath s x.agent line) 3 (.recallOf x.agent x.sub tag line x.words)
        schedule s (s.now + 20000 * nsTicks) (.recallTimeout id)) s)

/-- The lines and words that bytes `pa` to `pa + n - 1` touch. -/
def linesOf (pa n : Nat) : List (Nat × BitVec 32) :=
  if n = 0 then []
  else (List.range ((pa + n - 1) / 128 - pa / 128 + 1)).map (fun i =>
    let l := pa / 128 + i
    let lo := if i = 0 then pa % 128 else 0
    let hi := if l = (pa + n - 1) / 128 then (pa + n - 1) % 128 else 127
    (l, wordMask lo (hi - lo + 1)))

/-- A span of another agent that a unit of the device recalls: the message goes out, and the answer comes within the access, with
dirty bytes that are free (log entry 17). Requests that waited for this span look again. -/
def recallFree (s : State) (x : Span) : State :=
  let (k, s) := newFresh s
  let m := Config.recallMask k &&& bytesOf x.words
  let s := post s (agentPath s x.agent x.line) 3 (.recallOf x.agent x.sub (recallTag s x.agent x.sub) x.line x.words)
  let s := { s with
    spans := s.spans.filter (fun y => y != x)
    recalls := s.recalls.filter (fun e => !(e.2.agent == x.agent && e.2.sub == x.sub && e.2.line == x.line)) }
  let s := if 0xE00 ≤ x.agent then countRx s (portBlk (portFor s x.line)) 2 0#24 else s
  wakeWaiting (homeBytes s x.line (((List.range 128).filter (fun i => m.getLsbD i)).map (fun i => (i, Config.recallByte k i))))

/-- An access by a unit of the device (walker, queue unit, dispatcher), served at the homes: every span that it touches is recalled
first, whoever owns it (R213). -/
def unitTouch (s : State) (pa n : Nat) : State :=
  (linesOf pa n).foldl (fun s x =>
    ((spansOn s x.1 x.2).filter (fun y => !localAgent y.agent)).foldl recallFree (recallLocal s x.1 x.2 none)) s

/-- The key of the slot of a frame in `State.cache`, above every line. -/
def slotKey (frame : Nat) : Nat := 2 ^ 46 + frame

def lineFrame (line : Nat) : Nat := line / 512

/-- What an access that comes with no PTE leaves at the home of its line (R218): where the frame has a slot, or the line a copy, the
recency and the dirty bit follow, and a line of a slot is filled. Such an access allocates nothing (DESIGN CHOICE, log entry 94). -/
def touchHeld (s : State) (line : Nat) (dirty : Bool) : State :=
  match tget s.cache (slotKey (lineFrame line)) with
  | some c =>
    let old := tgetD s.cache line { reserve := true, slice := c.slice, unit := c.unit }
    let cache := tput (slotKey (lineFrame line)) { c with used := s.now } s.cache
    { s with cache := tput line { old with used := s.now, dirty := old.dirty || dirty } cache }
  | none =>
    match tget s.cache line with
    | some c => { s with cache := tput line { c with used := s.now, dirty := c.dirty || dirty } s.cache }
    | none => if dirty then s else tierGet s (homeSlice s (line * 128) 0#64) line

/-- The same for every line of some bytes. -/
def touchBytes (s : State) (pa n : Nat) (dirty : Bool) : State := (linesOf pa n).foldl (fun s x => touchHeld s x.1 dirty) s

/-! ## Other dies' memory, for walkers, fetches and units (R28, R343, R389) -/

/-- A line that has been read at another die's home and not yet been used. -/
def farRead (s : State) (line : Nat) : Option FarRead := s.farReads.find? (fun f => f.line == line)

/-- Lines that have been used. -/
def dropFarReads (s : State) (lines : List Nat) : State :=
  { s with farReads := s.farReads.filter (fun f => !lines.contains f.line) }

/-- What a walker, a fetch or a unit asks of another die's home, which goes out as every request does. -/
def farAsk (s : State) (r : Req) : State :=
  let (id, s) := newId s
  let r := { r with id := id, due := s.now, serve := s.now, order := s.fresh, walk := true }
  schedule { s with reqs := tput id r s.reqs, fresh := s.fresh + 1 } s.now (serveEvent r)

/-- A line is read at another die's home, by the die of a core or by a unit at the hub, unless it has been asked for. -/
def askFar (s : State) (core : Option Nat) (line : Nat) : State :=
  if s.reqs.any (fun e => e.2.walk && e.2.kind == .uc && e.2.line == line) then s
  else farAsk s { id := 0, kind := .uc, core := core.getD 0, ctx := 0, line := line, parts := [], due := 0, hub := core.isNone }

/-- The bytes that a unit reads at another die's home: those that have come, and else what the home holds, which is free (log entry 17). -/
def farBytes (s : State) (pa n : Nat) : List Byte :=
  (List.range n).map (fun i =>
    match farRead s ((pa + i) / 128) with
    | some f => f.bytes.getD ((pa + i) % 128) 0#8
    | none => Config.farByte s.fresh i)

/-- A unit writes at another die's home: one write for each line. What has been read of the line follows. -/
def farWrite (s : State) (pa : Nat) (bs : List Byte) : State :=
  (linesOf pa bs.length).foldl (fun s x =>
    let mine := ((List.range bs.length).zip bs).filter (fun y => (pa + y.1) / 128 == x.1)
    let at' := mine.map (fun y => ((pa + y.1) % 128, y.2))
    let put := fun (d : Mem) => at'.foldl (fun d y => bufWrite d y.1 y.2) d
    let s := { s with farReads := s.farReads.map (fun f =>
      if f.line = x.1 then { f with bytes := bufReadN (put (bufWriteN [] 0 f.bytes)) 0 128 } else f) }
    farAsk s { id := 0, kind := .write, core := 0, ctx := 0, line := x.1, parts := [], due := 0, hub := true
               mask := at'.foldl (fun m y => m ||| (1#128 <<< y.1)) 0#128, data := put [] }) s

def unitRead (s : State) (pa n : Nat) : List Byte × State :=
  if isFar s pa then (farBytes s pa n, { s with fresh := s.fresh + 1 })
  else
    let s := touchBytes (unitTouch s pa n) pa n false
    (physRead s pa n, s)

def unitNat (s : State) (pa n : Nat) : Nat × State :=
  let r := unitRead s pa n
  (leNat r.1, r.2)

/-- A write by a unit of the device: spans are recalled, the bytes are written, the watchers of the lines wake. A write of a whole line
clears its poison, as a fully coalesced store does (R222 names no other; DESIGN CHOICE, log entry 90). -/
def unitWrite (s : State) (pa : Nat) (bs : List Byte) : State :=
  if isFar s pa then farWrite s pa bs
  else
    let s := touchBytes (unitTouch s pa bs.length) pa bs.length true
    let s := physPut s pa bs
    (linesOf pa bs.length).foldl (fun s x =>
      wakeLine (tierPut (if x.2 = 0xFFFFFFFF#32 then clearPoison s x.1 else s) x.1 (bytesOf x.2)) x.1) s

def unitPutNat (s : State) (pa n v : Nat) : State := unitWrite s pa (leBytes v n)

/-! ## The cache partition and the KV reserve (R205, R218, R219) -/

/-- The lines that Pug has fetched and pinned (R266). -/
def pinnedLines (s : State) : List Nat := s.quads.flatMap (fun q => q.2.me.flatMap (fun e => e.lines.map (·.1)))

/-- The least recently used line of a slice's cache share that Pug neither pins nor guards. -/
def oldestLine (s : State) (slice : Nat) : Option Nat :=
  let ls := s.cache.filter (fun e => decide (e.1 < 2 ^ 46) && e.2.slice == slice && !e.2.reserve
    && decide (e.2.guardUntil ≤ s.now) && !(pinnedLines s).contains e.1)
  (ls.foldl (fun (b : Option (Nat × Nat)) e =>
    match b with
    | some (_, u) => if e.2.used < u then some (e.1, e.2.used) else b
    | none => some (e.1, e.2.used)) none).map (·.1)

/-- The record of a frame as its home holds it. -/
def frameRec (s : State) (idx : Nat) : Word64 := BitVec.ofNat 64 (memNat s.mem (frameRecAt idx) 8)

/-- The record of the frame of an address is read at its home: spans on it are recalled (R213). -/
def touchRec (s : State) (pa : Nat) : State :=
  match frameIndex pa with
  | some i => unitTouch s (recordAt s i) 8
  | none => s

/-- The share count of a frame, from its record. -/
def shareOf (s : State) (pa : Nat) : Nat :=
  match frameIndex pa with
  | some i => bits (frameRec s i) 0 16
  | none => 0

/-- Order of victims among reserve slots (R219): KEEP, then unshared before shared, then least recent. -/
def slotBefore (s : State) (a b : Nat × CacheLine) : Bool :=
  let sh := fun (e : Nat × CacheLine) => decide (shareOf s ((e.1 - 2 ^ 46) * 65536) ≠ 1)
  if a.2.keep ≠ b.2.keep then decide (a.2.keep < b.2.keep)
  else if sh a ≠ sh b then sh b
  else decide (a.2.used < b.2.used)

def victimSlot (s : State) (slice : Nat) : Option Nat :=
  let ls := s.cache.filter (fun e => decide (2 ^ 46 ≤ e.1) && e.2.slice == slice && decide (e.2.keep < 7)
    && !(pinnedLines s).any (fun l => slotKey (lineFrame l) == e.1))
  (ls.foldl (fun (b : Option (Nat × CacheLine)) e =>
    match b with
    | some x => if slotBefore s e x then some e else b
    | none => some e) none).map (·.1)

/-- The lines of a frame are written back and dropped. -/
def dropFrame (s : State) (frame : Nat) : State :=
  { writeBackLines s (s.cache.filter (fun e => lineFrame e.1 == frame)) with cache := s.cache.filter (fun e => e.1 != slotKey frame && (decide (2 ^ 46 ≤ e.1) || lineFrame e.1 != frame)) }

/-- The KEEP with which a page is held: KEEP 7 may fill at most half of a slice's share (R219). -/
def keptAs (s : State) (slice frame keep : Nat) : Nat :=
  let seven := (s.cache.filter (fun e => decide (2 ^ 46 ≤ e.1) && e.2.slice == slice && e.2.keep == 7
    && e.1 != slotKey frame)).length
  if keep = 7 ∧ spUnits s (sliceTower slice) 3 * 4 / 2 ≤ seven then 6 else keep

/-- The unit that a new line or slot of a partition takes: in its layer (R206), or else in any, one where its slice's share has room for
`size` lines (log entry 30). -/
def unitFor (s : State) (slice code want size : Nat) : Nat :=
  let t := sliceTower slice
  let full := fun (u : Nat) =>
    let n := (s.cache.filter (fun e => e.2.slice == slice && e.2.unit == u && decide (e.1 < 2 ^ 46) == decide (size = 1))).length
    decide (2048 ≤ n * size)
  let us := (List.range 48).filter (fun u => spCode s t u == code && !full u)
  match us.find? (fun u => u / 12 == layerFor s t code want) with
  | some u => u
  | none => us.headD 0

/-- A page's slot is allocated, a victim giving way when the share is full. -/
def takeSlot (s : State) (slice frame keep layer : Nat) : State :=
  let s :=
    if (tget s.cache (slotKey frame)).isSome then s
    else
      let n := (s.cache.filter (fun e => decide (2 ^ 46 ≤ e.1) && e.2.slice == slice)).length
      if n < spUnits s (sliceTower slice) 3 * 4 then s
      else
        let s := s.cache.foldl (fun s e =>
          if 2 ^ 46 ≤ e.1 ∧ e.2.slice = slice then touchRec s ((e.1 - 2 ^ 46) * 65536) else s) s
        match victimSlot s slice with
        | some k => dropFrame s (k - 2 ^ 46)
        | none => s
  let n := (s.cache.filter (fun e => decide (2 ^ 46 ≤ e.1) && e.2.slice == slice && e.1 != slotKey frame)).length
  if n < spUnits s (sliceTower slice) 3 * 4 then
    let unit := match tget s.cache (slotKey frame) with | some c => c.unit | none => unitFor s slice 3 layer 512
    let c : CacheLine := { used := s.now, keep := keptAs s slice frame keep, reserve := true, slice := slice, unit := unit }
    { s with cache := tput (slotKey frame) c s.cache }
  else s

/-- What an access leaves at its home (R205, R218): lines of cached pages and of reserve pages are held; every other access
leaves no copy. -/
def touchHome (s : State) (pa : Nat) (leaf : Word64) (dirty : Bool) : State :=
  let slice := homeSlice s pa leaf
  let line := pa / 128
  let layer := if leafRot leaf then line % 512 % 4 else leafLayer leaf
  let s := if dirty then s else tierGet s slice line
  let put := fun (s : State) (res : Bool) =>
    let old := match tget s.cache line with
      | some c => c
      | none => { unit := if res then (tgetD s.cache (slotKey (lineFrame line)) {}).unit else unitFor s slice 1 layer 1 }
    let c : CacheLine := { old with dirty := old.dirty || dirty, used := s.now, reserve := res, slice := slice }
    { s with cache := tput line c s.cache }
  match holdCode s slice leaf with
  | 1 =>
    if (tget s.cache line).isSome then put s false
    else
      let share := spUnits s (sliceTower slice) 1 * 2048
      let n := (s.cache.filter (fun e => decide (e.1 < 2 ^ 46) && e.2.slice == slice && !e.2.reserve)).length
      if n < share then put s false
      else match oldestLine s slice with
        | some k =>
          if share = 0 then s
          else put { writeBackLines s (s.cache.filter (fun e => e.1 == k)) with cache := tdel k s.cache } false
        | none => s
  | 3 =>
    let s := takeSlot s slice (lineFrame line) (leafKeep leaf) layer
    if (tget s.cache (slotKey (lineFrame line))).isSome then put s true else s
  | _ => s

/-! ## The context fault log (R375) -/

/-- An entry of the context fault log (R375); nothing is logged while the context is FREE. -/
def faultLog (s : State) (ctx src code team : Nat) (detail : Nat) : State :=
  let x := ctxOf s ctx
  if x.state = .free then s
  else
    let bytes := leBytes (code + src * 2 ^ 8) 4 ++ leBytes team 4 ++ leBytes detail 8 ++ leBytes (timeNs s) 8
      ++ leBytes x.flogcnt.toNat 8
    let s := unitWrite s (x.area + x.flogcnt.toNat % 1024 * 32) bytes
    interrupt (modCtx s ctx (fun x => { x with flogcnt := x.flogcnt + 1 })) ctx 1

/-! ## Frame records (R395, R396) -/

def recShare (r : Word64) : Nat := bits r 0 16
def recPoison (r : Word64) : Bool := r.getLsbD 16
def recMove (r : Word64) : Bool := r.getLsbD 17
def recOwner (r : Word64) : Nat := bits r 32 6

/-- Replaces a field of a word. -/
def putBits (x : Word64) (lo n v : Nat) : Word64 :=
  let m : Word64 := BitVec.ofNat 64 ((2 ^ n - 1) * 2 ^ lo)
  (x &&& ~~~m) ||| (BitVec.ofNat 64 (v % 2 ^ n * 2 ^ lo))

/-- An event at the home of a record. -/
def modRec (s : State) (idx : Nat) (f : Word64 → Word64) : State :=
  let s := unitTouch s (recordAt s idx) 8
  unitPutNat s (recordAt s idx) 8 (f (frameRec s idx)).toNat

def framePoisoned (s : State) (pa : Nat) : Bool :=
  match frameIndex pa with
  | some i => recPoison (frameRec s i)
  | none => false

/-- A home marks words of a line poisoned in place, sets the frame's POISON bit and, when the bit was clear, sends one record
to the fault queue of the frame's OWNER (R222, R401). -/
def poisonWords (s : State) (line : Nat) (words : BitVec 32) : State :=
  let s := { s with poison := (wordsOf words).foldl (fun l i => addSorted (line * 32 + i) l) s.poison }
  match frameIndex (line * 128) with
  | none => s
  | some i =>
    let s := touchRec s (line * 128)
    let r := frameRec s i
    if recPoison r then s
    else
      let s := modRec s i (fun r => r ||| (1#64 <<< 16))
      sendRecord s (recOwner r) (BitVec.ofNat 64 (line * 128 / 65536 * 65536)) 0#64 (line * 128) 0#64 0 noTeam 5 6 0
        fPOISON false

end Sys2Proof.Machine
end

