-- ==== Sys2Proof/Machine/Operands.lean ====
section
/-! DEFINITION. The operand forms: the sources, masks and destinations of classes 0 to 2 (R32 to R40, R54, R144), the effective
addresses and memory operands of class 4 (R43, R44, R223), and the s register operands. -/

namespace Sys2Proof.Machine

/-! ## Classes 0 to 2 -/

/-- How a form uses its registers: how many registers each of a, b, c and the destination take (0, 1 or 2), how many bits a
bit destination writes, whether b is extended with its sign when it is an immediate of a 64-bit form, and whether the old
destination is a source (R150). -/
structure AluUse where
  ka : Nat := 1
  kb : Nat := 1
  kc : Nat := 0
  kd : Nat := 1
  kbit : Nat := 0
  signed : Bool := true
  old : Bool := false
  deriving DecidableEq, Repr

/-- The v registers that a source field names. -/
def vsrc (n : BitVec 10) (s t : Bool) (k : Nat) : List (Nat × Bool) :=
  if s then [] else (List.range k).map (fun i => (n.toNat + i, t))

/-- Destination registers: none is named by field 0 (R32), and a bit destination names `v0` to `v31` (R151). -/
def aluDst (u : AluUse) (f : Alu) : List Nat :=
  if 0 < u.kbit then [f.dst.toNat % 32]
  else if f.dst = 0#10 then [] else (List.range u.kd).map (fun i => f.dst.toNat + i)

def aluOpnds (u : AluUse) (f : Alu) : Opnds where
  g := f.g
  mask := f.ext.pfxOf.map (fun p => p.mr.toNat)
  mb := match f.ext.pfxOf with | some p => p.mb.toNat | none => 0
  mn := match f.ext.pfxOf with | some p => p.mn | none => false
  srcs := vsrc f.sa f.sas f.ta u.ka
    ++ (if f.ext.immOf.isSome then [] else vsrc f.sb f.sbs f.tb u.kb)
    ++ (if f.ext.pfxOf.isSome then vsrc f.sc f.scs f.tc u.kc else [])
    ++ (if u.old then [(f.dst.toNat, false)] else [])
  dsts := aluDst u f

/-- The mask bit (R40). -/
def maskBit (th : Thread) (f : Alu) : Bool :=
  match f.ext.pfxOf with
  | some p => (regVal th p.mr.toNat).getLsbD p.mb.toNat != p.mn
  | none => true

def zeroing (f : Alu) : Bool := match f.ext.pfxOf with | some p => p.zm | none => false

/-- A source of one or two registers as a 64-bit value; one of 32 bits stands in the low half (R54). -/
def srcVal (s : State) (t : ThrRef) (th : Thread) (n : BitVec 10) (sf : Bool) (k : Nat) : Word64 :=
  if sf then (if k = 2 then thrSreg s t n.toNat else (lo32 (thrSreg s t n.toNat)).setWidth 64)
  else if k = 2 then pairVal th n.toNat else (regVal th n.toNat).setWidth 64

def aluA (s : State) (t : ThrRef) (th : Thread) (u : AluUse) (f : Alu) : Word64 := srcVal s t th f.sa f.sas u.ka

def aluB (s : State) (t : ThrRef) (th : Thread) (u : AluUse) (f : Alu) : Word64 :=
  match f.ext.immOf with
  | some v => if u.kb = 2 && u.signed then v.signExtend 64 else v.setWidth 64
  | none => srcVal s t th f.sb f.sbs u.kb

def aluC (s : State) (t : ThrRef) (th : Thread) (u : AluUse) (f : Alu) : Word64 := srcVal s t th f.sc f.scs u.kc

/-- The value that a form writes, the flags it raises, and the generator state it leaves. -/
structure AluOut where
  val : Word64
  flags : FpFlags := 0#5
  rng : Word64
  deriving DecidableEq, Repr

/-- Writes `k` bits of `v` at bit `i` of a register. -/
def putField (x : Word32) (i k : Nat) (v : Word32) : Word32 :=
  let m : Word32 := BitVec.ofNat 32 ((2 ^ k - 1) * 2 ^ i)
  (x &&& ~~~m) ||| ((v <<< i) &&& m)

/-- WriteDst of R54 under a true mask bit. -/
def writeAlu (u : AluUse) (f : Alu) (v : Word64) (th : Thread) : Thread :=
  if 0 < u.kbit then
    let n := f.dst.toNat % 32
    putReg th n (putField (regVal th n) (f.dst.toNat / 32) u.kbit (lo32 v))
  else if u.kd = 2 then putPair th f.dst.toNat v
  else putReg th f.dst.toNat (lo32 v)

/-- Under a false mask bit (R40, R131): zero exactly what the form would write, or rewrite the old value. -/
def skipAlu (u : AluUse) (f : Alu) (th : Thread) : Thread :=
  if zeroing f then writeAlu u f 0#64 th
  else (aluDst u f).foldl (fun th n => putReg th n (regVal th n)) th

/-- An operation on the thread and the values a, b, c. -/
abbrev AluOp := Thread → Word64 → Word64 → Word64 → AluOut

/-- R144: one thread of a form of classes 0 to 2 that completes at issue. -/
def aluThread (u : AluUse) (f : Alu) (op : AluOp) (p : Packet) (t : ThrRef) (s : State) : ThrOut :=
  let th := thrOf s t
  if maskBit th f then
    let r := op th (aluA s t th u f) (aluB s t th u f) (aluC s t th u f)
    if trapping th.fpc r.flags ≠ 0#5 then .fault (fpTrap (trapping th.fpc r.flags))
    else .done (modThr s t (fun th =>
      writeAlu u f r.val { th with fpc := raiseFlags th.fpc r.flags, rng := r.rng })) p.next
  else .done (modThr s t (skipAlu u f)) p.next

def runAlu (u : AluUse) (f : Alu) (op : AluOp) (s : State) : Out :=
  perThread (aluOpnds u f) noIll (aluThread u f op) s

/-- An operation without flags and without the generator. -/
def pureOp (g : Word64 → Word64 → Word64 → Word64) : AluOp := fun th a b c => { val := g a b c, rng := th.rng }

/-! ## Classes 3 to 7 -/

/-- The registers of a base word: sources of the given counts in SA and SB, destinations from DST. -/
def baseOpnds (b : Base) (ka kb kd : Nat) (priv : Bool := false) : Opnds where
  g := b.g
  srcs := (List.range ka).map (fun i => (b.sa.toNat + i, b.ta)) ++ (List.range kb).map (fun i => (b.sb.toNat + i, b.tb))
  dsts := if b.dst = 0#10 then [] else (List.range kd).map (fun i => b.dst.toNat + i)
  priv := priv

/-- Registers that a width code takes (R43, R223). -/
def widthRegs (w : BitVec 3) : Nat := if w = 3#3 then 2 else if w = 4#3 then 4 else 1
def widthBytes (w : BitVec 3) : Nat := 2 ^ w.toNat

/-- The base registers of an address: a pair, or none where an s register is the base (R43). -/
def baseSrcs (b : Base) (bs : Bool) : List (Nat × Bool) :=
  if bs then [] else [(b.sa.toNat, b.ta), (b.sa.toNat + 1, b.ta)]

/-- The base of an address, and its offset: OFF, or the displacement word (R44). -/
def addrBase (s : State) (t : ThrRef) (b : Base) (bs : Bool) : Word64 :=
  if bs then thrSreg s t b.sa.toNat else pairVal (thrOf s t) b.sa.toNat

def addrOff (m : MemWord) (disp : Option Word32) : Word64 :=
  match disp with
  | some d => d.signExtend 64
  | none => m.off.signExtend 64

/-- The effective address (R44): base + offset, plus the signed index times the width, modulo 2^64. -/
def effAddr (s : State) (t : ThrRef) (b : Base) (m : MemWord) (disp : Option Word32) : Word64 :=
  let ix := if m.ix then (regVal (thrOf s t) b.sb.toNat).signExtend 64 * BitVec.ofNat 64 (widthBytes m.width) else 0#64
  addrBase s t b m.bs + addrOff m disp + ix

/-- The registers of a load, store, RED or PREF: base, index, data sources and destinations (R223). -/
def memOpnds (b : Base) (m : MemWord) (kdata kdst : Nat) : Opnds where
  g := b.g
  srcs := baseSrcs b m.bs ++ (if m.ix then [(b.sb.toNat, b.tb)] else [])
    ++ (List.range kdata).map (fun i => (b.dst.toNat + i, b.tc))
  dsts := if b.dst = 0#10 then [] else (List.range kdst).map (fun i => b.dst.toNat + i)

/-- The registers of an atomic: operand b, with the CAS new value after it, and the return (R223). -/
def atomOpnds (b : Base) (m : MemWord) : Opnds where
  g := b.g
  srcs := baseSrcs b m.bs ++ (List.range (widthRegs m.width)).map (fun i => (b.sb.toNat + i, b.tb))
    ++ (if b.md = 9#4 then (List.range (widthRegs m.width)).map (fun i => (b.sb.toNat + widthRegs m.width + i, b.tc)) else [])
  dsts := if b.dst = 0#10 then [] else (List.range (widthRegs m.width)).map (fun i => b.dst.toNat + i)

/-- The value of `k` registers from `n` on, the lowest register in the low bits; `v0` reads as ones (R32). -/
def regsNat (th : Thread) (n : Nat) : Nat → Nat
  | 0 => 0
  | k + 1 => (regVal th n).toNat + 2 ^ 32 * regsNat th (if n = 0 then 0 else n + 1) k

end Sys2Proof.Machine
end

