-- ==== Sys2Proof/Machine/Integer.lean ====
section
/-! DEFINITION. Class 0: moves, integer arithmetic, logic, shifts, bit fields, compares and address arithmetic (R146 to R152),
and the generator instructions (R89, R122, R123). -/

namespace Sys2Proof.Machine

/-! ## Exact values and reduction (R146) -/

/-- A 32-bit operand as an integer, signed or unsigned. -/
def int32 (u : Bool) (x : Word64) : Int := if u then ((lo32 x).toNat : Int) else (lo32 x).toInt
def int64 (u : Bool) (x : Word64) : Int := if u then (x.toNat : Int) else x.toInt

/-- Clamps to the range of a width. -/
def clampTo (w : Nat) (u : Bool) (x : Int) : Int :=
  let lo : Int := if u then 0 else -(2 ^ (w - 1) : Nat)
  let hi : Int := if u then (2 ^ w : Nat) - 1 else (2 ^ (w - 1) : Nat) - 1
  if x < lo then lo else if hi < x then hi else x

/-- Reduces an exact result to a width: wrapped, or saturated. -/
def reduceTo (w : Nat) (u sat : Bool) (x : Int) : Word64 :=
  BitVec.ofNat 64 ((if sat then clampTo w u x else x) % (2 ^ w : Nat)).toNat

/-- MOD bits of the integer forms: `.U` or `.S` in bit 0, `.HI` in bit 1, `.W` or `.WIDE` in bit 2. -/
def mdU (f : Alu) : Bool := f.md.getLsbD 0
def mdHi (f : Alu) : Bool := f.md.getLsbD 1
def mdW (f : Alu) : Bool := f.md.getLsbD 2

def wUse (f : Alu) : AluUse :=
  if mdW f then { ka := 2, kb := 2, kd := 2, signed := !mdU f } else {}

def wWidth (f : Alu) : Nat := if mdW f then 64 else 32

def asInt (f : Alu) (x : Word64) : Int := if mdW f then int64 (mdU f) x else int32 (mdU f) x

def addOp (f : Alu) : AluOp := pureOp (fun a b _ => reduceTo (wWidth f) (mdU f) f.sat (asInt f a + asInt f b))
def subOp (f : Alu) : AluOp := pureOp (fun a b _ => reduceTo (wWidth f) (mdU f) f.sat (asInt f a - asInt f b))

def mulOp (f : Alu) : AluOp := pureOp (fun a b _ =>
  let x := int32 (mdU f) a * int32 (mdU f) b
  if mdW f then reduceTo 64 false false x
  else if mdHi f then reduceTo 32 false false (x / (2 ^ 32 : Nat))
  else reduceTo 32 (mdU f) f.sat x)

def madOp (f : Alu) : AluOp := pureOp (fun a b c =>
  let x := int32 (mdU f) a * int32 (mdU f) b + int32 (mdU f) c
  if mdW f then reduceTo 64 false false x else reduceTo 32 (mdU f) f.sat x)

/-- IDIV and IREM with the special cases of R148. -/
def divVal (u : Bool) (a b : Word32) : Word32 :=
  if b = 0#32 then 0xFFFFFFFF#32
  else if u then BitVec.ofNat 32 (a.toNat / b.toNat)
  else BitVec.ofInt 32 (a.toInt.tdiv b.toInt)

def remVal (u : Bool) (a b : Word32) : Word32 :=
  if b = 0#32 then a
  else if u then BitVec.ofNat 32 (a.toNat % b.toNat)
  else BitVec.ofInt 32 (a.toInt.tmod b.toInt)

def minOp (f : Alu) : AluOp := pureOp (fun a b _ => if int32 (mdU f) a ≤ int32 (mdU f) b then a else b)
def maxOp (f : Alu) : AluOp := pureOp (fun a b _ => if int32 (mdU f) a ≤ int32 (mdU f) b then b else a)

def absOp (f : Alu) : AluOp := pureOp (fun a _ _ => reduceTo 32 false f.sat (int32 false a).natAbs)
def negOp (f : Alu) : AluOp := pureOp (fun a _ _ => reduceTo 32 false f.sat (-(int32 false a)))

def selOp (f : Alu) : AluOp := pureOp (fun a b c => if (lo32 c != 0#32) != mdU f then a else b)

/-! ## Shifts and bit fields (R146, R149, R150) -/

def shlOp (f : Alu) : AluOp := pureOp (fun a b _ =>
  let n := (lo32 b).toNat
  if wWidth f ≤ n then 0#64 else if mdW f then a <<< n else ((lo32 a) <<< n).setWidth 64)

def shrOp (f : Alu) : AluOp := pureOp (fun a b _ =>
  let n := (lo32 b).toNat
  if mdW f then (if mdU f then a.sshiftRight (min n 63) else if 64 ≤ n then 0#64 else a >>> n)
  else if mdU f then ((lo32 a).sshiftRight (min n 31)).setWidth 64
  else if 32 ≤ n then 0#64 else ((lo32 a) >>> n).setWidth 64)

def rotlVal (a b : Word32) : Word32 := a.rotateLeft (b.toNat % 32)

/-- The field that `b` names: its position and its end (R149). -/
def bfField (b : Word32) : Option (Nat × Nat) :=
  let pos := b.toNat % 256
  let len := b.toNat / 256 % 256
  if len = 0 ∨ 32 ≤ pos then none else some (pos, min (pos + len) 32)

def bfeVal (signed : Bool) (a b : Word32) : Word32 :=
  match bfField b with
  | none => 0#32
  | some (lo, hi) =>
    let x := a.toNat / 2 ^ lo % 2 ^ (hi - lo)
    if signed && a.getLsbD (hi - 1) then BitVec.ofNat 32 (x + 2 ^ 32 - 2 ^ (hi - lo)) else BitVec.ofNat 32 x

def bfiVal (a b c : Word32) : Word32 :=
  match bfField b with
  | none => c
  | some (lo, hi) => putField c lo (hi - lo) a

/-- Bits of a word, reversed. -/
def brevVal (x : Word32) : Word32 :=
  (List.range 32).foldl (fun r i => if x.getLsbD i then r ||| (1#32 <<< (31 - i)) else r) 0#32

def popcVal (x : Word32) : Nat := ((List.range 32).filter (fun i => x.getLsbD i)).length

/-- Leading zeros of the low `n` bits. -/
def clzFrom (x : Word32) : Nat → Nat
  | 0 => 0
  | n + 1 => if x.getLsbD n then 0 else clzFrom x n + 1

def byteOf (x : Word32) (i : Nat) : Byte := x.extractLsb' (8 * i) 8

def rev8 (x : Byte) : Byte :=
  (List.range 8).foldl (fun r i => if x.getLsbD i then r ||| (1#8 <<< (7 - i)) else r) 0#8

/-- One result byte of BSEL under its selector (R149). -/
def bselByte (a c : Word32) (sel : Byte) : Byte :=
  let k := sel.toNat % 8
  let x := if k < 4 then byteOf a k else byteOf c (k - 4)
  let x := if sel.getLsbD 3 then rev8 x else x
  let x := if sel.getLsbD 4 then (if x.getLsbD 7 then 0xFF#8 else 0#8) else x
  let x := if sel.getLsbD 5 then ~~~x else x
  if sel.getLsbD 6 then 0#8 else x

def bselVal (a b c : Word32) : Word32 :=
  bselByte a c (byteOf b 3) ++ bselByte a c (byteOf b 2) ++ bselByte a c (byteOf b 1) ++ bselByte a c (byteOf b 0)

/-- LUT3 (R150): bit i is `tbl` at a + 2c + 4d. -/
def lut3Val (tbl : Nat) (a c d : Word32) : Word32 :=
  (List.range 32).foldl (fun r i =>
    let k := b2n (a.getLsbD i) + 2 * b2n (c.getLsbD i) + 4 * b2n (d.getLsbD i)
    if tbl / 2 ^ k % 2 = 1 then r ||| (1#32 <<< i) else r) 0#32

/-- The CMP conditions (R151). -/
def cmpHolds (md : Nat) (a b : Word32) : Bool :=
  match md with
  | 0 => a == b
  | 1 => a != b
  | 2 => a.slt b
  | 3 => !a.slt b
  | 4 => a.ult b
  | 5 => !a.ult b
  | 6 => a.sle b
  | _ => !a.sle b

/-- The BOP operations (R151). -/
def bopVal (md : Nat) (a b : Bool) : Bool :=
  match md with
  | 0 => a && b
  | 1 => a || b
  | 2 => a != b
  | 3 => a && !b
  | 4 => a || !b
  | 5 => !(a && b)
  | 6 => !(a || b)
  | _ => a == b

/-! ## The generator (R89, R123) -/

/-- The generator's step by R89, whose example it meets; R481's table shows other values for lane 3 (log entry 104). -/
def rngNext (x : Word64) : Word64 :=
  let x := if x = 0#64 then 0x9E3779B97F4A7C15#64 else x
  let x := x ^^^ (x >>> 12)
  let x := x ^^^ (x <<< 25)
  x ^^^ (x >>> 27)

/-- The output u of the state that a step leaves. -/
def rngOut (x : Word64) : Word32 := hi32 (x * 0x2545F4914F6CDD1D#64)

def fmix64 (h : Word64) : Word64 :=
  let h := h ^^^ (h >>> 33)
  let h := h * 0xFF51AFD7ED558CCD#64
  let h := h ^^^ (h >>> 33)
  let h := h * 0xC4CEB9FE1A85EC53#64
  h ^^^ (h >>> 33)

/-- u >> 8, of 24 bits, times 2^-24 as FP32, exactly (R122). -/
def unitFloat (u : Word32) : Word32 :=
  let m := u.toNat / 256
  if m = 0 then 0#32 else BitVec.ofNat 32 ((103 + Nat.log2 m) * 2 ^ 23 + m * 2 ^ (23 - Nat.log2 m) % 2 ^ 23)

/-! ## Asynchronous forms (R129, R130) -/

/-- Gives a result to its register and its flags to `%fpc`, `clocks` core clocks from now; with trap enables set the thread
waits for it (R130). -/
def launchAsync (s : State) (p : Packet) (t : ThrRef) (dst : Nat) (clocks : Nat) (val : Word32) (fl : FpFlags) (sync : Bool) :
    State :=
  let (id, s) := newId s
  let s := modThr s t (fun th => dropReg th dst)
  let s := { s with asyncs := tput id { thr := t, dst := dst, val := val, flags := fl, sync := sync } s.asyncs }
  afterClocks s (coreQuad p.core) clocks (.asyncResultWrite id)

/-- One thread of an asynchronous form. `fp` is false for IDIV and IREM, which raise no flag and never wait. -/
def asyncThread (f : Alu) (u : AluUse) (fp : Bool) (clocks : Packet → ThrRef → Nat) (op : AluOp) (p : Packet) (t : ThrRef)
    (s : State) : ThrOut :=
  let th := thrOf s t
  if maskBit th f then
    let r := op th (aluA s t th u f) (aluB s t th u f) (aluC s t th u f)
    if fp && trapping th.fpc r.flags != 0#5 then .fault (fpTrap (trapping th.fpc r.flags))
    else
      let sync := fp && fpcTraps th.fpc != 0#5
      let s := modThr s t (fun th => { th with rng := r.rng })
      let s := launchAsync s p t f.dst.toNat (clocks p t) (lo32 r.val) r.flags sync
      if sync then .left (modThr (makeWait s t .result) t (fun th => { th with pc := p.next })) else .done s p.next
  else .done (modThr s t (skipAlu u f)) p.next

def runAsync (u : AluUse) (f : Alu) (fp : Bool) (clocks : Packet → ThrRef → Nat) (op : AluOp) (s : State) : Out :=
  perThread (aluOpnds u f) noIll (asyncThread f u fp clocks op) s

/-! ## The meanings -/

def execNop (f : Alu) (s : State) : Out := runAlu { ka := 0, kb := 0, kd := 0 } f (pureOp (fun _ _ _ => 0#64)) s

/-- MOV takes a, or the immediate (R145); MOV.W extends the immediate with its sign. -/
def execMov (f : Alu) (s : State) : Out :=
  let k := if f.md = 1#3 then 2 else 1
  runAlu { ka := if f.ext.immOf.isSome then 0 else k, kb := if f.ext.immOf.isSome then k else 0, kd := k } f
    (pureOp (fun a b _ => if f.ext.immOf.isSome then b else a)) s

def execMovImm64 (g : Guard) (dst : BitVec 10) (imm : Word64) (s : State) : Out :=
  perThread { g := g, dsts := [dst.toNat, dst.toNat + 1] } noIll
    (fun p t s => .done (modThr s t (fun th => putPair th dst.toNat imm)) p.next) s

def execSel (f : Alu) (s : State) : Out := runAlu { kc := 1 } f (selOp f) s
def execIadd (f : Alu) (s : State) : Out := runAlu (wUse f) f (addOp f) s
def execIsub (f : Alu) (s : State) : Out := runAlu (wUse f) f (subOp f) s
def execImul (f : Alu) (s : State) : Out := runAlu { kd := if mdW f then 2 else 1 } f (mulOp f) s
def execImad (f : Alu) (s : State) : Out := runAlu { kc := 1, kd := if mdW f then 2 else 1 } f (madOp f) s

def execIdiv (f : Alu) (s : State) : Out :=
  runAsync {} f false (fun _ _ => 20) (pureOp (fun a b _ => (divVal (mdU f) (lo32 a) (lo32 b)).setWidth 64)) s

def execIrem (f : Alu) (s : State) : Out :=
  runAsync {} f false (fun _ _ => 20) (pureOp (fun a b _ => (remVal (mdU f) (lo32 a) (lo32 b)).setWidth 64)) s

def execImin (f : Alu) (s : State) : Out := runAlu {} f (minOp f) s
def execImax (f : Alu) (s : State) : Out := runAlu {} f (maxOp f) s
def execIabs (f : Alu) (s : State) : Out := runAlu { kb := 0 } f (absOp f) s
def execIneg (f : Alu) (s : State) : Out := runAlu { kb := 0 } f (negOp f) s
def execAnd (f : Alu) (s : State) : Out := runAlu (wUse f) f (pureOp (fun a b _ => a &&& b)) s
def execOr (f : Alu) (s : State) : Out := runAlu (wUse f) f (pureOp (fun a b _ => a ||| b)) s
def execXor (f : Alu) (s : State) : Out := runAlu (wUse f) f (pureOp (fun a b _ => a ^^^ b)) s
def execNot (f : Alu) (s : State) : Out := runAlu { kb := 0 } f (pureOp (fun a _ _ => ~~~a)) s

/-- LUT3 reads its old destination; the immediate is the table, and b is not read (R150). -/
def execLut3 (f : Alu) (s : State) : Out :=
  perThread (aluOpnds { kb := 0, kc := 1, old := true } f) noIll (fun p t s =>
    let th := thrOf s t
    let tbl := match f.ext.immOf with | some v => v.toNat % 256 | none => 0
    let op : AluOp := pureOp (fun a _ c => (lut3Val tbl (lo32 a) (lo32 c) (regVal th f.dst.toNat)).setWidth 64)
    aluThread { kb := 0, kc := 1 } f op p t s) s

def execShl (f : Alu) (s : State) : Out := runAlu (wUse f) f (shlOp f) s
def execShr (f : Alu) (s : State) : Out := runAlu (wUse f) f (shrOp f) s
def execRotl (f : Alu) (s : State) : Out :=
  runAlu {} f (pureOp (fun a b _ => (rotlVal (lo32 a) (lo32 b)).setWidth 64)) s
def execBfe (f : Alu) (s : State) : Out :=
  runAlu {} f (pureOp (fun a b _ => (bfeVal (mdU f) (lo32 a) (lo32 b)).setWidth 64)) s
def execBfi (f : Alu) (s : State) : Out :=
  runAlu { kc := 1 } f (pureOp (fun a b c => (bfiVal (lo32 a) (lo32 b) (lo32 c)).setWidth 64)) s
def execPopc (f : Alu) (s : State) : Out :=
  runAlu { kb := 0 } f (pureOp (fun a _ _ => BitVec.ofNat 64 (popcVal (lo32 a)))) s
def execClz (f : Alu) (s : State) : Out :=
  runAlu { kb := 0 } f (pureOp (fun a _ _ => BitVec.ofNat 64 (clzFrom (lo32 a) 32))) s
def execBrev (f : Alu) (s : State) : Out :=
  runAlu { kb := 0 } f (pureOp (fun a _ _ => (brevVal (lo32 a)).setWidth 64)) s

/-- Without a prefix, c is 0 (R146). -/
def execBsel (f : Alu) (s : State) : Out :=
  runAlu { kc := 1 } f (pureOp (fun a b c =>
    (bselVal (lo32 a) (lo32 b) (if f.ext.pfxOf.isSome then lo32 c else 0#32)).setWidth 64)) s

def execCmp (f : Alu) (s : State) : Out :=
  runAlu { kbit := 1 } f (pureOp (fun a b _ => BitVec.ofNat 64 (b2n (cmpHolds f.md.toNat (lo32 a) (lo32 b))))) s

/-- BOP reads bits: SA and SB are bit references (R151). -/
def bitRef (x : BitVec 10) : Nat × Nat := (x.toNat % 32, x.toNat / 32)

def execBop (f : Alu) (s : State) : Out :=
  let o : Opnds :=
    { aluOpnds { ka := 0, kb := 0, kbit := 1 } f with
      srcs := [((bitRef f.sa).1, f.ta), ((bitRef f.sb).1, f.tb)] }
  perThread o noIll (fun p t s =>
    let th := thrOf s t
    let bit := fun (x : BitVec 10) => (regVal th (bitRef x).1).getLsbD (bitRef x).2
    let op : AluOp := pureOp (fun _ _ _ => BitVec.ofNat 64 (b2n (bopVal f.md.toNat (bit f.sa) (bit f.sb))))
    aluThread { ka := 0, kb := 0, kbit := 1 } f op p t s) s

def execLea (f : Alu) (s : State) : Out :=
  runAlu { ka := 2, kd := 2 } f (pureOp (fun a b _ => a + ((lo32 b).signExtend 64 <<< f.md.toNat))) s

/-- An RNG form: one step for each value (R122). -/
def execRng (f : Alu) (s : State) : Out :=
  runAlu { ka := 0, kb := 0 } f (fun th _ _ _ =>
    { val := (rngOut (rngNext th.rng)).setWidth 64, rng := rngNext th.rng }) s

def execRngF (f : Alu) (s : State) : Out :=
  runAlu { ka := 0, kb := 0 } f (fun th _ _ _ =>
    { val := (unitFloat (rngOut (rngNext th.rng))).setWidth 64, rng := rngNext th.rng }) s

def execRngW (f : Alu) (s : State) : Out :=
  runAlu { ka := 0, kb := 0, kd := 2 } f (fun th _ _ _ =>
    { val := cat32 (rngOut (rngNext (rngNext th.rng))) (rngOut (rngNext th.rng)), rng := rngNext (rngNext th.rng) }) s

def execRngseed (f : Alu) (s : State) : Out :=
  runAlu { ka := 2, kb := 0, kd := 0 } f (fun _ a _ _ => { val := 0#64, rng := a }) s

def execRngseedMix (f : Alu) (s : State) : Out :=
  runAlu { ka := 2, kd := 0 } f (fun _ a b _ =>
    { val := 0#64, rng := fmix64 (a ^^^ ((lo32 b).setWidth 64 * 0x9E3779B97F4A7C15#64)) }) s

/-- The write of an asynchronous result (R129): the register becomes full, and the flags are ORed in. A thread that waited
for it goes on. A return to a thread that has exited is discarded (R165), and its slot may now be free. -/
def writeAsync (s : State) (a : Async) : State :=
  match (thrOf s a.thr).stat with
  | .exited => schedule s s.now (.threadSlotFree a.thr)
  | _ =>
    let s := modThr s a.thr (fun th => { putReg th a.dst a.val with fpc := raiseFlags th.fpc a.flags })
    match (thrOf s a.thr).stat with
    | .waiting .result => makeReady s a.thr
    | _ => unpark s a.thr

/-- Returns are held while the quad stands in a ratio stop (R19), and while the registers move (R133). -/
def returnHeld (s : State) (t : ThrRef) : Bool :=
  (quadOf s (coreQuad (thrCore s t))).stopUntil.isSome || (thrOf s t).res == .movingOut || (thrOf s t).res == .recalling

/-- Keeps a return where it is held. -/
def holdReturn (s : State) (t : ThrRef) (id : Nat) : State :=
  if (quadOf s (coreQuad (thrCore s t))).stopUntil.isSome then
    modQuad s (coreQuad (thrCore s t)) (fun q => { q with heldReturns := q.heldReturns ++ [id] })
  else modThr s t (fun th => { th with held := th.held ++ [id] })

def execAsyncResultWrite (id : Nat) (s : State) : Out :=
  match tget s.asyncs id with
  | none => .next s
  | some a =>
    if returnHeld s a.thr then .next (holdReturn s a.thr id)
    else .next (writeAsync { s with asyncs := tdel id s.asyncs } a)

end Sys2Proof.Machine
end

