-- ==== Sys2Proof/Machine/Float.lean ====
section
/-! DEFINITION. Floating-point values and their rounding (R72 to R75, R88, R90, R92, R94), exact sums, products, quotients and
square roots (R154), minimum and maximum (R155), and comparison (R156). -/

namespace Sys2Proof.Machine

/-! ## Formats (R73) -/

/-- A floating-point format: exponent and mantissa widths, bias, the code of the largest finite value, whether it has
infinities, and its canonical NaN if it has NaNs. -/
structure FFmt where
  ew : Nat
  mw : Nat
  bias : Nat
  top : Nat
  inf : Bool
  nan : Option Nat
  deriving DecidableEq, Repr

def fp32 : FFmt := { ew := 8, mw := 23, bias := 127, top := 0x7F7FFFFF, inf := true, nan := some 0x7FC00000 }
def bf16 : FFmt := { ew := 8, mw := 7, bias := 127, top := 0x7F7F, inf := true, nan := some 0x7FC0 }
def fp16 : FFmt := { ew := 5, mw := 10, bias := 15, top := 0x7BFF, inf := true, nan := some 0x7E00 }
def e4m3 : FFmt := { ew := 4, mw := 3, bias := 7, top := 0x7E, inf := false, nan := some 0x7F }
def e5m2 : FFmt := { ew := 5, mw := 2, bias := 15, top := 0x7B, inf := true, nan := some 0x7E }
def e2m3 : FFmt := { ew := 2, mw := 3, bias := 1, top := 0x1F, inf := false, nan := none }
def e3m2 : FFmt := { ew := 3, mw := 2, bias := 3, top := 0x1F, inf := false, nan := none }
def e2m1 : FFmt := { ew := 2, mw := 1, bias := 1, top := 0x7, inf := false, nan := none }

/-- The sign bit of a format, and the code of its positive infinity. -/
def FFmt.sign (F : FFmt) : Nat := 2 ^ (F.ew + F.mw)
def FFmt.infCode (F : FFmt) : Nat := (2 ^ F.ew - 1) * 2 ^ F.mw
def FFmt.nanCode (F : FFmt) : Nat := F.nan.getD 0
/-- The exponent of the least bit of a subnormal. -/
def FFmt.emin (F : FFmt) : Int := 1 - (F.bias : Int) - F.mw

/-- A value read from a code: a NaN, an infinity, or m × 2^e with a sign. -/
inductive FVal where
  | nan (signalling : Bool)
  | inf (neg : Bool)
  | fin (neg : Bool) (m : Nat) (e : Int)
  deriving DecidableEq, Repr

/-- R74, R75. -/
def FFmt.read (F : FFmt) (code : Nat) : FVal :=
  let neg := code / F.sign % 2 == 1
  let x := code % F.sign
  let e := x / 2 ^ F.mw
  let m := x % 2 ^ F.mw
  if F.inf && x == F.infCode then .inf neg
  else if F.nan.isSome && decide (F.top < x) then .nan (decide (8 ≤ F.ew + F.mw) && m / 2 ^ (F.mw - 1) == 0 && decide (7 ≤ F.mw))
  else if e = 0 then .fin neg m F.emin
  else .fin neg (2 ^ F.mw + m) (F.emin + (e - 1))

def FFmt.put (F : FFmt) (neg : Bool) (mag : Nat) : Nat := mag + (if neg then F.sign else 0)

/-- A subnormal read under FTZ is a zero of its sign (R94). -/
def FFmt.readFtz (F : FFmt) (ftz : Bool) (code : Nat) : FVal :=
  match F.read code with
  | .fin neg m e => if ftz && decide (m < 2 ^ F.mw) then .fin neg 0 e else .fin neg m e
  | v => v

/-! ## Rounding (R88, R90, R94) -/

/-- Rounding modes, by the codes of R41. -/
def rcRNE : Nat := 1
def rcRZ : Nat := 2
def rcRU : Nat := 3
def rcRD : Nat := 4
def rcRNA : Nat := 5
def rcSR : Nat := 6

/-- An exact nonzero magnitude: (m + δ) × 2^e with 0 < δ < 1 when `sticky`, else δ = 0. -/
structure Exact where
  neg : Bool
  m : Nat
  e : Int
  sticky : Bool := false
  deriving DecidableEq, Repr

/-- Whether the magnitude q + (r + δ)/2^k rounds up to q + 1 (R88). With `sticky`, k is at least 32 wherever the mode is
SR. -/
def roundsUp (rc : Nat) (neg : Bool) (q r k : Nat) (sticky : Bool) (u : Nat) : Bool :=
  let inexact := r != 0 || sticky
  match rc with
  | 1 => decide (2 ^ k < 2 * r) || (2 * r == 2 ^ k && (sticky || q % 2 == 1))
  | 2 => false
  | 3 => inexact && !neg
  | 4 => inexact && neg
  | 5 => decide (2 ^ k ≤ 2 * r) && inexact
  | _ => decide (u * 2 ^ k < r * 2 ^ 32) || (sticky && u * 2 ^ k == r * 2 ^ 32)

/-- The magnitude of `x` in units of 2^lsb, rounded, and whether that is inexact. -/
def roundAt (rc : Nat) (x : Exact) (lsb : Int) (u : Nat) : Nat × Bool :=
  if lsb ≤ x.e then (x.m * 2 ^ (x.e - lsb).toNat, x.sticky)
  else
    let k := (lsb - x.e).toNat
    let q := x.m / 2 ^ k
    let r := x.m % 2 ^ k
    (if roundsUp rc x.neg q r k x.sticky u then q + 1 else q, r != 0 || x.sticky)

/-- The exponent of the leading bit. -/
def Exact.top (x : Exact) : Int := Nat.log2 x.m + x.e

/-- The code of a rounded magnitude, with the exponent unbounded above, and whether it is inexact and tiny. Tininess is
detected after rounding (R90): as rounded with an exponent unbounded below, it lies under the smallest normal. -/
def FFmt.roundMag (F : FFmt) (rc : Nat) (x : Exact) (u : Nat) : Nat × Bool × Bool :=
  let free := x.top - F.mw
  let lsb := if free < F.emin then F.emin else free
  let r := roundAt rc x lsb u
  let tiny := decide (free < F.emin) && (
    let f := roundAt rc x free u
    decide (free < F.emin - 1) || decide (f.1 < 2 ^ (F.mw + 1)))
  ((lsb - F.emin).toNat * 2 ^ F.mw + r.1, r.2, tiny)

/-- The overflowed result of R90. -/
def FFmt.overflow (F : FFmt) (rc : Nat) (sat neg : Bool) : Nat :=
  let big := F.inf && !sat && (rc == 1 || rc == 5 || rc == 6 || (rc == 3 && !neg) || (rc == 4 && neg))
  F.put neg (if big then F.infCode else F.top)

/-- RoundTo (R54): the code and the flags. -/
def FFmt.round (F : FFmt) (rc : Nat) (sat ftz : Bool) (u : Nat) (x : Exact) : Nat × FpFlags :=
  let (code, inexact, tiny) := F.roundMag rc x u
  if F.top < code then (F.overflow rc sat x.neg, flOF ||| flNX)
  else if ftz && decide (0 < code ∧ code < 2 ^ F.mw) then (F.put x.neg 0, flUF ||| flNX)
  else (F.put x.neg code, (if inexact then flNX else flNone) ||| (if tiny && inexact then flUF else flNone))

/-! ## Results of operations -/

/-- The exact result of an operation, before rounding. -/
inductive FRes where
  | nan (fl : FpFlags)
  | inf (neg : Bool) (fl : FpFlags)
  | zero (neg : Bool)
  | exact (x : Exact)
  deriving DecidableEq, Repr

def FFmt.finish (F : FFmt) (rc : Nat) (sat ftz : Bool) (u : Nat) (fl : FpFlags) : FRes → Nat × FpFlags
  | .nan g => (F.nanCode, fl ||| g)
  | .inf neg g => (F.put neg F.infCode, fl ||| g)
  | .zero neg => (F.put neg 0, fl)
  | .exact x => let r := F.round rc sat ftz u x; (r.1, fl ||| r.2)

/-- A signalling NaN input raises NV (R75). -/
def sigFlag : List FVal → FpFlags
  | [] => flNone
  | .nan true :: r => flNV ||| sigFlag r
  | _ :: r => sigFlag r

def isNan : FVal → Bool | .nan _ => true | _ => false

/-- A signed exact term. -/
structure Term where
  neg : Bool
  m : Nat
  e : Int
  deriving DecidableEq, Repr

/-- The exact sum of terms, in units of 2^e0. -/
def sumAt (e0 : Int) (ts : List Term) : Int :=
  ts.foldl (fun a t => a + (if t.neg then -((t.m * 2 ^ (t.e - e0).toNat : Nat) : Int) else ((t.m * 2 ^ (t.e - e0).toNat : Nat) : Int))) 0

def minExp : List Term → Int
  | [] => 0
  | [t] => t.e
  | t :: r => min t.e (minExp r)

/-- An exact sum, with the sign of an exact zero under R154. -/
def sumTerms (rc : Nat) (ts : List Term) : FRes :=
  let e0 := minExp ts
  let s := sumAt e0 ts
  if s = 0 then
    match ts with
    | [] => .zero false
    | t :: r => if (t :: r).all (fun x => x.m == 0 && x.neg == t.neg) then .zero t.neg else .zero (rc == rcRD)
  else .exact { neg := decide (s < 0), m := s.natAbs, e := e0 }

/-- A product of finite values as a term. -/
def mulTerm : FVal → FVal → Term
  | .fin n1 m1 e1, .fin n2 m2 e2 => { neg := n1 != n2, m := m1 * m2, e := e1 + e2 }
  | _, _ => { neg := false, m := 0, e := 0 }

def negOf : FVal → Bool | .nan _ => false | .inf n => n | .fin n _ _ => n
def isZeroVal : FVal → Bool | .fin _ 0 _ => true | _ => false
def isInfVal : FVal → Bool | .inf _ => true | _ => false

/-- A product among the addends of a sum: its sign if it is infinite, or invalid (0 × ∞). -/
inductive Prod where
  | bad
  | inf (neg : Bool)
  | term (t : Term)

def prodOf (a b : FVal) : Prod :=
  if (isZeroVal a && isInfVal b) || (isInfVal a && isZeroVal b) then .bad
  else if isInfVal a || isInfVal b then .inf (negOf a != negOf b)
  else .term (mulTerm a b)

def addendOf (c : FVal) : Prod :=
  match c with
  | .inf n => .inf n
  | .fin n m e => .term { neg := n, m := m, e := e }
  | .nan _ => .bad

def prodBad : Prod → Bool | .bad => true | _ => false
def prodInf : Prod → Option Bool | .inf n => some n | _ => none
def prodTerm : Prod → Option Term | .term t => some t | _ => none

/-- The sum of products and an addend c (R154): NaN inputs, invalid cases, infinities, then the exact sum. Two infinite products of opposite
sign raise no NV where c is a quiet NaN: R154 says only of 0 × ∞ that it raises NV there (DESIGN CHOICE, log entry 87). -/
def sumProds (rc : Nat) (ins : List FVal) (ps : List (FVal × FVal)) (c : Option FVal) : FRes :=
  let sig := sigFlag ins
  let qs := ps.map (fun x => if isNan x.1 || isNan x.2 then Prod.term { neg := false, m := 0, e := 0 } else prodOf x.1 x.2)
  let bad := qs.any prodBad
  if bad then .nan flNV
  else if ins.any isNan then .nan sig
  else
    let all := qs ++ (match c with | some v => [addendOf v] | none => [])
    match all.filterMap prodInf with
    | n :: r => if r.any (· != n) then .nan flNV else .inf n flNone
    | [] => sumTerms rc (all.filterMap prodTerm)

def addRes (rc : Nat) (a b : FVal) : FRes :=
  if isNan a || isNan b then .nan (sigFlag [a, b])
  else match a, b with
    | .inf n, .inf n' => if n = n' then .inf n flNone else .nan flNV
    | .inf n, _ => .inf n flNone
    | _, .inf n => .inf n flNone
    | .fin n m e, .fin n' m' e' => sumTerms rc [{ neg := n, m := m, e := e }, { neg := n', m := m', e := e' }]
    | _, _ => .zero false

def negate : FVal → FVal
  | .nan x => .nan x
  | .inf n => .inf (!n)
  | .fin n m e => .fin (!n) m e

def mulRes (a b : FVal) : FRes :=
  if isNan a || isNan b then .nan (sigFlag [a, b])
  else match prodOf a b with
    | .bad => .nan flNV
    | .inf n => .inf n flNone
    | .term t => if t.m = 0 then .zero t.neg else .exact { neg := t.neg, m := t.m, e := t.e }

/-- A quotient with at least 99 bits. -/
def quotExact (neg : Bool) (m1 : Nat) (e1 : Int) (m2 : Nat) (e2 : Int) : Exact :=
  let k := 100 + Nat.log2 m2
  { neg := neg, m := m1 * 2 ^ k / m2, e := e1 - e2 - k, sticky := m1 * 2 ^ k % m2 != 0 }

def divRes (a b : FVal) : FRes :=
  let n := negOf a != negOf b
  if isNan a || isNan b then .nan (sigFlag [a, b])
  else match a, b with
    | .inf _, .inf _ => .nan flNV
    | .inf _, _ => .inf n flNone
    | _, .inf _ => .zero n
    | .fin _ m e, .fin _ m' e' =>
      if m' = 0 then (if m = 0 then .nan flNV else .inf n flDZ)
      else if m = 0 then .zero n
      else .exact (quotExact n m e m' e')
    | _, _ => .nan flNone

/-- The integer square root, one bit at a time from bit `k - 1` down. -/
def isqrtFrom (n : Nat) : Nat → Nat → Nat
  | 0, r => r
  | k + 1, r => isqrtFrom n k (if (r + 2 ^ k) * (r + 2 ^ k) ≤ n then r + 2 ^ k else r)

def isqrt (n : Nat) : Nat := isqrtFrom n (Nat.log2 n / 2 + 1) 0

/-- The square root of m × 2^e with at least 100 bits. -/
def sqrtExact (m : Nat) (e : Int) : Exact :=
  let k : Nat := 200
  let odd := e % 2 == 1
  let m' := (if odd then 2 * m else m) * 2 ^ k
  let e' := (if odd then e - 1 else e) - k
  let r := isqrt m'
  { neg := false, m := r, e := e' / 2, sticky := r * r != m' }

def sqrtRes (a : FVal) : FRes :=
  match a with
  | .nan s => .nan (if s then flNV else flNone)
  | .inf n => if n then .nan flNV else .inf false flNone
  | .fin n m e => if m = 0 then .zero n else if n then .nan flNV else .exact (sqrtExact m e)

/-! ## Order (R155, R156) -/

/-- The order of numbers, −0 equal to +0: whether a < b. -/
def ltVal (a b : FVal) : Bool :=
  match a, b with
  | .nan _, _ => false
  | _, .nan _ => false
  | .inf n, .inf n' => n && !n'
  | .inf n, _ => n
  | _, .inf n => !n
  | .fin n m e, .fin n' m' e' =>
    let e0 := min e e'
    decide (sumAt e0 [{ neg := n, m := m, e := e }] < sumAt e0 [{ neg := n', m := m', e := e' }])

def eqVal (a b : FVal) : Bool := !isNan a && !isNan b && !ltVal a b && !ltVal b a

/-- minimumNumber and maximumNumber over codes (R155), with the values as read. -/
def FFmt.pick (F : FFmt) (ftz mx : Bool) (x y : Nat) : Nat × FpFlags :=
  let a := F.readFtz ftz x
  let b := F.readFtz ftz y
  let out := fun (v : FVal) (c : Nat) => match v with
    | .fin n 0 _ => F.put n 0
    | _ => c
  let fl := sigFlag [a, b]
  if isNan a && isNan b then (F.nanCode, fl)
  else if isNan a then (out b y, fl)
  else if isNan b then (out a x, fl)
  else
    let aFirst := ltVal a b || (eqVal a b && (negOf a || !negOf b))
    if aFirst != mx then (out a x, fl) else (out b y, fl)

/-- The conditions of FCMP (R156): whether it holds, and NV. -/
def fcmpHolds (cond : Nat) (a b : FVal) : Bool × FpFlags :=
  let un := isNan a || isNan b
  let fl := if 2 ≤ cond && cond ≤ 5 && un then flNV else sigFlag [a, b]
  (match cond with
   | 0 => eqVal a b
   | 1 => !eqVal a b
   | 2 => ltVal a b
   | 3 => !un && !ltVal b a
   | 4 => ltVal b a
   | 5 => !un && !ltVal a b
   | 6 => un
   | _ => !un, fl)

/-! ## Integers (R92) -/

/-- The rounded integer of a finite value, and whether it is inexact. -/
def roundInt (rc : Nat) (x : Exact) (u : Nat) : Int × Bool :=
  let r := roundAt rc x 0 u
  (if x.neg then -(r.1 : Int) else (r.1 : Int), r.2)

/-- A floating-point value to an integer of a width (R92). -/
def toInt (w : Nat) (un : Bool) (rc u : Nat) (a : FVal) : Int × FpFlags :=
  let lo : Int := if un then 0 else -(2 ^ (w - 1) : Nat)
  let hi : Int := if un then (2 ^ w : Nat) - 1 else (2 ^ (w - 1) : Nat) - 1
  match a with
  | .nan _ => (0, flNV)
  | .inf n => (if n then lo else hi, flNV)
  | .fin n m e =>
    if m = 0 then (0, flNone)
    else
      let (v, inexact) := roundInt rc { neg := n, m := m, e := e } u
      if v < lo then (lo, flNV) else if hi < v then (hi, flNV) else (v, if inexact then flNX else flNone)

/-- An integer as an exact value to round. -/
def intRes (v : Int) : FRes := if v = 0 then .zero false else .exact { neg := decide (v < 0), m := v.natAbs, e := 0 }

/-- A value as a result to round to another format. -/
def valRes (a : FVal) : FRes :=
  match a with
  | .nan s => .nan (if s then flNV else flNone)
  | .inf n => .inf n flNone
  | .fin n m e => if m = 0 then .zero n else .exact { neg := n, m := m, e := e }

end Sys2Proof.Machine
end

