-- ==== Sys2Proof/Machine/Xlate.lean ====
section
/-! DEFINITION. Translation (R386 to R393, R399, R24): the walk, its checks, the accessed and dirty bits, the TLBs, and the
checks 3 to 6 of R224 with R441 on a global access. -/

namespace Sys2Proof.Machine

/-- What a walk finds: a leaf, its level and its address, or why there is none (the CAUSE and LEVEL of R390). -/
inductive WalkOut where
  | leaf (e : Word64) (level entryAt : Nat)
  | absent (cause level : Nat)
  deriving DecidableEq, Repr

/-- A table must lie in HBM or in the pinned window (R386). -/
def tableOk (tab : Nat) : Bool := rangeOf tab == .hbm || rangeOf tab == .pinned

/-- The pairs of CONTRACT and TIER that R205 allows. -/
def pairOk (contract tier : Nat) : Bool :=
  match contract with
  | 0 => tier == 1 || tier == 2
  | 1 => tier == 1 || tier == 2
  | 2 => tier == 1
  | 3 => tier == 0
  | 4 => tier == 2
  | _ => false

/-- Whether a pinned-window byte is backed (R24, R204): its unit is pinned, and its change has drained. -/
def pinnedBacked (s : State) (pa : Nat) : Bool :=
  let t := pinnedTower pa
  let u := pinnedUnit pa
  spCode s t u == 2 && !((towerOf s t).busy && (towerOf s t).leaving.contains u)

/-- The state of a device in the fabric device table as it stands published: active (R434, R440). -/
def deviceUp (s : State) (d : Nat) : Bool := memNat s.mem (cellOf s s.topoBase + 0x3100 + 8 * d) 8 / 65536 % 4 == 0

/-- The device of a slot is active (R440). -/
def slotUp (s : State) (pa : Nat) : Bool := deviceUp s (slotDev s pa)

def fabricBacked (s : State) (pa : Nat) : Bool :=
  (slotReg s pa).getLsbD 63 && decide ((pa - fabBase) % fabSlot < hbmSize + pinSize)

/-- The frame checks of a leaf: causes 2, 3 and 4 of R390, in that order. A frame in system register space, which R23 decodes and
for which the manual names no cause, has cause 2 (DESIGN CHOICE, log entry 70). On a T1 the pinned window beyond tower 0's 3 GiB, of which R24
does not say whether it is decoded, is unbacked: cause 3 (DESIGN CHOICE, log entry 83). -/
def frameCause (s : State) (e : Word64) (pa : Nat) : Option Nat :=
  match rangeOf pa with
  | .none => some 2
  | .pinned => if !pinnedBacked s pa then some 3 else if pairOk (leafContract e) (leafTier e) && leafTier e == 0 then none else some 4
  | .hbm =>
    if isFar s pa && (homeDie s pa).isNone then some 2 else if pairOk (leafContract e) (leafTier e) && leafTier e == 1 then none else some 4
  | .host => if pairOk (leafContract e) (leafTier e) && leafTier e == 2 then none else some 4
  | .fabric =>
    if !fabricBacked s pa then some 3 else if pairOk (leafContract e) (leafTier e) && leafTier e == 2 then none else some 4

/-- A non-leaf entry with a reserved bit set (R387). -/
def tableEntryOk (e : Word64) : Bool := bits e 52 12 == 0 && bits e 2 11 == 0

/-- The checks of a leaf entry at a level (R388, R389), apart from TIER 3. -/
def leafForm (e : Word64) (level : Nat) : Bool :=
  2 ≤ level && bits e 23 5 == 0 && (level != 2 || (bits e 28 10 == 0 && !leafCow e))

/-- An entry of a table as its home holds it; of a table at another die's home, what the walk has read there (R389). A line that came
poisoned, or not at all, holds no valid entry (log entry 99). -/
def tableWord (s : State) (a : Nat) : Word64 :=
  if isFar s a then
    match farRead s (a / 128) with
    | some f => BitVec.ofNat 64 (leNat ((f.bytes.drop (a % 128)).take 8))
    | none => 0#64
  else BitVec.ofNat 64 (memNat s.mem (cellOf s a) 8)

/-- The walk from a table at level `lvl` (R389); `n` levels remain. -/
def walkFrom (s : State) (va : Nat) : Nat → Nat → Nat → WalkOut
  | 0, lvl, _ => .absent 5 (lvl - 1)
  | n + 1, lvl, tab =>
    if !tableOk tab then .absent 6 lvl
    else
      let entryAt := tab + va / 2 ^ (46 - 10 * lvl) % 1024 * 8
      let e := tableWord s entryAt
      if !leafV e then .absent 0 lvl
      else if !leafLeaf e then
        if lvl = 3 || !tableEntryOk e then .absent 5 lvl else walkFrom s va n (lvl + 1) (bits e 13 39 * 8192)
      else if !leafForm e lvl then .absent 5 lvl
      else if leafTier e = 3 then .absent 1 lvl
      else match frameCause s e (leafPa e lvl (va / 65536 * 65536)) with
        | some c => .absent c lvl
        | none => .leaf e lvl entryAt

/-- The walk of a context (R389). -/
def walk (s : State) (ctx va : Nat) : WalkOut :=
  let root := (ctxOf s ctx).ptroot
  if bits root 52 12 ≠ 0 ∨ bits root 0 13 ≠ 0 then .absent 7 0 else walkFrom s va 4 0 root.toNat

/-- The entries that a walk reads, for the recalls that reading them at their homes makes (R213). -/
def walkPath (s : State) (va : Nat) : Nat → Nat → Nat → List Nat
  | 0, _, _ => []
  | n + 1, lvl, tab =>
    if !tableOk tab then []
    else
      let entryAt := tab + va / 2 ^ (46 - 10 * lvl) % 1024 * 8
      let e := tableWord s entryAt
      entryAt :: (if leafV e && !leafLeaf e && lvl < 3 then walkPath s va n (lvl + 1) (bits e 13 39 * 8192) else [])

/-- Recalls spans on the way of a walk, entry by entry. -/
def walkTouch (s : State) (ctx va : Nat) : Nat → State
  | 0 => s
  | n + 1 =>
    let s := walkTouch s ctx va n
    match (walkPath s va 4 0 (ctxOf s ctx).ptroot.toNat)[n]? with
    | some a => if isFar s a then s else unitTouch s a 8
    | none => s

/-- The entries that a walk of a context has read so far. -/
def walkEntries (s : State) (ctx va : Nat) : List Nat := walkPath s va 4 0 (ctxOf s ctx).ptroot.toNat

/-- The first entry of a walk at another die's home that is still to be read there. -/
def farEntry (s : State) (ctx va : Nat) : Option Nat :=
  (walkEntries s ctx va).find? (fun a => isFar s a && (farRead s (a / 128)).isNone)

/-! ## TLBs (R392, R393) -/

/-- An entry of a context for a page: one of a large page serves all of it, under its first 64 KiB (R392). -/
def tlbFind (l : List TlbEntry) (ctx vpn : Nat) : Option TlbEntry :=
  l.find? (fun e => e.ctx == ctx && e.vpn == (if e.level = 2 then vpn / 1024 * 1024 else vpn))

def tlbPut (cap : Nat) (l : List TlbEntry) (e : TlbEntry) : List TlbEntry :=
  (e :: l.filter (fun x => !(x.ctx == e.ctx && x.vpn == e.vpn))).take cap

/-- Fills the L1 TLB of the core (64 entries) and the L2 TLB of its quad (2,048 entries). -/
def tlbFill (s : State) (core : Nat) (e : TlbEntry) : State :=
  modQuad (modCore s core (fun c => { c with tlb := tlbPut 64 c.tlb e })) (coreQuad core)
    (fun q => { q with tlb := tlbPut 2048 q.tlb e })

/-- Drops the entries of a context that meet `p`, on every core and quad. -/
def tlbDrop (s : State) (ctx : Nat) (p : Nat → Bool) : State :=
  let keep := fun (e : TlbEntry) => !(e.ctx == ctx && p e.vpn)
  { s with
    cores := (tmap (fun (c : Core) => { c with tlb := c.tlb.filter keep }) s.cores).filter (fun e => e.2 != {})
    quads := (tmap (fun (q : Quad) => { q with tlb := q.tlb.filter keep }) s.quads).filter (fun e => e.2 != {}) }

def tlbHit (s : State) (core ctx vpn : Nat) : Option TlbEntry :=
  match tlbFind (coreOf s core).tlb ctx vpn with
  | some e => some e
  | none => tlbFind (quadOf s (coreQuad core)).tlb ctx vpn

/-! ## The checks of an access (R224, R399, R441) -/

/-- What an access asks: reads, writes, executes; OWN, ATOM or RED; the KIND of its record; and whether it is part of a fully
coalesced store. -/
structure Acc where
  read : Bool := false
  write : Bool := false
  exec : Bool := false
  strict : Bool := false
  kind : Nat := 1
  full : Bool := false
  deriving DecidableEq, Repr

structure Xl where
  pa : Nat
  leaf : Word64
  level : Nat
  deriving DecidableEq, Repr

/-- A translation's answer: the physical address; a fault, after the recalls of the walk (R213) and, for LINK_DOWN, with the marks of
the entry set (R391, R441); or the page is being moved and the access is held (R409), as it is, under 0, while the walk waits for a module
on its way (R414), for the recall of a span (R429) or for another die's home. -/
inductive XOut where
  | ok (x : Xl) (s : State)
  | fault (f : Flt) (s : State)
  | held (move : Nat) (s : State)

/-- AUX of R390. -/
def xAux (share : Nat) (write : Bool) (level cause : Nat) : Nat :=
  cause + level * 2 ^ 8 + (if write then 2 ^ 10 else 0) + share * 2 ^ 16

/-- The page that an address lies in under a leaf of a level, by its first 64 KiB: a large page of 64 MiB, or a page. -/
def pageNo (level va : Nat) : Nat := if level = 2 then va / 2 ^ 26 * 1024 else va / 65536

def pageFlt (code : Nat) (wait : Bool) (va level : Nat) (a : Acc) (aux : Nat) : Flt :=
  { code := code, wait := wait, addr := BitVec.ofNat 64 va, aux := aux, kind := a.kind, page := some (pageNo level va) }

/-- Checks 4 to 6 of R224 on the entry found. -/
def leafFault (s : State) (e : Word64) (level va : Nat) (a : Acc) : Option Flt :=
  let pa := leafPa e level va
  if (a.read && !leafR e) || (a.write && !leafW e) || (a.exec && !leafX e) || (a.strict && leafContract e == 4) then
    some (pageFlt fPAGE_PERM false va level a (xAux 0 a.write level 0))
  else if a.write && leafCow e && decide (1 < shareOf s pa) then
    some (pageFlt fPAGE_COW true va level a (xAux (shareOf s pa) true level 0))
  else if framePoisoned s pa && !a.full then
    some (pageFlt fPOISON true va level a (xAux (shareOf s pa) a.write level 0))
  else none

/-- A leaf entry with A set, and for a write D set and COW clear (R391, R399). -/
def markedLeaf (e : Word64) (write : Bool) : Word64 :=
  let e' := e ||| (1#64 <<< 17)
  if write then (e' ||| (1#64 <<< 18)) &&& ~~~(1#64 <<< 19) else e'

/-- Sets A, D and clears COW for an access that passed, as one event at the entry's home (R391, R399). -/
def markLeaf (s : State) (e : Word64) (entryAt : Nat) (write : Bool) : Word64 × State :=
  let e' := markedLeaf e write
  if e' = e then (e, s) else (e', unitPutNat s entryAt 8 e'.toNat)

/-- The same at another die's home: an atomic OR, or an XOR where COW is to be cleared, after which the entry is read anew. -/
def markFar (s : State) (core : Option Nat) (e : Word64) (entryAt : Nat) (write : Bool) : State :=
  let e' := markedLeaf e write
  let op := if write && leafCow e then 7 else 6
  let part : Part := { thr := none, off := entryAt % 128, width := 8, val := (e ^^^ e').toNat }
  farAsk (dropFarReads s [entryAt / 128])
    { id := 0, kind := .atomic, core := core.getD 0, ctx := 0, line := entryAt / 128, parts := [part], aop := op, w64 := true, due := 0
      hub := core.isNone }

/-- A walk by a core waits while a module between its tower and the home of an entry is not ACTIVE (R414), for the recall of a span on an
entry (R213, R429), and every walk for what another die's home has not answered. -/
def walkHeld (s : State) (core : Option Nat) (ctx va : Nat) : Option State :=
  let es := walkEntries s ctx va
  let near := es.filter (fun a => !isFar s a)
  if core.any (fun c => near.any (fun a => !pathActive s (pathOf s (coreTower c) a 0#64))) then some s
  else match (if core.isSome then near.findSome? (fun a => askRecalls s (a / 128) (wordMask (a % 128) 8)) else none) with
    | some s => some s
    | none => (farEntry s ctx va).map (fun a => askFar s core (a / 128))

/-- The outcome of a walk for an access; a passing walk is kept in the TLBs of `core`, if one is given. -/
def walkFor (s : State) (core : Option Nat) (ctx va : Nat) (a : Acc) : XOut :=
  match walkHeld s core ctx va with
  | some s => .held 0 s
  | none =>
    let s := walkTouch s ctx va 4
    let used := (walkEntries s ctx va).map (· / 128)
    match walk s ctx va with
    | .absent cause level =>
      let leafAt := if 1 ≤ cause ∧ cause ≤ 4 then level else 3
      .fault (pageFlt fPAGE_NOTPRESENT true va leafAt a (xAux 0 a.write level cause)) (dropFarReads s used)
    | .leaf e level entryAt =>
      let s := touchRec s (leafPa e level va)
      match leafFault s e level va a with
      | some f => .fault f (dropFarReads s used)
      | none =>
        if isFar s entryAt && markedLeaf e a.write != e then .held 0 (markFar s core e entryAt a.write)
        else
          let r := markLeaf (dropFarReads s used) e entryAt a.write
          let s := match core with
            | some c => tlbFill r.2 c { ctx := ctx, vpn := pageNo level va, leaf := r.1, level := level, at' := entryAt }
            | none => r.2
          .ok { pa := leafPa r.1 level va, leaf := r.1, level := level } s

/-- Fields of a leaf without A and D. -/
def leafCore (e : Word64) : Word64 := e &&& ~~~(0x60000#64)

/-- Whether the TLB entry still says what the tables say. -/
def tlbFresh (s : State) (e : TlbEntry) (va : Nat) : Bool :=
  match walk s e.ctx va with
  | .leaf x level _ => leafCore x == leafCore e.leaf && level == e.level
  | .absent _ _ => false

/-- A page being moved holds every access that translates it (R409). -/
def movedPage (s : State) (ctx vpn : Nat) : Option Nat :=
  (s.moves.find? (fun e => e.2.kind == .move && decide (1 ≤ e.2.stage) && e.2.ctx == ctx && e.2.va / 65536 == vpn)).map (·.1)

/-- A translation. A stale TLB entry is used or not, as the free bit of the packet and page says (R393). A write through an
entry whose D is 0, or that says copy on write, walks again. -/
def translate (s : State) (core : Option Nat) (ctx va : Nat) (a : Acc) : XOut :=
  let vpn := va / 65536
  match movedPage s ctx vpn with
  | some m => .held m s
  | none =>
    match core with
    | none => walkFor s none ctx va a
    | some c =>
      match tlbHit s c ctx vpn with
      | none => walkFor s core ctx va a
      | some e =>
        if (!tlbFresh s e va && !Config.staleBit s.now c e.vpn) || (a.write && (!leafD e.leaf || leafCow e.leaf)) then
          walkFor s core ctx va a
        else
          let s := touchRec s (leafPa e.leaf e.level va)
          match leafFault s e.leaf e.level va a with
          | some f => .fault f s
          | none => .ok { pa := leafPa e.leaf e.level va, leaf := e.leaf, level := e.level } s

/-- R441: a fabric slot that is down, a failed integrator die, or the host window while the PCIe data link is down. -/
def linkDown (s : State) (pa : Nat) : Bool :=
  match rangeOf pa with
  | .fabric => !slotUp s pa
  | .hbm => isFar s pa && (match homeDie s pa with | some e => e.2.state != .active | none => true)
  | .host => !s.pcieUp
  | _ => false

/-- Checks 1 to 6 of R224 and R441 on a global address of a thread. -/
def checkGlobal (s : State) (core ctx : Nat) (va : Word64) (width : Nat) (a : Acc) : XOut :=
  if va.toNat % width ≠ 0 then .fault { code := fMISALIGN, addr := va, kind := a.kind } s
  else if 2 ^ 56 ≤ va.toNat then .fault { code := fPAGE_PERM, addr := va, kind := a.kind } s
  else match translate s (some core) ctx va.toNat a with
    | .ok x s =>
      if linkDown s x.pa then .fault { code := fLINK_DOWN, addr := va, kind := a.kind } s else .ok x s
    | r => r

end Sys2Proof.Machine
end

