-- ==== Sys2Proof/Machine/Access.lean ====
section
/-! DEFINITION. Accesses: the L1 (R211 to R217), requests and the homes that serve them (R213, R214, R221, R222, R228, R229),
returns, and the release and acquire actions (R236, R237). -/

namespace Sys2Proof.Machine

/-! ## Requests -/

/-- A store or an atomic, of which the endpoint of the host window takes charge once it has accepted it (R233). -/
def Req.posts (r : Req) : Bool := r.kind == .write || r.kind == .reduce || r.kind == .atomic

/-- A request to the host window that the endpoint has accepted and host memory has not yet seen. -/
def Req.accepted (r : Req) : Bool :=
  rangeOf (r.line * 128) == .host && r.performed
    && (r.kind == .write || r.kind == .reduce || (r.kind == .atomic && r.parts.any (fun p => p.got.isNone)))

/-- The latest tick at which an earlier request of the core to the line is served, or a store to it that the endpoint has accepted from
any core reaches host memory (R234, R241). -/
def lineFloor (s : State) (core line : Nat) : Nat :=
  s.reqs.foldl (fun a e =>
    if e.2.line == line && ((e.2.core == core && (!e.2.performed || e.2.posts)) || e.2.accepted) then max a e.2.serve else a) 0

/-- A request that has still to be served: not performed and not sent, or accepted by the endpoint and not yet in host memory. -/
def toServe (r : Req) : Bool := !r.out && (!r.performed || r.accepted)

/-- An earlier request of the core to the line has still to be served: a later one does not pass it (R234). -/
def servedAfter (s : State) (r : Req) : Bool :=
  s.reqs.any (fun e => e.2.core == r.core && e.2.line == r.line && decide (e.2.order < r.order) && e.2.due != 0 && toServe e.2)

/-- The latency of a request (R25, R26). -/
def reqNs (s : State) (r : Req) : Nat :=
  match r.kind with
  | .write => writeNs s (coreTower r.core) (r.line * 128) r.leaf
  | .writeBack => backNs s (coreTower r.core) (r.line * 128) r.leaf
  | _ => latencyNs s (coreTower r.core) (r.line * 128) r.leaf

/-- The KIND code of a request (R417). -/
def kindCode (r : Req) : Nat :=
  match r.kind with
  | .read => 0
  | .own => 1
  | .uc => 2
  | .write => 3
  | .writeBack => 4
  | .atomic => 5
  | .reduce => 6
  | .prefetch => if r.aop = 2 then 1 else if r.aop = 3 then 2 else 0
  | .arm => 7
  | .disarm => 8

/-- The part of an atomic or a reduction that is to be sent next; a requester keeps one request outstanding (R417). -/
def nextPart? (r : Req) : Option Part := r.parts.find? (fun p => p.got.isNone)

/-- No more than one part is still to be sent. -/
def lastPart (r : Req) : Bool := decide ((r.parts.filter (fun p => p.got.isNone)).length ≤ 1)

/-- The message of a fabric request goes out: the request, and its bytes in a data message of the same tag (R417, R440). The
bytes of an atomic are its operand, and after it the new value of a CAS (log entry 24). A store is performed once the
port has accepted it, and an atomic or reduction of several threads once it has accepted the last of them; at an integrator's die they
are performed at that home (R233). -/
def sendOut (s : State) (r : Req) : State :=
  let dev := farAgent s (r.line * 128)
  let line := farLine r.line
  let op := match nextPart? r with
    | some p => (wordMask p.off p.width, p.off, leBytes p.val p.width ++ (if r.aop = 9 then leBytes p.nv p.width else []))
    | none => (0#32, 0, [])
  let words := if r.kind = .arm then 0#32 else if r.kind = .atomic ∨ r.kind = .reduce then op.1 else if r.parts.isEmpty then 0xFFFFFFFF#32
    else if r.fetched = 0#32 then reqWords r else r.fetched
  let data := fun (tag : Nat) => (match r.kind with
    | .write | .writeBack => [.data dev r.core tag line r.mask (bufReadN r.data 0 128)]
    | .atomic | .reduce => [.data dev r.core tag line (bytesOf op.1) (bufReadN (bufWriteN [] op.2.1 op.2.2) 0 128)]
    | _ => [] : List Sent)
  let tag := (freeTag s r.core).getD 0
  { s with
    reqs := tput r.id { r with
      out := true, tag := tag
      performed := r.performed || (rangeOf (r.line * 128) == .fabric && (r.kind == .write || (r.posts && lastPart r))) } s.reqs
    sent := s.sent ++ [.request dev r.core tag line (kindCode r) words (if r.kind = .write then 0 else r.aop) r.w64] ++ data tag }

/-- Whether the PCIe endpoint accepts a store or an atomic to the host window as it is sent: no earlier request of the core to the line
and no span stands before it, and every module on its way is ready (R213, R233, R234). -/
def takenAtOnce (s : State) (r : Req) : Bool :=
  r.posts && rangeOf (r.line * 128) == .host && !servedAfter s r && (remoteSpans s r.line (reqWords r)).isEmpty
    && pathReady s (reqPath s r) (outChans r) (if r.kind == .atomic then [] else backChans r)

/-- What the endpoint's acceptance of a request does: spans are recalled, and its messages cross the package. -/
def acceptHost (s : State) (r : Req) : State :=
  let s := countOut (recallLocal s r.line (reqWords r) none) r
  if r.kind == .atomic then s else countIn s r

/-- Sends a request to its home. It returns after its latency and a free delay, and is served at a free moment before that; a
write-back is performed after the whole of its latency (R26). A store or an atomic to the host window is performed once accepted
(R233), and a fabric request goes out as a message. -/
def launch (s : State) (r : Req) : State :=
  let c1 := Config.contention s.fresh
  let c2 := Config.contention (s.fresh + 1)
  let s := { s with fresh := s.fresh + 2 }
  let lat := reqNs s r * nsTicks + c1
  let fab := isFar s (r.line * 128)
  let early := if r.kind = .writeBack then 0 else min c2 lat
  let serve := max (lineFloor s r.core r.line) (if fab then s.now else s.now + (lat - early))
  let r := { r with due := max (s.now + lat) serve, serve := serve, order := s.fresh }
  let taken := takenAtOnce s r
  let s := if taken then acceptHost s r else s
  schedule { s with reqs := tput r.id { r with performed := taken } s.reqs } serve (serveEvent r)

/-! ## The L1 -/

/-- A line's use under a context's virtual line, for covered sets (log entry 14). -/
def addAlias (l : L1Line) (ctx vline : Nat) (leaf : Word64) : L1Line :=
  { l with vls := if l.vls.contains (ctx, vline) then l.vls else (ctx, vline) :: l.vls, leaf := leaf }

/-- The uses that a request makes of its line. -/
def addUses (l : L1Line) (r : Req) : L1Line := r.vls.foldr (fun v l => addAlias l v.1 v.2 r.leaf) l

/-- The fill of an owner span: its words alone (R213). -/
def l1Own (l : L1Line) (run : BitVec 32) (line : List Byte) : L1Line :=
  let bytes := bytesOf run &&& ~~~l.dirty
  let data := (List.range 128).foldl (fun d i => if bytes.getLsbD i then bufWrite d i (line.getD i 0#8) else d) l.data
  { l with valid := l.valid ||| run, data := data, expiry := none }

/-- Later stores of the core to the home: copies fetched by requests whose fill has not come do not keep those words (R214). -/
def spoil (s : State) (core line : Nat) (words : BitVec 32) : State :=
  { s with reqs := tmap (fun r =>
      if r.core == core && r.line == line && (r.kind == .read || r.kind == .prefetch) then
        { r with nokeep := r.nokeep ||| words } else r) s.reqs }

/-- The valid words of a covered set leave L1: a copy that its home has answered, or another device's home may have, and whose fill is
still to come, is not kept (R237, R241). -/
def spoilCopies (s : State) (core : Nat) (p : Req → Bool) : State :=
  { s with reqs := tmap (fun r =>
      if r.core == core && (r.performed || r.out) && (r.kind == .read || r.kind == .prefetch) && p r then
        { r with nokeep := 0xFFFFFFFF#32 } else r) s.reqs }

/-- Starts the write-back of the dirty bytes of a line under a byte mask, and clears their dirty bits (R212, R26). -/
def startWriteBack (s : State) (core line : Nat) (m : BitVec 128) : State :=
  let l := l1Of s core line
  let d := l.dirty &&& m
  if d = 0#128 then s
  else
    let (id, s) := newId s
    let data := (maskedBytes l.data d).foldl (fun acc x => bufWrite acc x.1 x.2) []
    let vl := match l.vls with | x :: _ => x | [] => (0, 0)
    let r : Req :=
      { id := id, kind := .writeBack, core := core, ctx := vl.1, line := line, vls := l.vls, parts := [], mask := d,
        data := data, due := 0, leaf := l.leaf, writers := l.writers }
    launch (modL1 (spoil s core line 0xFFFFFFFF#32) core line (fun l =>
      { l with dirty := l.dirty &&& ~~~m, writers := if l.dirty &&& ~~~m = 0#128 then [] else l.writers })) r

/-- Writes back and drops words of a line. -/
def flushWords (s : State) (core line : Nat) (words : BitVec 32) : State :=
  modL1 (startWriteBack s core line (bytesOf words)) core line (fun l => l1Drop l words)

/-- Returns the spans that a core owns on a line to the home: the words leave L1, and the home gives the spans up once their dirty
bytes, and those written back before, have reached it (R213, R26). -/
def returnSpans (s : State) (core line : Nat) : State :=
  let mine := s.spans.filter (fun x => x.line == line && spanOf (some (coreAgent core, core)) x)
  if isFar s (line * 128) then mine.foldl recallSpan s
  else
    let l := l1Of s core line
    let words := mine.foldl (fun m x => m ||| x.words) l.own
    let d := l.dirty &&& bytesOf words
    let t := modL1 s core line (fun l => l1Drop l words)
    if d = 0#128 ∧ (backsOut s core line).isEmpty then
      { t with spans := t.spans.filter (fun x => !(x.line == line && spanOf (some (coreAgent core, core)) x)) }
    else
      let (id, t) := newId t
      let r : Req :=
        { id := id, kind := .writeBack, core := core, ctx := (l.vls.headD (0, 0)).1, line := line, vls := l.vls, parts := [], mask := d
          data := (maskedBytes l.data d).foldl (fun acc x => bufWrite acc x.1 x.2) [], due := 0, leaf := l.leaf, writers := l.writers
          gives := words }
      launch t r

/-- A request of one kind to a line that holds the other first writes back and drops what is held (R212). -/
def dropOther (s : State) (core line : Nat) (own : Bool) : State :=
  let l := l1Of s core line
  if own then (if l.own = 0#32 then flushWords s core line 0xFFFFFFFF#32 else s)
  else if l.own = 0#32 then s else returnSpans s core line

/-- A line leaves the core's L1: its span returns to the home, or its dirty bytes are written back (R217, R232). -/
def dropLine (s : State) (core line : Nat) : State :=
  if (l1Of s core line).own = 0#32 then flushWords s core line 0xFFFFFFFF#32 else returnSpans s core line

/-- The lines of an L1 of 128 KiB (R15). -/
def l1Lines : Nat := 1024

/-- Room in the L1 for a line that it does not hold: when it is full, some line is evicted (R15, R217; which one is free). -/
def makeL1Room (s : State) (core line : Nat) : State :=
  let ls := (coreOf s core).l1
  if (tget ls line).isSome || decide (ls.length < l1Lines) then s
  else
    let (k, s) := newFresh s
    match ls[Config.victim k % ls.length]? with
    | some e => dropLine s core e.1
    | none => s

/-- The tag check (R211, R213, R216): every word touched is valid and unexpired, or owned. -/
def l1Hit (s : State) (l : L1Line) (words : BitVec 32) (own : Bool) : Bool :=
  words &&& ~~~l.own == 0#32
    || (!own && l.own == 0#32 && words &&& ~~~l.valid == 0#32 && (match l.expiry with | some e => decide (s.now < e) | none => true))

/-- Words all of whose bytes are dirty. -/
def dirtyWords (l : L1Line) : BitVec 32 :=
  (List.range 32).foldl (fun a i => if (l.dirty.extractLsb' (4 * i) 4) = 0xF#4 then a ||| (1#32 <<< i) else a) 0#32

/-- Bytes stored into the line and marked dirty; a word wholly filled or dirty is valid (R212). Words that stores alone have made valid
have no fill and so no lease of R215: they do not expire (DESIGN CHOICE, log entry 88). -/
def l1Store (l : L1Line) (off : Nat) (bs : List Byte) : L1Line :=
  let m : BitVec 128 := BitVec.ofNat 128 ((2 ^ bs.length - 1) * 2 ^ off)
  let l := { l with dirty := l.dirty ||| m, data := bufWriteN l.data off bs }
  { l with valid := l.valid ||| dirtyWords l }

/-- Bytes of valid words replaced by a write-through store, which leaves them clean (R211). -/
def l1Through (l : L1Line) (off : Nat) (bs : List Byte) : L1Line :=
  let m : BitVec 128 := BitVec.ofNat 128 ((2 ^ bs.length - 1) * 2 ^ off)
  if l.valid &&& wordMask off bs.length = 0#32 ∧ l.dirty &&& m = 0#128 then l
  else { l with dirty := l.dirty &&& ~~~m, data := bufWriteN l.data off bs }

/-- A fill: the words fetched, without their dirty bytes; one fetch time for all, so that clean words that came by another fill
meanwhile are dropped (R212, R217). -/
def l1Fill (l : L1Line) (words : BitVec 32) (line : List Byte) (expiry : Option Nat) : L1Line :=
  let bytes := bytesOf words &&& ~~~l.dirty
  let data := (List.range 128).foldl (fun d i => if bytes.getLsbD i then bufWrite d i (line.getD i 0#8) else d) l.data
  { l with valid := words ||| dirtyWords l, data := data, expiry := expiry }

/-! ## Joining the accesses of a packet -/

/-- The request of this packet for the line, of the kind, not yet sent. -/
def openReq (s : State) (p : Packet) (kind : ReqKind) (line aop : Nat) : Option Req :=
  (s.reqs.find? (fun e => decide (p.base ≤ e.1) && e.2.due == 0 && e.2.kind == kind && e.2.line == line
    && e.2.aop == aop && e.2.core == p.core)).map (·.2)

/-- Adds a thread's part to the packet's request for its line (R212, R221), and answers the request's id. -/
def joinReq (s : State) (p : Packet) (kind : ReqKind) (x : Xl) (va : Nat) (part : Part) (aop : Nat) (w64 : Bool)
    (lease : Option (Option Nat)) : Nat × State :=
  match openReq s p kind (x.pa / 128) aop with
  | some r =>
    let v := (r.ctx, va / 128)
    let vls := if r.vls.contains v then r.vls else r.vls ++ [v]
    (r.id, { s with reqs := tput r.id { r with parts := r.parts ++ [part], vls := vls } s.reqs })
  | none =>
    let (id, s) := newId s
    let c := (teamOf s p.team).ctx
    let r : Req :=
      { id := id, kind := kind, core := p.core, ctx := c, line := x.pa / 128, vls := [(c, va / 128)],
        parts := [part], aop := aop, w64 := w64, lease := lease, due := 0, leaf := x.leaf }
    (id, { s with reqs := tput id r s.reqs })

/-- Adds stored bytes to the packet's write for the line, in ascending home lane. -/
def joinWrite (s : State) (p : Packet) (x : Xl) (va : Nat) (part : Part) (bs : List Byte) (aop : Nat) : State :=
  let (id, s) := joinReq s p .write x va part aop false none
  let off := x.pa % 128
  { s with reqs := tmod id (fun r =>
      { r with mask := r.mask ||| BitVec.ofNat 128 ((2 ^ bs.length - 1) * 2 ^ off), data := bufWriteN r.data off bs }) s.reqs }

/-! ## Values -/

/-- The value of a load of `width` bytes for its registers, extended under SX (R223). -/
def loadVal (raw width : Nat) (sx : Bool) : Nat :=
  if sx && width < 4 && decide (2 ^ (8 * width - 1) ≤ raw) then raw + 2 ^ 32 - 2 ^ (8 * width) else raw

def valRegs (v : Nat) : Nat → List Word32
  | 0 => []
  | k + 1 => BitVec.ofNat 32 v :: valRegs (v / 2 ^ 32) k

def partRegs (width : Nat) : Nat := if width ≤ 4 then 1 else width / 4

/-- The value each part reads from the bytes of its line, with its poison. -/
def partsFrom (s : State) (line : Nat) (bytes : List Byte) (poison : Bool) (ps : List Part) : List Part :=
  ps.map (fun p =>
    { p with got := some (leNat ((bytes.drop p.off).take p.width), poison && poisoned s line (wordMask p.off p.width)) })

/-! ## New values of atomics (R228) -/

/-- BARW.ARRIVE on a barrier word (R291): PH in bit 63, EXPW in bits 47:32, CNT in bits 31:0. -/
def barwStep (w : Nat) : Nat :=
  let cnt := w % 2 ^ 32
  if w / 2 ^ 32 % 2 ^ 16 ≤ cnt + 1 then (w ^^^ 2 ^ 63) - cnt else w + 1

/-- The operations of ATOM and RED by code; 13 is the step of BARW.ARRIVE, 14 the write of BARW.INIT. -/
def atomVal (aop w old b nv : Nat) : Nat :=
  let s := fun (x : Nat) => (if 2 ^ (w - 1) ≤ x then (x : Int) - (2 ^ w : Nat) else (x : Int))
  match aop with
  | 0 => (old + b) % 2 ^ w
  | 1 => if s old ≤ s b then old else b
  | 2 => if s old ≤ s b then b else old
  | 3 => min old b
  | 4 => max old b
  | 5 => old &&& b
  | 6 => old ||| b
  | 7 => old ^^^ b
  | 8 => b
  | 9 => if old = b then nv else old
  | 10 =>
    let vs := [fp32.read old, fp32.read b]
    let r := if vs.any isNan then FRes.nan flNV
      else match fp32.read old, fp32.read b with
        | .inf n, .inf m => if n = m then .inf n flNone else .nan flNV
        | .inf n, _ => .inf n flNone
        | _, .inf n => .inf n flNone
        | x, y => sumTerms rcRNE ([x, y].filterMap (fun v => match v with
            | .fin n m e => some ({ neg := n, m := m, e := e } : Term)
            | _ => none))
    (fp32.finish rcRNE false false 0 flNone r).1
  | 11 => (fp32.pick false false old b).1
  | 13 => barwStep old
  | 14 => old / 2 ^ 63 % 2 * 2 ^ 63 + b % 2 ^ 16 * 2 ^ 32
  | _ => (fp32.pick false true old b).1

/-- Whether the operation writes: a CAS that fails does not (R229). -/
def atomWrites (aop old b : Nat) : Bool := aop != 9 || old == b

/-! ## Issue -/

/-- The stores of an OWN store are written into the span, in ascending home lane; a fully coalesced one clears the poison of its
line (R221, R222). -/
def ownStores (s : State) (r : Req) : State :=
  let s := if r.parts.any (·.fcoal) then clearPoison s r.line else s
  modL1 s r.core r.line (fun l =>
    { r.parts.foldl (fun l p => l1Store l p.off (leBytes p.val p.width)) l with writers := (l.writers ++ r.parts.filterMap (·.thr)).eraseDups })

/-- The code under which the UC stores of a packet join their request: a UC store first flushes what the core holds dirty (R214). -/
def aopUc : Nat := 1

/-- A request whose words the L1 holds is performed at its tag check and returns after 8 core clocks (R216, R25). -/
def hitReq (s : State) (r : Req) (l : L1Line) : State :=
  let bytes := bufReadN l.data 0 128
  let k := coreClock s r.core + 8
  let r := { r with
    performed := true, due := s.now, dueClk := some k, parts := partsFrom s r.line bytes (l.own != 0#32) r.parts }
  scheduleClk { s with reqs := tput r.id r s.reqs } (coreQuad r.core) k (.loadReturn r.id)

/-- Sends one request of a packet, after its tag check. -/
def issueReq (s : State) (r : Req) : State :=
  let l := l1Of s r.core r.line
  match r.kind with
  | .read =>
    if l1Hit s l (reqWords r) false then
      hitReq (modL1 s r.core r.line (fun l => addUses l r)) r l
    else
      let s := dropOther s r.core r.line false
      let m := (l1Of s r.core r.line).dirty &&& bytesOf (reqWords r)
      launch s { r with mask := m, data := (maskedBytes l.data m).foldl (fun d x => bufWrite d x.1 x.2) [] }
  | .own =>
    if l1Hit s l (reqWords r) true then
      (if r.aop = 1 then { ownStores s r with reqs := tdel r.id s.reqs } else hitReq s r l)
    else launch (dropOther s r.core r.line true) r
  | .uc | .atomic | .reduce => launch (flushWords s r.core r.line (reqWords r &&& ~~~l.own)) r
  | .write =>
    if r.aop = aopUc then
      launch (spoil (flushWords s r.core r.line (reqWords r &&& ~~~l.own)) r.core r.line (reqWords r)) r
    else launch s r
  | .prefetch =>
    if r.aop = 3 then launch s r
    else if l1Hit s l (reqWords r) (r.aop == 2) then { s with reqs := tdel r.id s.reqs }
    else launch (dropOther s r.core r.line (r.aop == 2)) r
  | _ => launch s r

/-- Sends every request of the packet, in the order of their first parts. -/
def issueAll (p : Packet) (s : State) : State :=
  (s.reqs.filter (fun e => decide (p.base ≤ e.1) && e.2.due == 0)).foldl (fun s e => issueReq s e.2) s

/-- An instruction of class 4 whose threads join requests, which are then sent. -/
def thenIssue (r : Out) : Out :=
  match r with
  | .next s => match s.cur with
    | some p => .next (issueAll p s)
    | none => .next s
  | x => x

/-! ## At the home -/

/-- The same for an event, which waits for the answers. -/
def recallRemote (s : State) (line : Nat) (words : BitVec 32) (again : Instr) (own : Option (Nat × Nat) := none) : Option State :=
  (askRecalls s line words own).map (fun s => waitFor s again)

/-- Marks a request performed and has it return when due. -/
def performed (s : State) (r : Req) : State :=
  let r := { r with performed := true, due := max r.due s.now }
  schedule { s with reqs := tput r.id r s.reqs } r.due (.loadReturn r.id)

/-- The words that a read fetches at its home: its own, and where it fills L1 those that the line holds there (R212). -/
def fetchWords (s : State) (r : Req) : BitVec 32 :=
  let l := l1Of s r.core r.line
  if r.lease.isSome && l.own == 0#32 then reqWords r ||| l.valid else reqWords r

/-- The fill of a read, when its data comes back: the words that it fetched stand in L1 under the lease of its class from now on
(R215), which counts in whole nanoseconds. What the core has stored to the home or dropped since, an owned span, or a later fill, leaves no copy. -/
def landFill (s : State) (r : Req) : State :=
  let l := l1Of s r.core r.line
  match r.lease with
  | none => s
  | some e =>
    if r.fetched = 0#32 || r.nokeep != 0#32 || l.own != 0#32 || decide (r.id < l.fetch) then s
    else modL1 (makeL1Room s r.core r.line) r.core r.line (fun l =>
      { addUses (l1Fill l r.fetched r.home (e.map (fun n => timeNs s * nsTicks + n))) r with fetch := r.id })

/-- A read for SI or WT at the home: spans recalled, the value taken, overlaid with the bytes that were dirty in the core's L1
at issue (R235), and the words for the fill of L1 (R211, R212). A poisoned line leaves no copy. -/
def serveRead (s : State) (r : Req) : State :=
  let words := fetchWords s r
  let s := recallLocal s r.line words none
  let home := physRead s (r.line * 128) 128
  let seen := (List.range 128).map (fun i => if r.mask.getLsbD i then bufRead r.data i else home.getD i 0#8)
  let s := touchHome s (r.line * 128) r.leaf false
  let keep := r.lease.isSome && !poisoned s r.line words
  performed s { r with
    parts := partsFrom s r.line seen true r.parts
    fetched := if keep then words else 0#32
    home := if keep then home else [] }

/-- The oldest of four spans on a line gives way to a fifth (R213). One of another agent has been recalled before (`roomOf`). -/
def makeSpanRoom (s : State) (line : Nat) : State :=
  let on := s.spans.filter (fun x => x.line == line)
  if on.length < 4 then s
  else match on.filter (fun x => localAgent x.agent) with
    | x :: r => recallSpan s (r.foldl (fun a y => if y.seq < a.seq then y else a) x)
    | [] => s

/-- Grants ownership of the smallest run of words to a core of this device: the span is recorded and filled (R213); the
stores of an OWN store are then written into it. -/
def grantOwn (s : State) (r : Req) : State :=
  let run := coverRun (reqWords r)
  let s := recallLocal s r.line run (some (coreAgent r.core, r.core))
  let s := makeSpanRoom s r.line
  let (seq, s) := newId s
  let bytes := physRead s (r.line * 128) 128
  let s := touchHome s (r.line * 128) r.leaf false
  let s := { s with spans := s.spans ++ [{ line := r.line, agent := coreAgent r.core, sub := r.core, words := run, seq := seq }] }
  let s := modL1 (makeL1Room s r.core r.line) r.core r.line (fun l =>
    let l := if l.own = 0#32 then { l1Drop l 0xFFFFFFFF#32 with vls := l.vls } else l
    let l := l1Own l run bytes
    addUses { l with own := l.own ||| run } r)
  if r.aop = 1 then performed (ownStores s r) r
  else performed s { r with parts := partsFrom s r.line bytes true r.parts }

/-- An uncached read (R211, R214). A prefetch of this kind only fills the home slice. -/
def serveUc (s : State) (r : Req) : State :=
  let s := recallLocal s r.line (reqWords r) none
  let bytes := physRead s (r.line * 128) 128
  let s := touchHome s (r.line * 128) r.leaf false
  performed s { r with parts := partsFrom s r.line bytes true r.parts }

/-- A write or a write-back at the home, one event in home order (R221, R235). A fully coalesced store clears the poison of its line
(R222). A write-back that gives back a span ends it (R213). -/
def serveWrite (s : State) (r : Req) : State :=
  let words := (List.range 32).foldl (fun a i => if (r.mask.extractLsb' (4 * i) 4) = 0#4 then a else a ||| (1#32 <<< i)) 0#32
  let mine := some (coreAgent r.core, r.core)
  let s := recallLocal s r.line words (if r.kind = .writeBack then mine else none)
  let s := touchHome s (r.line * 128) r.leaf true
  let s := if r.parts.any (·.fcoal) then clearPoison s r.line else s
  let s := homeBytes s r.line (maskedBytes r.data r.mask)
  { s with
    reqs := tdel r.id s.reqs
    spans := if r.gives = 0#32 then s.spans
      else s.spans.filter (fun x => !(x.line == r.line && spanOf mine x && x.words &&& ~~~r.gives == 0#32)) }

/-- The parts of an atomic or a reduction, in ascending home lane (R221, R229). -/
def atomParts (s : State) (r : Req) : List Part → State × List Part
  | [] => (s, [])
  | p :: ps =>
    let old := leNat (physRead s (r.line * 128 + p.off) p.width)
    let s' := if atomWrites r.aop old p.val then
        physPut s (r.line * 128 + p.off) (leBytes (atomVal r.aop (8 * p.width) old p.val p.nv) p.width) else s
    let rest := atomParts s' r ps
    (rest.1, { p with got := some (old, false) } :: rest.2)

/-- Whether any part of an atomic writes. -/
def atomsWrite (s : State) (r : Req) : Bool :=
  r.aop != 9 || r.parts.any (fun p => leNat (physRead s (r.line * 128 + p.off) p.width) == p.val)

/-- An atomic at its home (R229): at a poisoned line it is not performed. -/
def serveAtomic (s : State) (r : Req) : State :=
  let s := recallLocal s r.line (reqWords r) none
  if poisoned s r.line 0xFFFFFFFF#32 then
    performed s { r with parts := r.parts.map (fun p => { p with got := some (0, true) }) }
  else
    let s := touchHome s (r.line * 128) r.leaf true
    let w := atomsWrite s r
    let x := atomParts s r r.parts
    performed (if w then wakeLine (tierPut x.1 r.line (bytesOf (reqWords r))) r.line else x.1) { r with parts := x.2 }

/-- A reduction at its home (R230): at a poisoned line it is discarded and logged (R222, R375). -/
def serveReduce (s : State) (r : Req) : State :=
  let s := recallLocal s r.line (reqWords r) none
  let s := { s with reqs := tdel r.id s.reqs }
  if poisoned s r.line 0xFFFFFFFF#32 then
    let team := match r.parts with
      | p :: _ => (match p.thr with | some t => (teamOf s t.team).index | none => noTeam)
      | [] => noTeam
    faultLog s r.ctx 2 fPOISON team 0
  else
    let s := touchHome s (r.line * 128) r.leaf true
    wakeLine (tierPut (atomParts s r r.parts).1 r.line (bytesOf (reqWords r))) r.line

/-! ## Releases (R237, R420) -/

/-- The accesses of a thread in flight. -/
def reqsOf (s : State) (t : ThrRef) : List Req :=
  (s.reqs.filter (fun e => e.2.parts.any (fun p => p.thr == some t))).map (·.2)

def inCover (cover : Option (List (Nat × Nat))) (ctx : Nat) (vls : List (Nat × Nat)) : Bool :=
  match cover with
  | none => true
  | some rs => vls.any (fun v => v.1 == ctx && rs.any (fun r =>
      decide (r.1 < (v.2 + 1) * 128 ∧ v.2 * 128 < r.1 + r.2)))

/-- The lines of a core's L1 in a covered set, without owned spans. -/
def coveredLines (s : State) (core ctx : Nat) (cover : Option (List (Nat × Nat))) : List Nat :=
  ((coreOf s core).l1.filter (fun e => e.2.own == 0#32 && inCover cover ctx e.2.vls)).map (·.1)

/-- The write-backs of a core that are on their way. -/
def backsOf (s : State) (core : Nat) : List Nat :=
  (s.reqs.filter (fun e => e.2.kind == .writeBack && e.2.core == core && !e.2.performed)).map (·.1)

/-- What a release action answers: it is done; the thread waits and tries again; or LINKLOST raises LINK_DOWN. -/
inductive RelOut where
  | done (s : State)
  | wait (s : State)
  | fault

/-- The flushing read of the host window by a core (R236, R237): a read without data, served once every write that the PCIe endpoint
has accepted from this device is in host memory. With the data link down it is not issued, and the
release ends without it (DESIGN CHOICE, log entry 102). -/
def flushRead (s : State) (core : Nat) : List Nat × State :=
  if !s.pcieUp then ([], s)
  else
    let writes := s.reqs.filter (fun e => rangeOf (e.2.line * 128) == .host && e.2.kind != .read && e.2.kind != .uc)
    let last := writes.foldl (fun a e => max a e.2.serve) 0
    let (id, s) := newId s
    let s := launch s { id := id, kind := .uc, core := core, ctx := 0, line := hostBase / 128, parts := [], due := 0 }
    match tget s.reqs id with
    | some r =>
      let at' := max r.serve last
      ([id], schedule { s with reqs := tput id { r with serve := at', due := max r.due at' } s.reqs } at' (serveEvent r))
    | none => ([], s)

/-- Whether every request that a release waits for has ended. -/
def idsDone (s : State) (ids : List Nat) : Bool := !ids.any (fun i => (tget s.reqs i).isSome)

/-- The end of a release: at SYSTEM scope a flushing read first; LINKLOST then raises LINK_DOWN (R236, R237, R420). -/
def releaseEnds (s : State) (t : ThrRef) (scope : Nat) (flushed : Bool) : RelOut :=
  let fl := if scSystem ≤ scope ∧ !flushed then flushRead s (thrCore s t) else ([], s)
  if fl.1.isEmpty then (if (thrOf fl.2 t).linklost then .fault else .done (modThr fl.2 t (fun th => { th with rel := none })))
  else .wait (modThr fl.2 t (fun th => { th with rel := some { ids := fl.1, flushed := true } }))

/-- Release(T, S, C) of R237. First every earlier access is performed, then the dirty bytes of the covered set are written
back, which the thread waits for by their ids; at FABRIC scope its fabric writes are remotely performed, and at SYSTEM a
flushing read of the host window is completed. LINKLOST then raises LINK_DOWN and clears (R420). -/
def release (s : State) (t : ThrRef) (scope : Nat) (cover : Option (List (Nat × Nat))) : RelOut :=
  let th := thrOf s t
  let core := thrCore s t
  match th.rel with
  | none =>
    if (reqsOf s t).any (fun r => !r.performed) then .wait s
    else
      let s := if scope < scCluster then s
        else (coveredLines s core (thrCtx s t) cover).foldl (fun s l => startWriteBack s core l (BitVec.allOnes 128)) s
      let ids := if scope < scCluster then [] else backsOf s core
      let out := fun (r : Req) => r.kind != .read && isFar s (r.line * 128) && decide (scFabric ≤ scope)
      let ids := ids ++ ((reqsOf s t).filter out).map (·.id)
      if ids.isEmpty then releaseEnds s t scope false
      else .wait (modThr s t (fun th => { th with rel := some { ids := ids } }))
  | some w => if idsDone s w.ids then releaseEnds s t scope w.flushed else .wait s

/-- The loads and atomics of a thread that have not returned (R248). -/
def returnsOut (s : State) (t : ThrRef) : Bool :=
  (reqsOf s t).any (fun r => r.kind != .write && r.kind != .reduce && !(r.kind == .own && r.aop == 1))

/-- Everything that a thread's own release waits for is performed. -/
def ownReady (s : State) (t : ThrRef) (th : Thread) : Bool :=
  match th.rel with
  | none => !(reqsOf s t).any (fun r => !r.performed)
  | some w => idsDone s w.ids

/-- Threads whose release may go on: theirs is over, and those of the threads that go on with them (R221). -/
def releaseReady (s : State) (t : ThrRef) (th : Thread) : Bool :=
  ownReady s t th && th.mates.all (fun u => (thrOf s u).stat != .waiting .release || ownReady s u (thrOf s u))

/-- Every access that a pending join arrival waits for is performed. -/
def joinReady (s : State) (x : PendJoin) : Bool :=
  x.reqs.all (fun i => match tget s.reqs i with | some r => r.performed | none => true)

/-- The pending join arrivals whose accesses are performed (R193). -/
def settleJoins (s : State) : State :=
  (s.joins.filter (joinReady s)).foldl (fun s x => engineArrive s x.team x.bar false)
    { s with joins := s.joins.filter (fun x => !joinReady s x) }

/-- A forked group exits: it arrives on its join register once every access of its threads is performed (R193). Its slot and
`%gid` do not wait for that (R165, R169). -/
def leaveJoin (s : State) (team gid : Nat) : State :=
  match (grpOf s team gid).join with
  | some j =>
    let ids := (s.reqs.filter (fun e => !e.2.performed && e.2.parts.any (fun p =>
      match p.thr with | some t => t.team == team && t.gid == gid | none => false))).map (·.1)
    settleJoins { modGrp s team gid (fun g => { g with join := none }) with
      joins := s.joins ++ [{ team := team, bar := j, reqs := ids }] }
  | none => s

/-- After an access is performed, wakes the threads whose release it was holding, and lets exited forked groups arrive. -/
def wakeReleases (s : State) : State :=
  let s := settleJoins s
  { s with threads := s.threads.map (fun e =>
      match e.2.stat with
      | .waiting .release => if releaseReady s (refOf e.1) e.2 then (e.1, { e.2 with stat := .ready }) else e
      | .waiting .returns => if !returnsOut s (refOf e.1) then (e.1, { e.2 with stat := .ready }) else e
      | _ => e) }

/-- A thread's part of an instruction that begins with a release. -/
def afterRelease (s : State) (t : ThrRef) (scope : Nat) (cover : Option (List (Nat × Nat))) (k : State → ThrOut) : ThrOut :=
  match release s t scope cover with
  | .done s => k s
  | .wait s => .left (makeWait s t .release)
  | .fault => .fault { code := fLINK_DOWN, lost := true }

/-! ## Acquires (R237) -/

/-- Acquire(T, S, C): at CLUSTER and above, the valid SI and WT words of the covered set leave L1, dirty bytes first. -/
def acquire (s : State) (t : ThrRef) (scope : Nat) (cover : Option (List (Nat × Nat))) : State :=
  if scope < scCluster then s
  else
    let core := thrCore s t
    (coveredLines s core (thrCtx s t) cover).foldl (fun s l => flushWords s core l 0xFFFFFFFF#32)
      (spoilCopies s core (fun r => inCover cover (thrCtx s t) r.vls))

/-! ## Returns (R225, R135, R131) -/

/-- A thread that has exited and has no return outstanding gives up its slot (R165). -/
def checkExited (s : State) (t : ThrRef) : State :=
  match (thrOf s t).stat with
  | .exited =>
    if !returnsOut s t && !s.asyncs.any (fun e => e.2.thr == t) then schedule s s.now (.threadSlotFree t) else s
  | _ => s

def putPart (s : State) (p : Part) (t : ThrRef) (raw : Nat) (bad : Bool) : State :=
  let k := partRegs p.width
  let vs := valRegs (loadVal raw p.width p.sx) k
  let s := modThr s t (fun th =>
    if p.dst = 0 then th
    else ((List.range k).zip vs).foldl (fun th x => putReg th (p.dst + x.1) x.2 bad) th)
  unpark s t

/-- A read of PH by a thread at a BARW.WAIT (R297). When PH differs the first read lets the thread go on, and a later one
wakes it through the Damper. Otherwise the first read disarms the monitor, and `k` says how PH is read again. -/
def barwRead (s : State) (t : ThrRef) (w : BarwWait) (ph : Bool) (k : State → State) : State :=
  if w.woken then s
  else if ph != w.ph then
    (if w.first then
      resumeAcq s t w.len scSystem (some (boundTo (teamOf s t.team) objWord (BitVec.ofNat 64 w.va)))
     else wakeBarw s [t])
  else
    let s := if w.first then modThr (dropWatcher s t) t (fun th => { th with mon := .disarmed }) else s
    k (modThr s t (fun th => { th with stat := .waiting (.barw { w with first := false }) }))

/-- A word that another device or die homes is read by a UC request there. -/
def barwAsk (s : State) (t : ThrRef) (w : BarwWait) : State :=
  let (id, s) := newId s
  let part : Part := { thr := some t, off := w.loc % 128, width := 8, poll := true }
  launch s
    { id := id, kind := .uc, core := thrCore s t, ctx := thrCtx s t, line := w.loc / 128, vls := [(thrCtx s t, w.va / 128)], parts := [part]
      due := 0 }

/-- A word in the fabric window is read again every 1,000 ns; for one that an integrator's die homes a watcher is registered there. -/
def barwSeen (s : State) (t : ThrRef) (w : BarwWait) (ph : Bool) : State :=
  barwRead s t w ph (fun s =>
    if rangeOf w.loc = .fabric then schedule s (s.now + 1000 * nsTicks) (.barwPoll t)
    else schedule s s.now (.armMonitor (armMsg t (thrCore s t) (w.loc / 128))))

/-- Writes one part's data where its registers reside. -/
def writePart (s : State) (p : Part) (t : ThrRef) : State :=
  match p.got with
  | none => s
  | some (raw, bad) =>
    match (thrOf s t).stat with
    | .exited => s
    | .waiting (.barw w) => if p.poll then barwSeen s t w (raw / 2 ^ 63 % 2 == 1) else putPart s p t raw bad
    | _ => putPart s p t raw bad

/-- The return of an SLD (R191): sD is written and the participants go on; poisoned data raises POISON at the lowest present
lane, and the others stay arrived. -/
def returnSld (s : State) (p : Part) (t : ThrRef) : State :=
  let s := if (tget s.groups (grpKey t.team t.gid)).isNone then s else modGrp s t.team t.gid (fun g => { g with sld := none })
  match (if (tget s.groups (grpKey t.team t.gid)).isNone then none else p.got) with
  | none => s
  | some (raw, bad) =>
    let pc := (thrOf s t).pc
    if bad then deliver (thrCore s t) pc (pc + 12) [(t, flt fPOISON)] s
    else
      let s := modGrp s t.team t.gid (fun g => setSreg g p.dst (BitVec.ofNat 64 raw))
      (groupLanes.map (fun l => ({ team := t.team, gid := t.gid, lane := l } : ThrRef))).foldl (fun s u =>
        if (arrivedAt (thrOf s u) pc).isSome then advance s u (pc + 12) else s) s

/-- The acquires that follow a return. -/
def runAcqs (s : State) (id : Nat) : State :=
  let mine := s.acqs.filter (fun a => a.req == id)
  let s := { s with acqs := s.acqs.filter (fun a => a.req != id) }
  mine.foldl (fun s a =>
    let s := acquire s a.thr a.scope a.cover
    match (thrOf s a.thr).stat with
    | .waiting .acquire => makeReady s a.thr
    | _ => s) s

end Sys2Proof.Machine
end

