-- ==== Sys2Proof/Machine/Control.lean ====
section
/-! DEFINITION. Control transfer (R29, R163, R164) and the special registers (R137 to R143). -/

namespace Sys2Proof.Machine

/-! ## Branches -/

/-- A target must be a multiple of 4 (R29). -/
def goTo (s : State) (target : Word64) : ThrOut :=
  if target.toNat % 4 ≠ 0 then .fault (flt fMISALIGN) else .done s target

/-- A call writes the return address to `v2:v3` (R163, R164). -/
def callTo (p : Packet) (t : ThrRef) (s : State) (target : Word64) : ThrOut :=
  if target.toNat % 4 ≠ 0 then .fault (flt fMISALIGN) else .done (modThr s t (fun th => putPair th 2 p.next)) target

/-- The target of an indirect form: a pair, or an s register with MOD 1. -/
def targetOf (b : Base) (s : State) (t : ThrRef) : Word64 :=
  if b.md = 1#4 then thrSreg s t b.sa.toNat else pairVal (thrOf s t) b.sa.toNat

def targetOpnds (b : Base) (link : Bool) : Opnds where
  g := b.g
  srcs := if b.md = 1#4 then [] else [(b.sa.toNat, b.ta), (b.sa.toNat + 1, b.ta)]
  dsts := if link then [2, 3] else []

def execBra (b : Base) (e1 : Word32) (s : State) : Out :=
  perThread { g := b.g } noIll (fun p _ s => goTo s (p.pc + e1.signExtend 64)) s

def execCall (b : Base) (e1 : Word32) (s : State) : Out :=
  perThread { g := b.g, dsts := [2, 3] } noIll (fun p t s => callTo p t s (p.pc + e1.signExtend 64)) s

def execBrx (b : Base) (s : State) : Out := perThread (targetOpnds b false) noIll (fun _ t s => goTo s (targetOf b s t)) s

def execCallx (b : Base) (s : State) : Out :=
  perThread (targetOpnds b true) noIll (fun p t s => callTo p t s (targetOf b s t)) s

def execRet (b : Base) (s : State) : Out := perThread (targetOpnds b false) noIll (fun _ t s => goTo s (targetOf b s t)) s

/-! ## Special registers -/

/-- The default leases of R215, in ticks of 256 ns. -/
def leaseDefault (k : Nat) : Half := [1#16, 4#16, 16#16, 64#16, 256#16, 4096#16].getD (k - 1) 0#16

def leaseOf (x : Ctx) (k : Nat) : Half := tgetD x.leases k (leaseDefault k)

/-- The value of a special register (R137, R140). -/
def srRead (s : State) (t : ThrRef) (n : Nat) : Word64 :=
  let th := thrOf s t
  let tm := teamOf s t.team
  let g := grpOf s t.team t.gid
  let q := quadOf s (coreQuad tm.core)
  match n with
  | 0x000 => BitVec.ofNat 64 (tid t)
  | 0x001 => BitVec.ofNat 64 t.lane
  | 0x002 => BitVec.ofNat 64 t.gid
  | 0x003 => BitVec.ofNat 64 tm.index
  | 0x004 => BitVec.ofNat 64 tm.clx
  | 0x005 => BitVec.ofNat 64 tm.cly
  | 0x006 => BitVec.ofNat 64 tm.core
  | 0x007 => BitVec.ofNat 64 (coreQuad tm.core)
  | 0x008 => BitVec.ofNat 64 (coreTower tm.core)
  | 0x010 => g.exm.setWidth 64
  | 0x011 => g.live.setWidth 64
  | 0x020 => th.fpc.setWidth 64
  | 0x021 => th.rng
  | 0x050 => th.trapcode.setWidth 64
  | 0x051 => th.trappc
  | 0x052 => th.trapaddr
  | 0x060 => BitVec.ofNat 64 (clockOf s q)
  | 0x061 => BitVec.ofNat 64 (timeNs s)
  | 0x062 => BitVec.ofNat 64 (passCount q)
  | 0x063 => BitVec.ofNat 64 tm.rampslot
  | 0x064 => q.ballast
  | 0x065 => BitVec.ofNat 64 (b2n th.linklost)
  | _ =>
    if 0x030 ≤ n ∧ n ≤ 0x037 then (tgetD (ctxOf s tm.ctx).seeds (n - 0x030) 0#32).setWidth 64
    else if 0x041 ≤ n ∧ n ≤ 0x046 then (leaseOf (ctxOf s tm.ctx) (n - 0x040)).setWidth 64
    else 0#64

def srWide (n : Nat) : Bool := srWidth n == some 64

def execRdsr (b : Base) (s : State) : Out :=
  let n := b.sa.toNat
  perThread { g := b.g, dsts := if b.dst = 0#10 then [] else if srWide n then [b.dst.toNat, b.dst.toNat + 1] else [b.dst.toNat] }
    noIll (fun p t s =>
      let v := srRead s t n
      .done (modThr s t (fun th => if srWide n then putPair th b.dst.toNat v else putReg th b.dst.toNat (lo32 v))) p.next) s

/-- The write of a special register by a thread (R139, R141). -/
def srWrite (s : State) (t : ThrRef) (n : Nat) (v : Word64) : State :=
  let c := thrCtx s t
  if n = 0x020 then modThr s t (fun th => { th with fpc := fpcWrite (lo32 v) })
  else if n = 0x021 then modThr s t (fun th => { th with rng := v })
  else if 0x030 ≤ n ∧ n ≤ 0x037 then modCtx s c (fun x => { x with seeds := tset 0#32 (n - 0x030) (lo32 v) x.seeds })
  else if 0x041 ≤ n ∧ n ≤ 0x046 then
    let l : Half := v.setWidth 16
    modCtx s c (fun x => { x with leases := tput (n - 0x040) (if l = 0#16 then 1#16 else l) x.leases })
  else s

/-- The source of a WRSR (R143). -/
def wrsrVal (b : Base) (s : State) (t : ThrRef) : Word64 :=
  if b.md = 1#4 then thrSreg s t b.sa.toNat
  else if srWide b.dst.toNat then pairVal (thrOf s t) b.sa.toNat
  else (regVal (thrOf s t) b.sa.toNat).setWidth 64

def wrsrOpnds (b : Base) : Opnds where
  g := b.g
  srcs := if b.md = 1#4 then []
    else (List.range (if srWide b.dst.toNat then 2 else 1)).map (fun i => (b.sa.toNat + i, b.ta))

def execWrsr (b : Base) (s : State) : Out :=
  perThread (wrsrOpnds b) noIll (fun p t s => .done (srWrite s t b.dst.toNat (wrsrVal b s t)) p.next) s

end Sys2Proof.Machine
end

