-- ==== Sys2Proof/Machine/Special.lean ====
section
/-! DEFINITION. The special functions of R160 to any precision: fixed-point intervals that hold the exact value, at a
precision that grows until the interval fixes enough leading bits of the result. -/

namespace Sys2Proof.Machine

/-- An interval of nonnegative fixed-point numbers: the value lies between lo / 2^P and hi / 2^P. -/
structure Ival where
  lo : Nat
  hi : Nat
  deriving DecidableEq, Repr

/-- Leading bits on which both ends agree: the value is (m + δ) × 2^e with 0 < δ < 1, for an irrational value. -/
def settle (P : Nat) (neg : Bool) (x : Ival) : Option Exact :=
  let g := Nat.log2 x.lo - 110
  if x.lo = 0 ∨ g < 8 then none
  else if x.lo / 2 ^ g = x.hi / 2 ^ g then some { neg := neg, m := x.lo / 2 ^ g, e := (g : Int) - P, sticky := true }
  else none

/-- Tries a computation at growing precision. -/
def refine (f : Nat → Option Exact) : Nat → Nat → Exact
  | 0, _ => { neg := false, m := 1, e := 0, sticky := true }
  | n + 1, P => match f P with
    | some x => x
    | none => refine f n (2 * P)

/-! ## Series in units of 2^-P -/

/-- The sum over k of z^(2k+1)/(2k+1), for z below 1 in units of 2^-P: term by term, each rounded down. -/
def atanhSum (P z zz : Nat) : Nat → Nat → Nat → Nat → Nat
  | 0, _, _, acc => acc
  | n + 1, k, t, acc => atanhSum P z zz n (k + 1) (t * zz / 2 ^ P) (acc + t / (2 * k + 1))

/-- Twice the inverse hyperbolic tangent of a/b, a/b at most 1/3, with its error. -/
def atanh2 (P a b : Nat) : Ival :=
  let z := a * 2 ^ P / b
  let n := P / 3 + 4
  let s := atanhSum P z (z * z / 2 ^ P) n 0 z 0
  { lo := 2 * s, hi := 2 * s + 8 * n + 8 }

/-- ln 2 = 2 atanh (1/3). -/
def ln2 (P : Nat) : Ival := atanh2 P 1 3

/-- e^y for y below 1 in units of 2^-P: the terms y^k/k!, each rounded down. -/
def expSum (P y : Nat) : Nat → Nat → Nat → Nat → Nat
  | 0, _, _, acc => acc
  | n + 1, k, t, acc => expSum P y n (k + 1) (t * y / 2 ^ P / (k + 1)) (acc + t)

def expTerms (P : Nat) : Nat := P / 2 + 10

/-- e^y over an interval of y below 1. -/
def expIval (P : Nat) (y : Ival) : Ival :=
  let n := expTerms P
  { lo := expSum P y.lo n 0 (2 ^ P) 0, hi := expSum P y.hi n 0 (2 ^ P) 0 + 4 * n + 8 }

/-! ## EX2 -/

/-- 2^a of a finite a that is not an integer, |a| below 2^10. -/
def ex2At (neg : Bool) (m : Nat) (e : Int) (P : Nat) : Option Exact :=
  let v := sumAt (min e 0) [{ neg := neg, m := m, e := e }]
  let k := (-(min e 0)).toNat
  let n := v / (2 ^ k : Nat)
  let f := (v % (2 ^ k : Nat)).toNat
  let l := ln2 P
  let y : Ival := { lo := f * l.lo / 2 ^ k, hi := f * l.hi / 2 ^ k + 1 }
  (settle P false (expIval P y)).map (fun x => { x with e := x.e + n })

def ex2Res (a : FVal) : FRes :=
  match a with
  | .nan s => .nan (if s then flNV else flNone)
  | .inf n => if n then .zero false else .inf false flNone
  | .fin neg m e =>
    if m = 0 then .exact { neg := false, m := 1, e := 0 }
    else if 10 ≤ Nat.log2 m + e then .exact { neg := false, m := 2 ^ 60, e := if neg then -2000 else 2000, sticky := neg }
    else if 0 ≤ e ∨ m % 2 ^ (-e).toNat = 0 then
      let v := sumAt (min e 0) [{ neg := neg, m := m, e := e }] / (2 ^ (-(min e 0)).toNat : Nat)
      .exact { neg := false, m := 1, e := v }
    else .exact (refine (ex2At neg m e) 4 300)

/-! ## LG2 -/

/-- log2 of m × 2^e, not a power of two: n + log2 t with t = m / 2^l in [1, 2). -/
def lg2At (m : Nat) (e : Int) (P : Nat) : Option Exact :=
  let l := Nat.log2 m
  let n : Int := l + e
  let t := atanh2 P (m - 2 ^ l) (m + 2 ^ l)
  let d := ln2 P
  let q : Ival := { lo := t.lo * 2 ^ P / d.hi, hi := t.hi * 2 ^ P / d.lo + 1 }
  let lo : Int := n * (2 ^ P : Nat) + q.lo
  let hi : Int := n * (2 ^ P : Nat) + q.hi
  if 0 < lo then settle P false { lo := lo.natAbs, hi := hi.natAbs }
  else if hi < 0 then settle P true { lo := hi.natAbs, hi := lo.natAbs }
  else none

def lg2Res (a : FVal) : FRes :=
  match a with
  | .nan s => .nan (if s then flNV else flNone)
  | .inf n => if n then .nan flNV else .inf false flNone
  | .fin neg m e =>
    if m = 0 then .inf true flDZ
    else if neg then .nan flNV
    else if 2 ^ Nat.log2 m = m then intRes (Nat.log2 m + e)
    else .exact (refine (lg2At m e) 4 300)

/-! ## SIN, COS -/

/-- The sum of (−1)^k z^(2k+1)/(2k+1) for z = 1/b: positive and negative terms apart. -/
def atanInv (b : Nat) : Nat → Nat → Nat → Nat × Nat → Nat × Nat
  | 0, _, _, acc => acc
  | n + 1, k, t, acc =>
    let x := t / (2 * k + 1)
    atanInv b n (k + 1) (t / (b * b)) (if k % 2 = 0 then (acc.1 + x, acc.2) else (acc.1, acc.2 + x))

/-- π/2 = 8 atan(1/5) − 2 atan(1/239). -/
def halfPi (P : Nat) : Ival :=
  let n := P / 4 + 4
  let a := atanInv 5 n 0 (2 ^ P / 5) (0, 0)
  let b := atanInv 239 n 0 (2 ^ P / 239) (0, 0)
  let err := 32 * n + 64
  { lo := 8 * (a.1 - a.2) - 2 * (b.1 - b.2) - err, hi := 8 * (a.1 - a.2) - 2 * (b.1 - b.2) + err }

/-- The alternating series from a first term: t, t r²/((k+1)(k+2)), … with positive and negative terms apart. -/
def altSum (P rr : Nat) : Nat → Nat → Nat → Bool → Nat × Nat → Nat × Nat
  | 0, _, _, _, acc => acc
  | n + 1, k, t, plus, acc =>
    altSum P rr n (k + 2) (t * rr / 2 ^ P / ((k + 1) * (k + 2))) (!plus) (if plus then (acc.1 + t, acc.2) else (acc.1, acc.2 + t))

/-- sin r (`first` 1) or cos r (`first` 0) for r in [0, π/2], at one point, with its error. -/
def trigAt (P r : Nat) (cosine : Bool) : Ival :=
  let n := P / 4 + 20
  let s := altSum P (r * r / 2 ^ P) n (if cosine then 0 else 1) (if cosine then 2 ^ P else r) true (0, 0)
  { lo := s.1 - s.2 - (8 * n + 8), hi := s.1 - s.2 + 8 * n + 8 }

/-- sin or cos of m × 2^e, reduced by multiples of π/2. On [0, π/2] sine rises and cosine falls. -/
def trig (cosine neg : Bool) (m : Nat) (e : Int) (P : Nat) : Option Exact :=
  let Q := P + 150
  let h := halfPi Q
  let x := if 0 ≤ e then m * 2 ^ e.toNat * 2 ^ Q else m * 2 ^ Q / 2 ^ (-e).toNat
  let x' := if 0 ≤ e then x else x + 1
  let k := x / h.lo
  if k * h.hi > x then none
  else
    let lo := (x - k * h.hi) / 2 ^ 150
    let hi := (x' - k * h.lo) / 2 ^ 150 + 1
    if hi > (halfPi P).lo then none
    else
      let q := k % 4
      let useCos := if cosine then q % 2 = 0 else q % 2 = 1
      let v : Ival := if useCos then { lo := (trigAt P hi true).lo, hi := (trigAt P lo true).hi }
        else { lo := (trigAt P lo false).lo, hi := (trigAt P hi false).hi }
      let flip := if cosine then q == 1 || q == 2 else decide (2 ≤ q)
      settle P (flip != (neg && !cosine)) v

def sinRes (a : FVal) : FRes :=
  match a with
  | .nan s => .nan (if s then flNV else flNone)
  | .inf _ => .nan flNV
  | .fin neg m e => if m = 0 then .zero neg else .exact (refine (trig false neg m e) 4 450)

def cosRes (a : FVal) : FRes :=
  match a with
  | .nan s => .nan (if s then flNV else flNone)
  | .inf _ => .nan flNV
  | .fin neg m e => if m = 0 then .exact { neg := false, m := 1, e := 0 } else .exact (refine (trig true neg m e) 4 450)

/-! ## TANH -/

/-- tanh of m × 2^e below 2^5: with E = e^(2x) = 2^n e^r, (E − 1)/(E + 1). -/
def tanhAt (neg : Bool) (m : Nat) (e : Int) (P : Nat) : Option Exact :=
  let y := if 0 ≤ e + 1 then m * 2 ^ (e + 1).toNat * 2 ^ P else m * 2 ^ P / 2 ^ (-(e + 1)).toNat
  let y' := if 0 ≤ e + 1 then y else y + 1
  let d := ln2 P
  let n := y / d.hi
  let r : Ival := { lo := y - n * d.hi, hi := y' - n * d.lo }
  let x := expIval P r
  let E : Ival := { lo := x.lo * 2 ^ n, hi := x.hi * 2 ^ n }
  let one := 2 ^ P
  if E.lo ≤ one then none
  else settle P neg { lo := (E.lo - one) * 2 ^ P / (E.lo + one), hi := (E.hi - one) * 2 ^ P / (E.hi + one) + 1 }

def tanhRes (a : FVal) : FRes :=
  match a with
  | .nan s => .nan (if s then flNV else flNone)
  | .inf n => .exact { neg := n, m := 1, e := 0 }
  | .fin neg m e =>
    if m = 0 then .zero neg
    else if 5 ≤ Nat.log2 m + e then .exact { neg := neg, m := 2 ^ 80 - 1, e := -80, sticky := true }
    else .exact (refine (tanhAt neg m e) 4 450)

/-! ## RCP, RSQ -/

def rcpRes (a : FVal) : FRes :=
  match a with
  | .nan s => .nan (if s then flNV else flNone)
  | .inf n => .zero n
  | .fin n m e => if m = 0 then .inf n flDZ else .exact (quotExact n 1 0 m e)

/-- 1/√(m × 2^e) = √(2^k / m) × 2^((−e − k)/2), with k of the parity of e. -/
def rsqExact (m : Nat) (e : Int) : Exact :=
  let k : Nat := 300 + (if e % 2 = 0 then 0 else 1)
  let q := 2 ^ k / m
  let r := isqrt q
  { neg := false, m := r, e := (-e - k) / 2, sticky := r * r * m != 2 ^ k }

def rsqRes (a : FVal) : FRes :=
  match a with
  | .nan s => .nan (if s then flNV else flNone)
  | .inf n => if n then .nan flNV else .zero false
  | .fin n m e => if m = 0 then .inf n flDZ else if n then .nan flNV else .exact (rsqExact m e)

end Sys2Proof.Machine
end

