-- ==== Sys2Proof/Machine/FpOps.lean ====
section
/-! DEFINITION. Class 1, the floating-point instructions (R153 to R160), and the width conversions (R161, R162). -/

namespace Sys2Proof.Machine

/-- The rounding code in force (R41, R54). -/
def rcOf (f : Alu) (th : Thread) : Nat := if f.rm = 0#3 then (fpcRm th.fpc).toNat else f.rm.toNat

/-- The generator after `n` elements under SR (R89); other modes leave it. -/
def rngSteps (rc : Nat) : Nat → Word64 → Word64
  | 0, x => x
  | n + 1, x => if rc = rcSR then rngSteps rc n (rngNext x) else x

/-- u for element `i`. -/
def uAt (rc : Nat) (x : Word64) (i : Nat) : Nat := (rngOut (rngSteps rc (i + 1) x)).toNat

/-- An FP32 form that rounds once. -/
def fpOp (f : Alu) (h : Nat → FVal → FVal → FVal → FRes) : AluOp := fun th a b c =>
  let rc := rcOf f th
  let ftz := fpcFtz th.fpc
  let rd := fun (x : Word64) => fp32.readFtz ftz (lo32 x).toNat
  let r := fp32.finish rc f.sat ftz (uAt rc th.rng 0) flNone (h rc (rd a) (rd b) (rd c))
  { val := BitVec.ofNat 64 r.1, flags := r.2, rng := rngSteps rc 1 th.rng }

/-- A special function: rounded under RNE (R160). -/
def sfuOp (h : FVal → FRes) : AluOp := fun th a _ _ =>
  let ftz := fpcFtz th.fpc
  let r := fp32.finish rcRNE false ftz 0 flNone (h (fp32.readFtz ftz (lo32 a).toNat))
  { val := BitVec.ofNat 64 r.1, flags := r.2, rng := th.rng }

/-- The format of a packed form: MOD<0>. -/
def packFmt (f : Alu) : FFmt := if f.md.getLsbD 0 then bf16 else fp16

/-- Element `i` of a packed operand. -/
def elem (x : Word64) (i : Nat) : Nat := (lo32 x).toNat / 2 ^ (16 * i) % 2 ^ 16

/-- A packed form: element 0 first, the flags of both ORed (R159). -/
def fp2Op (f : Alu) (h : Nat → FVal → FVal → FVal → FRes) : AluOp := fun th a b c =>
  let rc := rcOf f th
  let ftz := fpcFtz th.fpc
  let F := packFmt f
  let one := fun (i : Nat) =>
    F.finish rc f.sat ftz (uAt rc th.rng i) flNone
      (h rc (F.readFtz ftz (elem a i)) (F.readFtz ftz (elem b i)) (F.readFtz ftz (elem c i)))
  let r0 := one 0
  let r1 := one 1
  { val := BitVec.ofNat 64 (r0.1 + 2 ^ 16 * r1.1), flags := r0.2 ||| r1.2, rng := rngSteps rc 2 th.rng }

/-- Minimum and maximum (R155). -/
def pickOp (mx : Bool) : AluOp := fun th a b _ =>
  let r := fp32.pick (fpcFtz th.fpc) mx (lo32 a).toNat (lo32 b).toNat
  { val := BitVec.ofNat 64 r.1, flags := r.2, rng := th.rng }

def pick2Op (f : Alu) (mx : Bool) : AluOp := fun th a b _ =>
  let F := packFmt f
  let r0 := F.pick (fpcFtz th.fpc) mx (elem a 0) (elem b 0)
  let r1 := F.pick (fpcFtz th.fpc) mx (elem a 1) (elem b 1)
  { val := BitVec.ofNat 64 (r0.1 + 2 ^ 16 * r1.1), flags := r0.2 ||| r1.2, rng := th.rng }

def fcmpOp (f : Alu) : AluOp := fun th a b _ =>
  let rd := fun (x : Word64) => fp32.readFtz (fpcFtz th.fpc) (lo32 x).toNat
  let r := fcmpHolds f.md.toNat (rd a) (rd b)
  { val := BitVec.ofNat 64 (b2n r.1), flags := r.2, rng := th.rng }

/-- HCMP2 takes its condition in MOD<2:1> (R156). -/
def hcmpOp (f : Alu) : AluOp := fun th a b _ =>
  let F := packFmt f
  let rd := fun (x : Word64) (i : Nat) => F.readFtz (fpcFtz th.fpc) (elem x i)
  let r := fun i => fcmpHolds (f.md.toNat / 2) (rd a i) (rd b i)
  { val := BitVec.ofNat 64 (b2n (r 0).1 + 2 * b2n (r 1).1), flags := (r 0).2 ||| (r 1).2, rng := th.rng }

/-- The class mask of R157. -/
def classMask (code : Nat) : Nat :=
  match fp32.read code with
  | .nan s => if s then 2 ^ 8 else 2 ^ 9
  | .inf n => if n then 1 else 2 ^ 7
  | .fin n m _ =>
    if m = 0 then (if n then 2 ^ 3 else 2 ^ 4)
    else if m < 2 ^ 23 then (if n then 2 ^ 2 else 2 ^ 5)
    else (if n then 2 else 2 ^ 6)

/-- FSCALE (R158). An amount beyond ±2,000 gives what ±2,000 gives: overflow, or less than half the least subnormal. -/
def scaleRes (a : FVal) (b : Int) : FRes :=
  let k := if b < -2000 then -2000 else if 2000 < b then 2000 else b
  match a with
  | .fin n m e => if m = 0 then .zero n else .exact { neg := n, m := m, e := e + k }
  | v => valRes v

/-- FRND (R158): the integral value, and NX unless `.Q`. -/
def frndOp (f : Alu) : AluOp := fun th a _ _ =>
  let rc := rcOf f th
  let u := uAt rc th.rng 0
  let v := fp32.readFtz (fpcFtz th.fpc) (lo32 a).toNat
  let r : Nat × FpFlags := match v with
    | .nan s => (fp32.nanCode, if s then flNV else flNone)
    | .inf n => (fp32.put n fp32.infCode, flNone)
    | .fin n m e =>
      if m = 0 then (fp32.put n 0, flNone)
      else if 0 ≤ e then ((lo32 a).toNat, flNone)
      else
        let q := roundAt rc { neg := n, m := m, e := e } 0 u
        let x := if q.1 = 0 then fp32.put n 0 else (fp32.round rcRNE false false 0 { neg := n, m := q.1, e := 0 }).1
        (x, if q.2 && !f.md.getLsbD 0 then flNX else flNone)
  { val := BitVec.ofNat 64 r.1, flags := r.2, rng := rngSteps rc 1 th.rng }

/-- FDOT2 (R153, R159): c is FP32, −0 without a prefix. -/
def dotOp (f : Alu) : AluOp := fun th a b c =>
  let rc := rcOf f th
  let ftz := fpcFtz th.fpc
  let F := packFmt f
  let rd := fun (x : Word64) (i : Nat) => F.readFtz ftz (elem x i)
  let cv := if f.ext.pfxOf.isSome then fp32.readFtz ftz (lo32 c).toNat else .fin true 0 0
  let r := fp32.finish rc f.sat ftz (uAt rc th.rng 0) flNone
    (sumProds rc [rd a 0, rd b 0, rd a 1, rd b 1, cv] [(rd a 0, rd b 0), (rd a 1, rd b 1)] (some cv))
  { val := BitVec.ofNat 64 r.1, flags := r.2, rng := rngSteps rc 1 th.rng }

def fmaRes (rc : Nat) (a b c : FVal) : FRes := sumProds rc [a, b, c] [(a, b)] (some c)

/-! ## Conversions (R161, R162) -/

/-- The formats of CVT by code; INT32 is none. -/
def cvtF (code : Nat) : Option FFmt :=
  match code with
  | 0 => some fp32
  | 1 => some bf16
  | 2 => some fp16
  | _ => none

/-- INT32 to floating point (R92, R161): it never overflows. Only FP16 has too small a range: beyond it the result is the largest finite
value under SAT, and otherwise one that the manual does not state, a free value; it is inexact either way (DESIGN CHOICE, log entry 65). -/
def cvtInt (D : FFmt) (rc : Nat) (sat ftz : Bool) (u : Nat) (v : Int) : Nat × FpFlags :=
  let r := D.finish rc sat ftz u flNone (intRes v)
  if r.2 &&& flOF = 0#5 then r
  else (if sat then r.1 else (Config.bigInt v rc).toNat, flNX)

/-- CVT (R161). -/
def cvtOp (f : Alu) : AluOp := fun th a _ _ =>
  let su := f.md.getLsbD 0
  let du := f.md.getLsbD 1
  let rc := rcOf f th
  let ftz := fpcFtz th.fpc
  let u := uAt rc th.rng 0
  let rng := rngSteps rc 1 th.rng
  let x := (lo32 a).toNat
  match cvtF (cvtSrc f), cvtF (cvtDst f) with
  | none, none =>
    { val := BitVec.ofNat 64 ((if su = du then int32 su a else clampTo 32 du (int32 su a)) % (2 ^ 32 : Nat)).toNat, rng := th.rng }
  | none, some D =>
    let r := cvtInt D rc f.sat ftz u (int32 su a)
    { val := BitVec.ofNat 64 r.1, flags := r.2, rng := rng }
  | some S, d =>
    let code := if S.ew + S.mw = 31 then x else if f.md.getLsbD 2 then x / 2 ^ 16 else x % 2 ^ 16
    let v := S.readFtz ftz code
    match d with
    | some D =>
      let r := D.finish rc f.sat ftz u flNone (valRes v)
      { val := BitVec.ofNat 64 r.1, flags := r.2, rng := rng }
    | none =>
      let r := toInt 32 du rc u v
      { val := BitVec.ofNat 64 (r.1 % (2 ^ 32 : Nat)).toNat, flags := r.2, rng := rng }

def packOp (f : Alu) : AluOp := fun th a b _ =>
  if f.md.toNat < 2 then
    let rc := rcOf f th
    let F := packFmt { f with md := if f.md = 1#3 then 1#3 else 0#3 }
    let one := fun (x : Word64) (i : Nat) => F.finish rc f.sat false (uAt rc th.rng i) flNone (valRes (fp32.read (lo32 x).toNat))
    let r0 := one a 0
    let r1 := one b 1
    { val := BitVec.ofNat 64 (r0.1 + 2 ^ 16 * r1.1), flags := r0.2 ||| r1.2, rng := rngSteps rc 2 th.rng }
  else
    let one := fun (x : Word64) => (clampTo 16 (f.md == 3#3) (int32 false x) % (2 ^ 16 : Nat)).toNat
    { val := BitVec.ofNat 64 (one a + 2 ^ 16 * one b), rng := th.rng }

def unpackOp (f : Alu) : AluOp := fun th a _ _ =>
  let r : Nat → Nat × FpFlags := fun i =>
    match f.md.toNat with
    | 0 => fp32.finish rcRNE false false 0 flNone (valRes (fp16.read (elem a i)))
    | 1 => fp32.finish rcRNE false false 0 flNone (valRes (bf16.read (elem a i)))
    | 2 => ((BitVec.ofNat 16 (elem a i)).signExtend 32 |>.toNat, flNone)
    | _ => (elem a i, flNone)
  { val := cat32 (BitVec.ofNat 32 (r 1).1) (BitVec.ofNat 32 (r 0).1), flags := (r 0).2 ||| (r 1).2, rng := th.rng }

/-! ## The special-function lanes (R129) -/

/-- The core clock, from issue, in which the register of a thread of the packet becomes full: the threads pass in groups of
8, in ascending home lane. -/
def sfuClocks (p : Packet) (t : ThrRef) : Nat := p.thrs.findIdx (fun x => x.2 == t.lane) / 8 + 8

/-- A form of the special-function lanes; they serve this packet for ⌈p/8⌉ clocks. -/
def runSfu (f : Alu) (h : FVal → FRes) (s : State) : Out :=
  match s.cur with
  | none => .next s
  | some p =>
    let until' := coreClock s p.core + (p.thrs.length + 7) / 8
    let used := p.refs.any (takesPart (aluOpnds { kb := 0 } f) s)
    runAsync { kb := 0 } f true sfuClocks (sfuOp h)
      (if used then modCore s p.core (fun c => { c with sfuUntil := until' }) else s)

/-! ## The meanings -/

def execFadd (f : Alu) (s : State) : Out := runAlu {} f (fpOp f (fun rc a b _ => addRes rc a b)) s
def execFsub (f : Alu) (s : State) : Out := runAlu {} f (fpOp f (fun rc a b _ => addRes rc a (negate b))) s
def execFmul (f : Alu) (s : State) : Out := runAlu {} f (fpOp f (fun _ a b _ => mulRes a b)) s
def execFfma (f : Alu) (s : State) : Out := runAlu { kc := 1 } f (fpOp f fmaRes) s
def execFdiv (f : Alu) (s : State) : Out :=
  runAsync {} f true (fun _ _ => 12) (fpOp f (fun _ a b _ => divRes a b)) s
def execFmin (f : Alu) (s : State) : Out := runAlu {} f (pickOp false) s
def execFmax (f : Alu) (s : State) : Out := runAlu {} f (pickOp true) s
def execFcmp (f : Alu) (s : State) : Out := runAlu { kbit := 1 } f (fcmpOp f) s
def execFclass (f : Alu) (s : State) : Out :=
  runAlu { kb := 0 } f (pureOp (fun a _ _ => BitVec.ofNat 64 (classMask (lo32 a).toNat))) s
def execFscale (f : Alu) (s : State) : Out :=
  runAlu {} f (fun th a b c => fpOp f (fun _ x _ _ => scaleRes x (lo32 b).toInt) th a a c) s
def execFrnd (f : Alu) (s : State) : Out := runAlu { kb := 0 } f (frndOp f) s
def execHadd2 (f : Alu) (s : State) : Out := runAlu {} f (fp2Op f (fun rc a b _ => addRes rc a b)) s
def execHmul2 (f : Alu) (s : State) : Out := runAlu {} f (fp2Op f (fun _ a b _ => mulRes a b)) s
def execHfma2 (f : Alu) (s : State) : Out := runAlu { kc := 1 } f (fp2Op f fmaRes) s
def execHmin2 (f : Alu) (s : State) : Out := runAlu {} f (pick2Op f false) s
def execHmax2 (f : Alu) (s : State) : Out := runAlu {} f (pick2Op f true) s
def execHcmp2 (f : Alu) (s : State) : Out := runAlu { kbit := 2 } f (hcmpOp f) s
def execRcp (f : Alu) (s : State) : Out := runSfu f rcpRes s
def execRsq (f : Alu) (s : State) : Out := runSfu f rsqRes s
def execSqrt (f : Alu) (s : State) : Out :=
  runAsync { kb := 0 } f true (fun _ _ => 12) (fpOp f (fun _ a _ _ => sqrtRes a)) s
def execEx2 (f : Alu) (s : State) : Out := runSfu f ex2Res s
def execLg2 (f : Alu) (s : State) : Out := runSfu f lg2Res s
def execSin (f : Alu) (s : State) : Out := runSfu f sinRes s
def execCos (f : Alu) (s : State) : Out := runSfu f cosRes s
def execTanh (f : Alu) (s : State) : Out := runSfu f tanhRes s
def execFdot2 (f : Alu) (s : State) : Out := runAlu { kc := 1 } f (dotOp f) s
def execCvt (f : Alu) (s : State) : Out := runAlu { kb := 0 } f (cvtOp f) s
def execPack (f : Alu) (s : State) : Out := runAlu {} f (packOp f) s
def execUnpack (f : Alu) (s : State) : Out := runAlu { kb := 0, kd := 2 } f (unpackOp f) s

end Sys2Proof.Machine
end

