-- ==== Sys2Proof/Machine/GroupOps.lean ====
section
/-! DEFINITION. The rendezvous forms of a group: lane exchange, votes, reductions, scans, the execute mask and the uniform
file (R180 to R190). -/

namespace Sys2Proof.Machine

/-- The member mask: E1, or all lanes (R180). -/
def memberMask (mm : Option Word32) : LaneMask := mm.getD 0xFFFFFFFF#32

/-- The thread of a lane of the group at a rendezvous. -/
def laneRef (p : Packet) (gid lane : Nat) : ThrRef := { team := p.team, gid := gid, lane := lane }

/-- The lanes that have arrived at the rendezvous of a packet, with guard 1 or 0: its participants when it executes. -/
def arrivedLanes (s : State) (p : Packet) (gid : Nat) : List Nat :=
  groupLanes.filter (fun l => (arrivedAt (thrOf s (laneRef p gid l)) p.pc).isSome)

/-- Gives each present lane a result of one or two registers, full at once (R170). -/
def giveLanes (p : Packet) (gid dst : Nat) (wide : Bool) (f : Nat → Word64) (present : List Nat) (s : State) : State :=
  present.foldl (fun s l => modThr s (laneRef p gid l) (fun th =>
    if wide then putPair th dst (f l) else putReg th dst (lo32 (f l)))) s

/-- A present lane's operand of one or two registers. -/
def laneVal (s : State) (p : Packet) (gid n : Nat) (wide : Bool) (l : Nat) : Word64 :=
  let th := thrOf s (laneRef p gid l)
  if wide then pairVal th n else (regVal th n).setWidth 64

/-! ## XLANE, VOTE, PEERS -/

/-- The source lane of XLANE (R181), if there is one. -/
def xlaneFrom (mode l : Nat) (b : Int) : Option Nat :=
  match mode with
  | 0 => some (b % 32).toNat
  | 1 => some ((l + b) % 32).toNat
  | 2 => if 0 ≤ (l : Int) + b ∧ (l : Int) + b ≤ 31 then some ((l : Int) + b).toNat else none
  | _ => some (l ^^^ (b % 32).toNat)

/-- Operand b of XLANE: a constant in SB, signed for `.EDGE`, or each thread's register. -/
def xlaneB (b : Base) (s : State) (p : Packet) (gid l : Nat) : Int :=
  let edge := b.md.toNat % 4 == 2
  if b.md.getLsbD 3 then
    (if edge then ((b.sb.setWidth 6 : BitVec 6).toInt) else (b.sb.toNat % 32 : Nat))
  else
    let v := regVal (thrOf s (laneRef p gid l)) b.sb.toNat
    if edge then v.toInt else (v.toNat : Int)

def execXlane (b : Base) (mm : Option Word32) (s : State) : Out :=
  let w := b.md.getLsbD 2
  let o := baseOpnds b (if w then 2 else 1) (if b.md.getLsbD 3 then 0 else 1) (if w then 2 else 1)
  rendezvous o noIll false (memberMask mm) (fun p gid present s =>
    let val := fun l => match xlaneFrom (b.md.toNat % 4) l (xlaneB b s p gid l) with
      | some k => if present.contains k then laneVal s p gid b.sa.toNat w k else laneVal s p gid b.sa.toNat w l
      | none => laneVal s p gid b.sa.toNat w l
    .done (giveLanes p gid b.dst.toNat w val present s)) s

/-- A lane mask of the lanes of a list. -/
def maskOfLanes (ls : List Nat) : LaneMask := ls.foldl (fun m l => m ||| (1#32 <<< l)) 0#32

def voteVal (op : Nat) (present yes : List Nat) : Word32 :=
  match op with
  | 0 => if yes.isEmpty then 0#32 else 0xFFFFFFFF#32
  | 1 => if yes.length = present.length then 0xFFFFFFFF#32 else 0#32
  | 2 => maskOfLanes yes
  | _ => BitVec.ofNat 32 yes.length

def execVote (b : Base) (mm : Option Word32) (s : State) : Out :=
  let r := bitRef b.sa
  let o : Opnds := { g := b.g, srcs := [(r.1, b.ta)], dsts := [b.dst.toNat] }
  rendezvous o noIll false (memberMask mm) (fun p gid present s =>
    let yes := present.filter (fun l => (regVal (thrOf s (laneRef p gid l)) r.1).getLsbD r.2)
    .done (giveLanes p gid b.dst.toNat false (fun _ => (voteVal b.md.toNat present yes).setWidth 64) present s)) s

def peersVal (op : Nat) (present same : List Nat) : Word32 :=
  match op with
  | 0 => maskOfLanes same
  | 1 => if same.length = present.length then maskOfLanes present else 0#32
  | 2 => BitVec.ofNat 32 (same.headD 0)
  | _ => BitVec.ofNat 32 same.length

def execPeers (b : Base) (mm : Option Word32) (s : State) : Out :=
  let w := b.md.getLsbD 2
  rendezvous (baseOpnds b (if w then 2 else 1) 0 1) noIll false (memberMask mm) (fun p gid present s =>
    let v := laneVal s p gid b.sa.toNat w
    let val := fun l => (peersVal (b.md.toNat % 4) present (present.filter (fun k => v k == v l))).setWidth 64
    .done (giveLanes p gid b.dst.toNat false val present s)) s

/-! ## GRED and SCAN (R184, R185) -/

/-- The integer operations of R184, R228, by code: ADD, MIN, MAX, MINU, MAXU, AND, OR, XOR. -/
def intRed (op : Nat) (a b : Word32) : Word32 :=
  match op with
  | 0 => a + b
  | 1 => if a.sle b then a else b
  | 2 => if a.sle b then b else a
  | 3 => if a.ule b then a else b
  | 4 => if a.ule b then b else a
  | 5 => a &&& b
  | 6 => a ||| b
  | _ => a ^^^ b

def intIdentity (op : Nat) : Word32 :=
  match op with
  | 1 => 0x7FFFFFFF#32
  | 2 => 0x80000000#32
  | 3 => 0xFFFFFFFF#32
  | 5 => 0xFFFFFFFF#32
  | _ => 0#32

/-- The FP32 sum of R184: exact, rounded once under RNE, subnormals kept. -/
def fsumRes (vs : List FVal) : Nat × FpFlags :=
  let r := if vs.any isNan then FRes.nan flNV
    else match vs.filterMap (fun v => match v with | .inf n => some n | _ => none) with
      | n :: r => if r.any (· != n) then .nan flNV else .inf n flNone
      | [] => sumTerms rcRNE (vs.filterMap (fun v => match v with
          | .fin n m e => some ({ neg := n, m := m, e := e } : Term)
          | _ => none))
  fp32.finish rcRNE false false 0 flNone r

/-- minimumNumber or maximumNumber over a list of codes, with their flags (R155). -/
def fpickList (mx : Bool) : List Nat → Nat × FpFlags
  | [] => (0, flNone)
  | [x] => match fp32.read x with
    | .nan s => (fp32.nanCode, if s then flNV else flNone)
    | _ => (x, flNone)
  | x :: r =>
    let y := fpickList mx r
    let z := fp32.pick false mx x y.1
    (z.1, z.2 ||| y.2)

/-- The result and flags of GRED over the present values. -/
def gredVal (md : Nat) (vs : List Word32) : Word32 × FpFlags :=
  if md < 8 then (vs.foldl (intRed md) (intIdentity md), flNone)
  else
    let r : Nat × FpFlags := match md with
      | 8 => fsumRes (vs.map (fun v => fp32.read v.toNat))
      | 9 => fpickList false (vs.map (·.toNat))
      | _ => fpickList true (vs.map (·.toNat))
    (BitVec.ofNat 32 r.1, r.2)

def execGred (b : Base) (mm : Option Word32) (s : State) : Out :=
  rendezvous (baseOpnds b 1 0 1) noIll false (memberMask mm) (fun p gid present s =>
    let vs := present.map (fun l => regVal (thrOf s (laneRef p gid l)) b.sa.toNat)
    let r := gredVal b.md.toNat vs
    let s := giveLanes p gid b.dst.toNat false (fun _ => r.1.setWidth 64) present s
    .done (present.foldl (fun s l => modThr s (laneRef p gid l) (fun th => { th with fpc := raiseFlags th.fpc r.2 })) s)) s

def execScan (b : Base) (mm : Option Word32) (s : State) : Out :=
  let op := b.md.toNat % 8
  let ex := b.md.getLsbD 3
  rendezvous (baseOpnds b 1 0 1) noIll false (memberMask mm) (fun p gid present s =>
    let v := fun l => regVal (thrOf s (laneRef p gid l)) b.sa.toNat
    let val := fun l => (((present.filter (fun k => if ex then decide (k < l) else decide (k ≤ l))).map v).foldl (intRed op)
      (intIdentity op)).setWidth 64
    .done (giveLanes p gid b.dst.toNat false val present s)) s

/-! ## The execute mask (R187) and the uniform file (R188 to R190) -/

/-- Sets `%exm`: 0 makes the group HELD; the arrival test of R285 runs. -/
def writeExm (s : State) (team gid : Nat) (v : LaneMask) : State :=
  let s := modGrp s team gid (fun g => { g with exm := v, state := if v = 0#32 then .held else .active })
  groupTest s team gid

def execWrsrExm (b : Base) (s : State) : Out :=
  rendezvous (wrsrOpnds b) noIll true 0xFFFFFFFF#32 (fun p gid present s =>
    match present with
    | [] => .done s
    | l :: _ => .done (writeExm s p.team gid (lo32 (wrsrVal b s (laneRef p gid l))))) s

/-- Operand b of an S-form: an s register, or E1 extended with its sign. -/
def sformB (b : Base) (imm : Option Word32) (g : Group) : Word64 :=
  match imm with
  | some v => v.signExtend 64
  | none => sregOf g b.sb.toNat

/-- An S-form: once for the group when at least one participant is present. -/
def runSform (b : Base) (imm : Option Word32) (f : Word64 → Word64 → Word64) (s : State) : Out :=
  rendezvous { g := b.g } noIll false 0xFFFFFFFF#32 (fun p gid present s =>
    if present.isEmpty then .done s
    else
      let g := grpOf s p.team gid
      .done (modGrp s p.team gid (fun g' => setSreg g' b.dst.toNat (f (sregOf g b.sa.toNat) (sformB b imm g))))) s

def execSmov (b : Base) (imm : Option Word32) (s : State) : Out := runSform b imm (fun _ y => y) s
def execSadd (b : Base) (imm : Option Word32) (s : State) : Out := runSform b imm (fun x y => x + y) s
def execSsub (b : Base) (imm : Option Word32) (s : State) : Out := runSform b imm (fun x y => x - y) s
def execSmul (b : Base) (imm : Option Word32) (s : State) : Out := runSform b imm (fun x y => x * y) s
def execSand (b : Base) (imm : Option Word32) (s : State) : Out := runSform b imm (fun x y => x &&& y) s
def execSor (b : Base) (imm : Option Word32) (s : State) : Out := runSform b imm (fun x y => x ||| y) s
def execSxor (b : Base) (imm : Option Word32) (s : State) : Out := runSform b imm (fun x y => x ^^^ y) s

def execSshl (b : Base) (imm : Option Word32) (s : State) : Out :=
  runSform b imm (fun x y => if 64 ≤ y.toNat then 0#64 else x <<< y.toNat) s

def execSshr (b : Base) (imm : Option Word32) (s : State) : Out :=
  runSform b imm (fun x y =>
    if b.md.getLsbD 0 then x.sshiftRight (min y.toNat 63) else if 64 ≤ y.toNat then 0#64 else x >>> y.toNat) s

/-- The conditions of CMP at 64 bits. -/
def cmp64 (md : Nat) (a b : Word64) : Bool :=
  match md with
  | 0 => a == b
  | 1 => a != b
  | 2 => a.slt b
  | 3 => !a.slt b
  | 4 => a.ult b
  | 5 => !a.ult b
  | 6 => a.sle b
  | _ => !a.sle b

def execScmp (b : Base) (imm : Option Word32) (s : State) : Out :=
  runSform b imm (fun x y => BitVec.ofNat 64 (b2n (cmp64 (b.md.toNat % 8) x y))) s

def execS2v (b : Base) (s : State) : Out :=
  let w := b.md = 1#4
  perThread (baseOpnds b 0 0 (if w then 2 else 1)) noIll (fun p t s =>
    let v := thrSreg s t b.sa.toNat
    .done (modThr s t (fun th =>
      if w then putPair th b.dst.toNat v else putReg th b.dst.toNat (if b.md = 2#4 then hi32 v else lo32 v))) p.next) s

def execV2s (b : Base) (s : State) : Out :=
  let w := b.md.getLsbD 0
  let o : Opnds := { g := b.g, srcs := (List.range (if w then 2 else 1)).map (fun i => (b.sa.toNat + i, b.ta)) }
  rendezvous o noIll false 0xFFFFFFFF#32 (fun p gid present s =>
    let lane := if b.md.getLsbD 1 then present.head? else present.find? (· == b.sb.toNat)
    match lane with
    | some l => .done (modGrp s p.team gid (fun g => setSreg g b.dst.toNat (laneVal s p gid b.sa.toNat w l)))
    | none => .done s) s

end Sys2Proof.Machine
end

