-- ==== Sys2Proof/Machine/Memory.lean ====
section
/-! DEFINITION. The memory instructions (R223 to R232), SLD and SRD (R191), and the return of loads and atomics (R225). -/

namespace Sys2Proof.Machine

/-! ## Global accesses -/

/-- Whether an ownership request of the core for the line, from an earlier packet, has not come back: later accesses of the core to
the line wait for it. -/
def lineBusy (s : State) (p : Packet) (line : Nat) : Bool :=
  s.reqs.any (fun e => decide (e.1 < p.base) && e.2.core == p.core && e.2.line == line
    && (e.2.kind == .own || (e.2.kind == .prefetch && e.2.aop == 2)))

/-- An access of a thread to a line waits: for the line, or for the registration of the thread's own monitor on it (R293). -/
def accessWaits (s : State) (p : Packet) (t : ThrRef) (line : Nat) : Bool :=
  lineBusy s p line || (thrOf s t).mon == .arming line

/-- Checks 1 to 6 of R224 for one thread, then the access. -/
def withGlobal (p : Packet) (t : ThrRef) (s : State) (va : Word64) (width : Nat) (a : Acc) (k : Xl → State → ThrOut) : ThrOut :=
  match checkGlobal s p.core (thrCtx s t) va width a with
  | .fault f s => .failed s f
  | .held m s => .left (makeWait s t (.page m))
  | .ok x s =>
    if accessWaits s p t (x.pa / 128) then .left (makeWait s t .release) else k x s

/-- The lease of a fill, in ticks (R215): none keeps no copy. -/
def leaseFor (s : State) (t : ThrRef) (k : Nat) : Option (Option Nat) :=
  if k = 0 then none
  else if k = 7 then some none
  else some (some ((leaseOf (ctxOf s (thrCtx s t)) k).toNat * 256 * nsTicks))

/-- The request kind of a load: every access to a host-uncached page is UC (R205). -/
def loadKind (leaf : Word64) (ty : BitVec 2) : ReqKind :=
  if leafContract leaf = 4 || ty = 3#2 then .uc else if ty = 2#2 then .own else .read

/-- The covered set of an acquire or release access: the regions bound to its address as a lock word (R239). -/
def lockCover (s : State) (t : ThrRef) (va : Word64) : Option (List (Nat × Nat)) :=
  some (boundTo (teamOf s t.team) objLock va)

/-- An acquire access: the thread waits for the return, and acquires (R237). -/
def waitAcq (s : State) (t : ThrRef) (next : Word64) (id scope : Nat) (cover : Option (List (Nat × Nat))) : State :=
  let s := modThr s t (fun th => { th with stat := .waiting .acquire, pc := next, idleSince := thrClock s t })
  { s with acqs := s.acqs ++ [{ thr := t, req := id, scope := scope, cover := cover }] }

/-- Ends a form that returns data under request `id`, with its acquire if it has one. -/
def afterReturn (s : State) (p : Packet) (t : ThrRef) (id : Nat) (ord : BitVec 2) (scope : BitVec 3)
    (cover : Option (List (Nat × Nat))) : ThrOut :=
  if ord.getLsbD 0 then .left (waitAcq s t p.next id scope.toNat cover) else .done s p.next

def dstRegs (b : Base) (w : BitVec 3) : List Nat :=
  if b.dst = 0#10 then [] else (List.range (widthRegs w)).map (fun i => b.dst.toNat + i)

/-! ## LD and ST -/

def ldThread (b : Base) (m : MemWord) (disp : Option Word32) (p : Packet) (t : ThrRef) (s : State) : ThrOut :=
  let va := effAddr s t b m disp
  withGlobal p t s va (widthBytes m.width) { read := true, strict := m.ty == 2#2, kind := 1 } (fun x s =>
    let part : Part :=
      { thr := some t, off := x.pa % 128, width := widthBytes m.width, dst := b.dst.toNat, sx := m.sx }
    let s := modThr s t (fun th => dropRegs th (dstRegs b m.width))
    let (id, s) := joinReq s p (loadKind x.leaf m.ty) x va.toNat part 0 false (leaseFor s t m.lease.toNat)
    afterReturn s p t id m.ord m.scope (lockCover s t va))

def execLd (b : Base) (m : MemWord) (disp : Option Word32) (s : State) : Out :=
  thenIssue (perThread (memOpnds b m 0 (widthRegs m.width)) noIll (ldThread b m disp) s)

/-- Whether the packet is a fully coalesced access (R221): 32 threads, and lane i at word i of one line at 32 bits. -/
def fullyCoalesced (o : Opnds) (b : Base) (m : MemWord) (disp : Option Word32) (p : Packet) (s : State) : Bool :=
  m.width == 2#3 && p.refs.length == 32 && (match p.refs with
    | [] => false
    | t0 :: _ =>
      let a0 := effAddr s t0 b m disp
      a0.toNat % 128 == 0 && p.refs.all (fun t =>
        takesPart o s t && effAddr s t b m disp == a0 + BitVec.ofNat 64 (4 * t.lane)))

/-- A store into the core's L1: into an owned span, or as SI (R211, R212). -/
def storeL1 (s : State) (p : Packet) (t : ThrRef) (x : Xl) (va : Nat) (bs : List Byte) : State :=
  let line := x.pa / 128
  modL1 (makeL1Room s p.core line) p.core line (fun l =>
    let l := addAlias (l1Store l (x.pa % 128) bs) (teamOf s p.team).ctx (va / 128) x.leaf
    { l with writers := if l.writers.contains t then l.writers else l.writers ++ [t] })

/-- A store of one thread, performed under its type (R211, R226). The OWN and UC stores of a packet to one line go together, as one
request for all the words that they touch (R213, R221). A fully coalesced one looks at the whole line, so that its lanes
are one event (R221), and clears the poison of the line when it is performed: in L1 here, or at its home (R222, R233). -/
def storeGlobal (s : State) (p : Packet) (t : ThrRef) (x : Xl) (va width val : Nat) (ty : BitVec 2) (lease : Nat)
    (full : Bool) : State :=
  let line := x.pa / 128
  let words := wordMask (x.pa % 128) width
  let bs := leBytes val width
  let l := l1Of s p.core line
  let part : Part := { thr := some t, off := x.pa % 128, width := width, val := val % 2 ^ (8 * width), fcoal := full }
  if leafContract x.leaf = 4 || ty = 3#2 then
    joinWrite s p x va part bs aopUc
  else if ty = 2#2 then (joinReq s p .own x va part 1 false none).2
  else if (if full then 0xFFFFFFFF#32 else words) &&& ~~~l.own = 0#32 then
    storeL1 (if full then clearPoison s line else s) p t x va bs
  else
    let s := dropOther s p.core line false
    if ty = 0#2 && lease ≠ 0 then storeL1 (if full then clearPoison s line else s) p t x va bs
    else
      let s := modL1 s p.core line (fun l => l1Through l (x.pa % 128) bs)
      joinWrite (spoil s p.core line words) p x va part bs 0

/-- What a store asks of its page. -/
def stAccess (m : MemWord) (full : Bool) : Acc := { write := true, strict := m.ty == 2#2, kind := 2, full := full }

/-- The store of one thread, after its release. The releases of a fully coalesced store are made before, for all its lanes. -/
def stThread (o : Opnds) (b : Base) (m : MemWord) (disp : Option Word32) (p : Packet) (t : ThrRef) (s : State) : ThrOut :=
  let va := effAddr s t b m disp
  let full := fullyCoalesced o b m disp p s
  withGlobal p t s va (widthBytes m.width) (stAccess m full) (fun x s =>
    let val := regsNat (thrOf s t) b.dst.toNat (widthRegs m.width)
    let put := fun (s : State) => ThrOut.done (storeGlobal s p t x va.toNat (widthBytes m.width) val m.ty m.lease.toNat full) p.next
    if m.ord = 2#2 then
      (if !full then afterRelease s t m.scope.toNat (lockCover s t va) put
       else if (thrOf s t).linklost then .fault { code := fLINK_DOWN, lost := true } else put s)
    else put s)

/-- The releases of the lanes of a fully coalesced store: whether all are over. -/
def releaseAll (b : Base) (m : MemWord) (disp : Option Word32) : List ThrRef → State → Bool × State
  | [], s => (true, s)
  | t :: r, s =>
    match release s t m.scope.toNat (lockCover s t (effAddr s t b m disp)) with
    | .done s' => releaseAll b m disp r s'
    | .wait s' => (false, (releaseAll b m disp r s').2)
    | .fault => releaseAll b m disp r s

/-- A fully coalesced store that releases: its lanes wait until the releases of all of them are over, so that it stays one event (R221).
None where it may go on. -/
def coalescedWait (o : Opnds) (b : Base) (m : MemWord) (disp : Option Word32) (s : State) : Option State × State :=
  match s.cur with
  | none => (none, s)
  | some p =>
    match p.refs with
    | [] => (none, s)
    | t :: _ =>
      if m.ord != 2#2 || !fullyCoalesced o b m disp p s then (none, s)
      else match checkGlobal s p.core (thrCtx s t) (effAddr s t b m disp) (widthBytes m.width) (stAccess m true) with
        | .ok x s' =>
          if accessWaits s' p t (x.pa / 128) then (none, s)
          else
            let y := releaseAll b m disp p.refs s'
            if y.1 then (none, p.refs.foldl (fun s t => modThr s t (fun th => { th with mates := [] })) y.2)
            else (some (p.refs.foldl (fun s t => makeWait (modThr s t (fun th => { th with mates := p.refs })) t .release) y.2), s)
        | _ => (none, s)

def execSt (b : Base) (m : MemWord) (disp : Option Word32) (s : State) : Out :=
  let o := memOpnds b m (widthRegs m.width) 0
  let o := { o with dsts := [] }
  match coalescedWait o b m disp s with
  | (some t, _) => .next t
  | (none, s) => thenIssue (perThread o noIll (stThread o b m disp) s)

/-! ## ATOM, RED and PREF -/

/-- Operand b and the CAS new value of an atomic (R223). -/
def atomArgs (th : Thread) (b : Base) (w : BitVec 3) : Nat × Nat :=
  let k := widthRegs w
  (regsNat th b.sb.toNat k, regsNat th (b.sb.toNat + k) k)

def atomThread (b : Base) (m : MemWord) (disp : Option Word32) (p : Packet) (t : ThrRef) (s : State) : ThrOut :=
  let va := effAddr s t b m disp
  withGlobal p t s va (widthBytes m.width) { read := true, write := true, strict := true, kind := 3 } (fun x s =>
    let go := fun (s : State) =>
      let args := atomArgs (thrOf s t) b m.width
      let part : Part :=
        { thr := some t, off := x.pa % 128, width := widthBytes m.width, dst := b.dst.toNat, val := args.1, nv := args.2 }
      let s := modThr (spoil s p.core (x.pa / 128) (wordMask (x.pa % 128) (widthBytes m.width))) t
        (fun th => dropRegs th (dstRegs b m.width))
      let (id, s) := joinReq s p .atomic x va.toNat part b.md.toNat (m.width == 3#3) none
      afterReturn s p t id m.ord m.scope (lockCover s t va)
    if m.ord.getLsbD 1 then afterRelease s t m.scope.toNat (lockCover s t va) go else go s)

def execAtom (b : Base) (m : MemWord) (disp : Option Word32) (s : State) : Out :=
  thenIssue (perThread (atomOpnds b m) noIll (atomThread b m disp) s)

def redThread (b : Base) (m : MemWord) (disp : Option Word32) (p : Packet) (t : ThrRef) (s : State) : ThrOut :=
  let va := effAddr s t b m disp
  withGlobal p t s va (widthBytes m.width) { write := true, strict := true, kind := 3 } (fun x s =>
    let go := fun (s : State) =>
      let part : Part :=
        { thr := some t, off := x.pa % 128, width := widthBytes m.width,
          val := regsNat (thrOf s t) b.dst.toNat (widthRegs m.width) }
      let s := spoil s p.core (x.pa / 128) (wordMask (x.pa % 128) (widthBytes m.width))
      ThrOut.done (joinReq s p .reduce x va.toNat part b.md.toNat (m.width == 3#3) none).2 p.next
    if m.ord = 2#2 then afterRelease s t m.scope.toNat (lockCover s t va) go else go s)

def execRed (b : Base) (m : MemWord) (disp : Option Word32) (s : State) : Out :=
  let o := memOpnds b m (widthRegs m.width) 0
  thenIssue (perThread { o with dsts := [] } noIll (redThread b m disp) s)

/-- A prefetch that would fail a check, or whose page is host-uncached, or whose line is poisoned, is dropped (R231, R222). So is one to
a line under an ownership request, or to a page that is being moved (DESIGN CHOICE, log entry 89); one dropped leaves A as it was
(R391). -/
def prefThread (b : Base) (m : MemWord) (disp : Option Word32) (p : Packet) (t : ThrRef) (s : State) : ThrOut :=
  let va := effAddr s t b m disp
  match checkGlobal s p.core (thrCtx s t) va (widthBytes m.width) { read := true, kind := 1 } with
  | .ok x s' =>
    let words := wordMask (x.pa % 128) (widthBytes m.width)
    if leafContract x.leaf = 4 || poisoned s' (x.pa / 128) words || lineBusy s' p (x.pa / 128) then .done s p.next
    else if (thrOf s' t).mon == .arming (x.pa / 128) then .left (makeWait s t .release)
    else
      let part : Part := { thr := none, off := x.pa % 128, width := widthBytes m.width }
      .done (joinReq s' p .prefetch x va.toNat part (if m.ty = 2#2 then 2 else if m.ty = 3#2 then 3 else 0) false
        (leaseFor s' t m.lease.toNat)).2 p.next
  | .fault f s' => .done (if f.code = fLINK_DOWN then s else s') p.next
  | _ => .done s p.next

def execPref (b : Base) (m : MemWord) (disp : Option Word32) (s : State) : Out :=
  let o := memOpnds b m 0 0
  thenIssue (perThread o noIll (prefThread b m disp) s)

/-! ## The buffers (R199 to R201, R224 to R227) -/

/-- The team whose A-buffer cluster-core index `c` names, if the cluster has that core (R195, R201). -/
def abufHolder (s : State) (team c : Nat) : Option Nat :=
  let tm := teamOf s team
  if tm.w * tm.h ≤ c then none
  else (s.teams.find? (fun e => e.2.ctx == tm.ctx && e.2.node == tm.node && e.2.cluster == tm.cluster && !e.2.freed
    && e.2.cly * e.2.w + e.2.clx == c)).map (·.1)

/-- The A-buffer holder and offset of an address, or none where R200 is broken. -/
def abufAt (s : State) (team : Nat) (a : Word64) : Option (Nat × Nat) :=
  if 2 ^ 22 ≤ a.toNat then none
  else match abufHolder s team (a.toNat / 2 ^ 18) with
    | none => none
    | some k => if a.toNat % 2 ^ 18 < (teamOf s k).hdr.abuf then some (k, a.toNat % 2 ^ 18) else none

/-- The latency of an A-buffer access from a team's core to that of the holder (R25). -/
def abufLat (s : State) (team holder : Nat) : Lat :=
  let c := (teamOf s team).core
  let d := (teamOf s holder).core
  if c = d then .clk 6 else .ns (20 + 2 * (absDiff (coreX c) (coreX d) + absDiff (coreY c) (coreY d)))

/-- Data taken from a buffer that returns after its latency and a free delay (R26, log entry 12). -/
def timedReturn (s : State) (p : Packet) (part : Part) (l : Lat) : Nat × State :=
  let (d, s) := contend s
  let (id, s) := newId s
  let r : Req :=
    { id := id, kind := .uc, core := p.core, ctx := (teamOf s p.team).ctx, line := 0, parts := [part],
      due := match l with | .clk _ => s.now | .ns n => s.now + n * nsTicks + d
      dueClk := match l with | .clk n => some (coreClock s p.core + (n + d)) | .ns _ => none
      performed := true }
  (id, afterLat { s with reqs := tput id r s.reqs } (coreQuad p.core) l d (.loadReturn id))

/-- Checks 1 and 2 of R224 on an A-buffer address. -/
def withAbuf (t : ThrRef) (s : State) (a : Word64) (width : Nat) (k : Nat → Nat → ThrOut) : ThrOut :=
  if a.toNat % width ≠ 0 then .fault (fltAt fMISALIGN a)
  else match abufAt s t.team a with
    | none => .fault (fltAt fBUFFER_ACCESS a)
    | some x => k x.1 x.2

def abufBad (s : State) (holder off n : Nat) : Bool :=
  (teamOf s holder).apoison.any (fun w => decide (off / 4 ≤ w ∧ w ≤ (off + n - 1) / 4))

def putAbuf (s : State) (holder off : Nat) (bs : List Byte) : State :=
  wakeBuffer (modTeam s holder (fun tm => { tm with abuf := bufWriteN tm.abuf off bs })) holder

def ldaThread (b : Base) (m : MemWord) (disp : Option Word32) (p : Packet) (t : ThrRef) (s : State) : ThrOut :=
  let a := effAddr s t b m disp
  let n := widthBytes m.width
  withAbuf t s a n (fun k off =>
    let part : Part :=
      { thr := some t, off := 0, width := n, dst := b.dst.toNat, sx := m.sx,
        got := some (bufNat (teamOf s k).abuf off n, abufBad s k off n) }
    let s := modThr s t (fun th => dropRegs th (dstRegs b m.width))
    let (id, s) := timedReturn s p part (abufLat s t.team k)
    afterReturn s p t id m.ord m.scope (some []))

def execLda (b : Base) (m : MemWord) (disp : Option Word32) (s : State) : Out :=
  perThread (memOpnds b m 0 (widthRegs m.width)) noIll (ldaThread b m disp) s

/-- STA: the write into the buffer of the core named. A word of which every byte is written is no longer poisoned. -/
def staThread (b : Base) (m : MemWord) (disp : Option Word32) (p : Packet) (t : ThrRef) (s : State) : ThrOut :=
  let a := effAddr s t b m disp
  let n := widthBytes m.width
  withAbuf t s a n (fun k off =>
    let put := fun (s : State) =>
      let s := putAbuf s k off (leBytes (regsNat (thrOf s t) b.dst.toNat (widthRegs m.width)) n)
      ThrOut.done (if n < 4 then s else modTeam s k (fun tm =>
        { tm with apoison := tm.apoison.filter (fun w => !decide (off / 4 ≤ w ∧ w < (off + n) / 4)) })) p.next
    if m.ord = 2#2 then afterRelease s t m.scope.toNat (some []) put else put s)

def execSta (b : Base) (m : MemWord) (disp : Option Word32) (s : State) : Out :=
  let o := memOpnds b m (widthRegs m.width) 0
  perThread { o with dsts := [] } noIll (staThread b m disp) s

/-- An atomic at an A-buffer atomic unit (R229). At a poisoned word it is not performed (R222). -/
def atomaThread (b : Base) (m : MemWord) (disp : Option Word32) (p : Packet) (t : ThrRef) (s : State) : ThrOut :=
  let a := effAddr s t b m disp
  let n := widthBytes m.width
  withAbuf t s a n (fun k off =>
    let go := fun (s : State) =>
      let args := atomArgs (thrOf s t) b m.width
      let old := bufNat (teamOf s k).abuf off n
      let bad := abufBad s k off n
      let s := if !bad && atomWrites b.md.toNat old args.1 then
          putAbuf s k off (leBytes (atomVal b.md.toNat (8 * n) old args.1 args.2) n) else s
      let part : Part := { thr := some t, off := 0, width := n, dst := b.dst.toNat, got := some (old, bad) }
      let s := modThr s t (fun th => dropRegs th (dstRegs b m.width))
      let (id, s) := timedReturn s p part (abufLat s t.team k)
      afterReturn s p t id m.ord m.scope (some [])
    if m.ord.getLsbD 1 then afterRelease s t m.scope.toNat (some []) go else go s)

def execAtoma (b : Base) (m : MemWord) (disp : Option Word32) (s : State) : Out :=
  perThread (atomOpnds b m) noIll (atomaThread b m disp) s

/-- The C-buffer word of an address of a thread (R200): its tile must be declared and its row the thread's home lane. -/
def cbufAt (s : State) (t : ThrRef) (a : Word64) : Option Nat :=
  if 2 ^ 17 ≤ a.toNat then none
  else if (teamOf s t.team).hdr.cbuf ≤ a.toNat / 4096 || a.toNat % 4096 / 128 ≠ t.lane then none
  else some (a.toNat / 4)

def crowOf (tm : Team) (tile row : Nat) : CRow := tgetD tm.crows (tile * 32 + row) {}

/-- The checks of LDC and STC; on an empty row the thread waits, or raises EMPTY_READ under TA (R224, R227). -/
def withCrow (b : Base) (t : ThrRef) (s : State) (a : Word64) (width : Nat) (k : Nat → ThrOut) : ThrOut :=
  if a.toNat % width ≠ 0 then .fault (fltAt fMISALIGN a)
  else match cbufAt s t a with
    | none => .fault (fltAt fBUFFER_ACCESS a)
    | some w =>
      if 0 < (crowOf (teamOf s t.team) (w / 1024) t.lane).out then
        (if b.ta then .fault (flt fEMPTY_READ) else .left (makeWait s t (.cRow (w / 1024) t.lane)))
      else k w

def cbufNat (tm : Team) (w : Nat) : Nat → Nat
  | 0 => 0
  | k + 1 => (tgetD tm.cbuf w 0#32).toNat + 2 ^ 32 * cbufNat tm (w + 1) k

def cbufPut (c : Tab Word32) (w : Nat) : List Word32 → Tab Word32
  | [] => c
  | x :: r => cbufPut (tset 0#32 w x c) (w + 1) r

def ldcThread (b : Base) (m : MemWord) (disp : Option Word32) (p : Packet) (t : ThrRef) (s : State) : ThrOut :=
  let a := effAddr s t b m disp
  let n := widthBytes m.width
  withCrow b t s a n (fun w =>
    let tm := teamOf s t.team
    let bad := (crowOf tm (w / 1024) t.lane).poison || (List.range (n / 4)).any (fun i => tm.cpoison.contains (w + i))
    let part : Part :=
      { thr := some t, off := 0, width := n, dst := b.dst.toNat, got := some (cbufNat tm w (n / 4), bad) }
    let s := modThr s t (fun th => dropRegs th (dstRegs b m.width))
    let (id, s) := timedReturn s p part (.clk 6)
    afterReturn s p t id m.ord m.scope (some []))

/-- With TA the base is not a source that must be full for the C row's sake: TA governs both (R223). -/
def execLdc (b : Base) (m : MemWord) (disp : Option Word32) (s : State) : Out :=
  perThread (memOpnds b m 0 (widthRegs m.width)) noIll (ldcThread b m disp) s

def stcThread (b : Base) (m : MemWord) (disp : Option Word32) (p : Packet) (t : ThrRef) (s : State) : ThrOut :=
  let a := effAddr s t b m disp
  let n := widthBytes m.width
  withCrow b t s a n (fun w =>
    let put := fun (s : State) =>
      ThrOut.done (modTeam s t.team (fun tm =>
        { tm with
          cbuf := cbufPut tm.cbuf w (valRegs (regsNat (thrOf s t) b.dst.toNat (widthRegs m.width)) (n / 4))
          cpoison := tm.cpoison.filter (fun i => !decide (w ≤ i ∧ i < w + n / 4)) })) p.next
    if m.ord = 2#2 then afterRelease s t m.scope.toNat (some []) put else put s)

def execStc (b : Base) (m : MemWord) (disp : Option Word32) (s : State) : Out :=
  let o := memOpnds b m (widthRegs m.width) 0
  perThread { o with dsts := [] } noIll (stcThread b m disp) s

/-! ## INVL and WB (R232) -/

/-- The physical lines of a virtual range, as intervals; pages that do not translate are passed over. -/
def rangeLines (s : State) (ctx a len : Nat) : List (Nat × Nat) :=
  if len = 0 then []
  else
    let first := a / 65536
    let last := min ((a + len - 1) / 65536) (2 ^ 40 - 1)
    (List.range (last + 1 - first)).filterMap (fun i =>
      let page := first + i
      let lo := max a (page * 65536) - page * 65536
      let hi := min (a + len - 1) (page * 65536 + 65535) - page * 65536
      match walk s ctx (page * 65536) with
      | .leaf e level _ =>
        let pa := leafPa e level (page * 65536)
        some ((pa + lo) / 128, (pa + hi) / 128)
      | .absent _ _ => none)

/-- The bytes that an INVL or WB names; none for every line. -/
def rangeNamed (s : State) (t : ThrRef) (b : Base) (m : MemWord) : Option (Nat × Nat) :=
  if b.md.getLsbD 0 then none
  else
    let a := addrBase s t b m.bs + m.off.signExtend 64
    let len := if b.md.getLsbD 1 then lo32 (thrSreg s t b.sb.toNat) else regVal (thrOf s t) b.sb.toNat
    some (a.toNat, len.toNat)

/-- The walks of a range read its tables at their homes (R213). -/
def rangeTouch (s : State) (ctx : Nat) : Option (Nat × Nat) → State
  | none => s
  | some (a, len) =>
    if len = 0 then s
    else
      let first := a / 65536
      let last := min ((a + len - 1) / 65536) (2 ^ 40 - 1)
      (List.range (last + 1 - first)).foldl (fun s i => walkTouch s ctx ((first + i) * 65536) 4) s

/-- Whether an INVL or WB acts on a line. -/
def rangeHolds (s : State) (ctx : Nat) : Option (Nat × Nat) → Nat → Bool
  | none, _ => true
  | some (a, len), l => (rangeLines s ctx a len).any (fun r => decide (r.1 ≤ l ∧ l ≤ r.2))

/-- INVL and WB of one thread: the dirty bytes in the range start home, under INVL the lines leave L1 with them, and the thread goes on
once those write-backs, and earlier ones of the core to those lines, are performed. -/
def rangeThread (inv : Bool) (b : Base) (m : MemWord) (p : Packet) (t : ThrRef) (s : State) : ThrOut :=
  let core := thrCore s t
  let finish := fun (s : State) => ThrOut.done (modThr s t (fun th => { th with rel := none })) p.next
  match (thrOf s t).rel with
  | none =>
    let rg := rangeNamed s t b m
    let s := rangeTouch s (thrCtx s t) rg
    let on := rangeHolds s (thrCtx s t) rg
    let ls := ((coreOf s core).l1.map (·.1)).filter on
    let s := ls.foldl (fun s l => if inv then dropLine s core l else startWriteBack s core l (BitVec.allOnes 128)) s
    let s := if inv then spoilCopies s core (fun r => on r.line) else s
    let ids := (s.reqs.filter (fun e => e.2.kind == .writeBack && e.2.core == core && on e.2.line
      && !e.2.performed)).map (·.1)
    if ids.isEmpty then finish s
    else .left (makeWait (modThr s t (fun th => { th with rel := some { ids := ids } })) t .release)
  | some w => if idsDone s w.ids then finish s else .left (makeWait s t .release)

/-- The registers of INVL and WB: the base, and the length in a v register. -/
def rangeOpnds (b : Base) (m : MemWord) : Opnds where
  g := b.g
  srcs := if b.md.getLsbD 0 then []
    else baseSrcs b m.bs ++ (if b.md.getLsbD 1 then [] else [(b.sb.toNat, b.tb)])

def execInvl (b : Base) (m : MemWord) (s : State) : Out := perThread (rangeOpnds b m) noIll (rangeThread true b m) s
def execWb (b : Base) (m : MemWord) (s : State) : Out := perThread (rangeOpnds b m) noIll (rangeThread false b m) s

/-- L1_EVICTION (R217): the line is written back and dropped. A line under an ownership request is not evicted. -/
def execL1Eviction (core line : Nat) (s : State) : Out := .next (dropLine s core line)

/-! ## SLD and SRD (R191) -/

/-- The address of an SLD or SRD: sA + OFF modulo 2^64. -/
def sldAddr (s : State) (team gid : Nat) (b : Base) (m : MemWord) : Word64 :=
  sregOf (grpOf s team gid) b.sa.toNat + m.off.signExtend 64

/-- The access of a rendezvous falls on the lowest present lane (R174): it faults there, or that lane waits and arrives
again. -/
def withGroup (p : Packet) (gid l : Nat) (s : State) (va : Word64) (a : Acc) (k : Xl → State → RvOut) : RvOut :=
  let t := laneRef p gid l
  match checkGlobal s p.core (teamOf s p.team).ctx va 8 a with
  | .fault f s => .failed s [(l, f)]
  | .held m s => .left (makeWait s t (.page m))
  | .ok x s => if accessWaits s p t (x.pa / 128) then .left (makeWait s t .release) else k x s

def execSld (b : Base) (m : MemWord) (s : State) : Out :=
  thenIssue (rendezvous { g := b.g } noIll false 0xFFFFFFFF#32 (fun p gid present s =>
    match present with
    | [] => .done s
    | l :: _ =>
      let va := sldAddr s p.team gid b m
      withGroup p gid l s va { read := true, strict := m.ty == 2#2, kind := 1 } (fun x s =>
        let t := laneRef p gid l
        let part : Part :=
          { thr := some t, off := x.pa % 128, width := 8, dst := b.dst.toNat, sld := true }
        let (id, s) := joinReq s p (loadKind x.leaf m.ty) x va.toNat part 0 false (leaseFor s t m.lease.toNat)
        let s := modGrp s p.team gid (fun g => { g with sld := some id })
        .left (if m.ord.getLsbD 0 then
            { s with acqs := s.acqs ++ [{ thr := t, req := id, scope := m.scope.toNat, cover := lockCover s t va }] }
          else s))) s)

/-- The releases of the present lanes, one after another; the first that must wait does so and arrives again. -/
def releaseLanes (p : Packet) (gid scope : Nat) (cover : Option (List (Nat × Nat))) : List Nat → State → (State → RvOut) → RvOut
  | [], s, k => k s
  | l :: r, s, k =>
    match release s (laneRef p gid l) scope cover with
    | .done s' => releaseLanes p gid scope cover r s' k
    | .wait s' => .left (makeWait s' (laneRef p gid l) .release)
    | .fault => .fault [(l, { code := fLINK_DOWN, lost := true })]

/-- SRD (R191). Its store counts as an access of the lowest present lane (DESIGN CHOICE, log entry 74). -/
def execSrd (b : Base) (m : MemWord) (s : State) : Out :=
  thenIssue (rendezvous { g := b.g } noIll false 0xFFFFFFFF#32 (fun p gid present s =>
    match present with
    | [] => .done s
    | l :: _ =>
      let va := sldAddr s p.team gid b m
      let t := laneRef p gid l
      withGroup p gid l s va { write := true, strict := m.ty == 2#2, kind := 2 } (fun x s =>
        let val := (sregOf (grpOf s p.team gid) b.sb.toNat).toNat
        let put := fun (s : State) => RvOut.done (storeGlobal s p t x va.toNat 8 val m.ty m.lease.toNat false)
        if m.ord = 2#2 then releaseLanes p gid m.scope.toNat (lockCover s t va) present s put else put s)) s)

end Sys2Proof.Machine
end

