-- ==== Sys2Proof/Machine/Ordering.lean ====
section
/-! DEFINITION. FENCE, the binding table, ACQ and REL (R238, R239, R248 to R251), and GSYNC (R186). -/

namespace Sys2Proof.Machine

/-- The acquire of a thread that must first see its earlier loads and atomics return (R248). -/
def acquireNow (s : State) (t : ThrRef) (scope : Nat) (cover : Option (List (Nat × Nat))) (next : Word64) : ThrOut :=
  if returnsOut s t then .left (makeWait s t .returns) else .done (acquire s t scope cover) next

/-- FENCE: Release for MOD<1>, then Acquire for MOD<0>, over every address. -/
def execFence (b : Base) (s : State) : Out :=
  perThread { g := b.g } noIll (fun p t s =>
    let acq := fun (s : State) =>
      if b.md.getLsbD 0 then acquireNow s t b.sb.toNat none p.next else ThrOut.done s p.next
    if b.md.getLsbD 1 then afterRelease s t b.sb.toNat none acq else acq s) s

/-! ## The binding table -/

/-- The identity of an object of a kind: the barrier register, the value of an s register, or 0 (R249, R251). -/
def objectOf (s : State) (t : ThrRef) (kind sel : Nat) : Word64 :=
  if kind = objBar then BitVec.ofNat 64 (sel % 16)
  else if kind = objStep then 0#64
  else thrSreg s t (sel % 256)

/-- The checks of BIND, in order (R249). -/
def bindFault (s : State) (t : ThrRef) (kind : Nat) (base len obj : Word64) : Option Flt :=
  let tm := teamOf s t.team
  if base.toNat % 128 ≠ 0 || len.toNat % 128 ≠ 0 || (kind == objWord && obj.toNat % 8 != 0)
      || (kind == objLock && obj.toNat % 4 != 0) then some (flt fMISALIGN)
  else if 2 ^ 56 ≤ base.toNat || decide (2 ^ 56 < base.toNat + len.toNat) then some (flt fPAGE_PERM)
  else if kind == objBar && decide (tm.hdr.bars ≤ obj.toNat) then some (flt fBAR_INVALID)
  else if kind == objQueue && (decide (4096 ≤ obj.toNat) || (queueAt s obj.toNat).state == .free
      || (queueAt s obj.toNat).owner != tm.ctx) then some { code := fQUEUE_FAULT, addr := obj }
  else none

/-- The new entry: a length of 0 empties it. -/
def bindEntry (s : State) (team entry kind : Nat) (base len obj : Word64) : State :=
  modTeam s team (fun tm =>
    { tm with binds := if len = 0#64 then tdel entry tm.binds
        else tput entry { base := base.toNat, len := len.toNat, kind := BitVec.ofNat 3 kind, obj := obj } tm.binds })

def execBind (b : Base) (e1 : Word32) (s : State) : Out :=
  oncePerPacket { g := b.g } noIll (fun _ t s =>
    let base := thrSreg s t b.sa.toNat
    let len := thrSreg s t b.sb.toNat
    let obj := objectOf s t b.md.toNat e1.toNat
    match bindFault s t b.md.toNat base len obj with
    | some f => .fault f
    | none => .done (bindEntry s t.team b.dst.toNat b.md.toNat base len obj)) (fun _ s => s) s

def execUnbind (b : Base) (s : State) : Out :=
  oncePerPacket { g := b.g } noIll (fun _ t s =>
    .done (modTeam s t.team (fun tm =>
      { tm with binds := if b.md.getLsbD 0 then [] else tdel b.dst.toNat tm.binds }))) (fun _ s => s) s

def execAcq (b : Base) (s : State) : Out :=
  perThread { g := b.g } noIll (fun p t s =>
    let obj := objectOf s t b.md.toNat b.sa.toNat
    acquireNow s t b.sb.toNat (some (boundTo (teamOf s t.team) b.md.toNat obj)) p.next) s

def execRel (b : Base) (s : State) : Out :=
  perThread { g := b.g } noIll (fun p t s =>
    let obj := objectOf s t b.md.toNat b.sa.toNat
    afterRelease s t b.sb.toNat (some (boundTo (teamOf s t.team) b.md.toNat obj)) (fun s => .done s p.next)) s

/-! ## GSYNC (R186) -/

/-- What a participant of a GSYNC waits for before it acts as a FENCE.AR at CORE scope: accesses to be performed, then returns. -/
def gsyncWait (s : State) (t : ThrRef) : Option WaitWhy :=
  if (reqsOf s t).any (fun r => !r.performed) then some .release else if returnsOut s t then some .returns else none

/-- A participant, present or not, whose accesses are not all performed and returned waits and arrives again; with all of them
so, one whose LINKLOST is set takes LINK_DOWN as its release does (R237, R420). -/
def execGsync (b : Base) (mm : Option Word32) (s : State) : Out :=
  rendezvous { g := b.g } noIll false (memberMask mm) (fun p gid _ s =>
    let ls := arrivedLanes s p gid
    let late := ls.filter (fun l => (gsyncWait s (laneRef p gid l)).isSome)
    if !late.isEmpty then
      .left (late.foldl (fun s l => makeWait s (laneRef p gid l) ((gsyncWait s (laneRef p gid l)).getD .returns)) s)
    else match ls.filter (fun l => (thrOf s (laneRef p gid l)).linklost) with
      | [] => .done s
      | lost => .fault (lost.map (fun l => (l, { code := fLINK_DOWN, lost := true })))) s

end Sys2Proof.Machine
end

