-- ==== Sys2Proof/Machine/Narrow.lean ====
section
/-! DEFINITION. Element formats, packing, block scales, quantisation and decoding (R72 to R92), the rotation of Glaze (R100 to
R105), and the fields of reservation records (R108, R109, R260 to R262). -/

namespace Sys2Proof.Machine

/-! ## Element formats (R72 to R80) -/

/-- The floating-point format of an element code. -/
def floatFmt (code : Nat) : Option FFmt :=
  match code with
  | 0 => some fp32
  | 1 => some bf16
  | 2 => some fp16
  | 3 => some e4m3
  | 4 => some e5m2
  | 5 => some e2m3
  | 6 => some e3m2
  | 7 => some e2m1
  | _ => none

/-- Bits of an element (R72). -/
def elemBits (code : Nat) : Nat :=
  match code with
  | 0 => 32
  | 1 => 16
  | 2 => 16
  | 5 => 6
  | 6 => 6
  | 7 => 4
  | 9 => 4
  | 11 => 32
  | _ => 8

def fmtDS8 : Nat := 10

/-- The element `k` of a packed run (R80), from a reader of bytes. -/
def elemAt (code : Nat) (rd : Nat → Byte) (k : Nat) : Nat :=
  let b := elemBits code
  let lo := k * b / 8
  let n := (k * b + b - 1) / 8 - lo + 1
  leNat ((List.range n).map (fun i => rd (lo + i))) / 2 ^ (k * b % 8) % 2 ^ b

/-- A run of elements as one number, the first in the low bits (R80). -/
def packNat (code : Nat) : List Nat → Nat
  | [] => 0
  | x :: r => x % 2 ^ elemBits code + 2 ^ elemBits code * packNat code r

def packElems (code : Nat) (xs : List Nat) : List Byte := leBytes (packNat code xs) (xs.length * elemBits code / 8)

/-! ### DS8 (R77 to R79) -/

/-- A term of DS8 in units of 2^-6: 0 where its shift is 7. -/
def ds8Term (sign : Bool) (h : Nat) : Int := if h = 7 then 0 else if sign then -((2 ^ (6 - h) : Nat) : Int) else ((2 ^ (6 - h) : Nat) : Int)

/-- The value of a DS8 byte in units of 2^-6 (R77). -/
def ds8Val (x : Nat) : Int := ds8Term (x / 128 % 2 == 1) (x / 16 % 8) + ds8Term (x / 8 % 2 == 1) (x % 8)

/-- Whether some byte has the magnitude `m` in units of 2^-6. -/
def ds8Has (m : Nat) : Bool := (List.range 256).any (fun x => ds8Val x == (m : Int))

/-- The canonical byte of a magnitude and sign (R78): zero; one term; two terms of one sign; a difference. -/
def ds8Code (neg : Bool) (m : Nat) : Nat :=
  let hs := List.range 7
  let put := fun (ha : Nat) (sb : Bool) (hb : Nat) => b2n neg * 128 + ha * 16 + b2n sb * 8 + hb
  let pairs := hs.flatMap (fun a => hs.map (fun b => (a, b)))
  if m = 0 then 0x77
  else match hs.find? (fun h => 2 ^ (6 - h) == m) with
    | some h => b2n neg * 128 + h * 16 + 7
    | none =>
      match pairs.find? (fun x => decide (x.1 ≤ x.2) && 2 ^ (6 - x.1) + 2 ^ (6 - x.2) == m) with
      | some x => put x.1 neg x.2
      | none =>
        match pairs.find? (fun x => decide (x.1 < x.2) && 2 ^ (6 - x.1) == m + 2 ^ (6 - x.2)) with
        | some x => put x.1 (!neg) x.2
        | none => 0x77

/-- The greatest DS8 magnitude at or below `m`, and the least above it, for `m` below 128. -/
def ds8Down (m : Nat) : Nat := ((List.range (m + 1)).reverse.find? ds8Has).getD 0
def ds8Up (m : Nat) : Nat := (((List.range 129).filter (fun x => decide (m < x))).find? ds8Has).getD 128

/-- Quantisation to DS8 (R79): the byte, and whether it differs from the value. -/
def ds8Round (rc : Nat) (neg : Bool) (m : Nat) (e : Int) (u : Nat) : Nat × Bool :=
  let num := if 0 ≤ e + 6 then m * 2 ^ (e + 6).toNat else m
  let k := if 0 ≤ e + 6 then 0 else (-(e + 6)).toNat
  if 128 * 2 ^ k ≤ num then (ds8Code neg 128, decide (128 * 2 ^ k < num))
  else
    let lo := ds8Down (num / 2 ^ k)
    if lo * 2 ^ k = num then (ds8Code (neg && lo != 0) lo, false)
    else
      let hi := ds8Up (num / 2 ^ k)
      let up := match rc with
        | 2 => false
        | 3 => !neg
        | 4 => neg
        | 6 => decide (u * (hi - lo) * 2 ^ k < (num - lo * 2 ^ k) * 2 ^ 32)
        | _ => decide ((lo + hi) * 2 ^ k < 2 * num)
      (ds8Code neg (if up then hi else lo), true)

/-! ## Scales (R81 to R83) -/

/-- Elements of a scale block: 32 under E8M0, 16 under UE5M3 (R82). -/
def scaleBlock (sck : Nat) : Nat := if sck = 2 then 16 else 32

/-- A scale value: n × 2^e, or NaN. -/
def scaleVal (sck code : Nat) : Option (Nat × Int) :=
  if code = 0xFF then none
  else if sck = 1 then some (1, (code : Int) - 127)
  else if code < 8 then some (code, -17)
  else some (8 + code % 8, (code / 8 : Nat) - 18)

/-- The binary exponent of the factor of R83 under E8M0. -/
def scaleFactor (code sck : Nat) : Int := if sck ≠ 1 then 0 else if code = 8 then -6 else if code = 9 then -2 else 0

/-- emax of R83, and twice the element maximum for UE5M3. -/
def emaxOf (code : Nat) (signed : Bool) : Int :=
  match code with
  | 3 => 8
  | 4 => 15
  | 5 => 2
  | 6 => 4
  | 7 => 2
  | 8 => if signed then 0 else 1
  | 9 => if signed then 0 else 1
  | _ => 1

def elemMax2 (code : Nat) (signed : Bool) : Nat :=
  match code with
  | 3 => 896
  | 4 => 114688
  | 5 => 15
  | 6 => 56
  | 7 => 12
  | 8 => if signed then 254 else 510
  | _ => if signed then 14 else 30

/-- a × 2^ea ≤ b × 2^eb. -/
def leScaled (a : Nat) (ea : Int) (b : Nat) (eb : Int) : Bool :=
  let e0 := min ea eb
  decide (a * 2 ^ (ea - e0).toNat ≤ b * 2 ^ (eb - e0).toNat)

/-- The greatest magnitude of finite values. -/
def amaxOf : List FVal → Nat × Int
  | [] => (0, 0)
  | .fin _ m e :: r =>
    let x := amaxOf r
    if leScaled m e x.1 x.2 then x else (m, e)
  | _ :: r => amaxOf r

/-- The choice of a scale code (R85, R86). -/
def chooseScale (sck code : Nat) (signed : Bool) (xs : List FVal) : Nat :=
  let (m, e) := amaxOf xs
  if sck = 1 then
    if m = 0 then 0x7F
    else
      let x : Int := (Nat.log2 m : Int) + e - emaxOf code signed
      if x < -127 then 0 else if 127 < x then 0xFE else (x + 127).toNat
  else if m = 0 then 0
  else ((List.range' 1 254).find? (fun c =>
    match scaleVal 2 c with
    | some (n, k) => leScaled (2 * m) e (n * elemMax2 code signed) k
    | none => false)).getD 0xFE

/-! ## Quantisation of one element (R85 to R92) -/

/-- An exact quotient of a value by a scale n × 2^k. -/
def scaledDown (neg : Bool) (m : Nat) (e : Int) (n : Nat) (k : Int) : Exact :=
  if n = 1 then { neg := neg, m := m, e := e - k } else quotExact neg m e n k

def intRange (code : Nat) (signed : Bool) : Int × Int :=
  let w := elemBits code
  if signed then (-((2 ^ (w - 1) : Nat) : Int), (2 ^ (w - 1) : Nat) - 1) else (0, (2 ^ w : Nat) - 1)

/-- A finite value divided by its scale, in the element format, with clamping and NX alone (R85 to R87). -/
def quantScaled (code : Nat) (signed : Bool) (rc : Nat) (neg : Bool) (m : Nat) (e : Int) (n : Nat) (k : Int) (u : Nat) :
    Nat × FpFlags :=
  if m = 0 then
    (if code = fmtDS8 then 0x77 else match floatFmt code with | some F => F.put neg 0 | none => 0, flNone)
  else if code = fmtDS8 then
    let r := ds8Round rc neg m (e - k) u
    (r.1, if r.2 then flNX else flNone)
  else
    let x := scaledDown neg m e n k
    match floatFmt code with
    | some F =>
      let r := F.roundMag rc x u
      if F.top < r.1 then (F.put neg F.top, flNX) else (F.put neg r.1, if r.2.1 then flNX else flNone)
    | none =>
      let (lo, hi) := intRange code signed
      let r := roundInt rc x u
      let v := if r.1 < lo then lo else if hi < r.1 then hi else r.1
      ((v % (2 ^ elemBits code : Nat)).toNat, if r.2 || v != r.1 then flNX else flNone)

/-- A finite value in an unscaled element format (R79, R90, R92). An integer element out of range raises NV alone: the manual's
R87 would raise NX as well, its R92 names NV only (DESIGN CHOICE, log entry 65). -/
def quantPlain (code : Nat) (signed : Bool) (rc : Nat) (neg : Bool) (m : Nat) (e : Int) (u : Nat) : Nat × FpFlags :=
  if code = fmtDS8 then
    let r := ds8Round rc neg m e u
    (r.1, if r.2 then flNX else flNone)
  else match floatFmt code with
    | some F => F.finish rc false false u flNone (if m = 0 then .zero neg else .exact { neg := neg, m := m, e := e })
    | none =>
      let r := toInt (elemBits code) (!signed) rc u (.fin neg m e)
      ((r.1 % (2 ^ elemBits code : Nat)).toNat, r.2)

/-- What R91 writes for an element of a block that holds a NaN or an infinity, and its flags. -/
def badElem (code sck : Nat) : Nat × FpFlags :=
  match (floatFmt code).bind (·.nan) with
  | some c => (c, flNone)
  | none => (if code = fmtDS8 then 0x77 else 0, if sck = 0 then flNV else flNone)

def isFin : FVal → Bool | .fin _ _ _ => true | _ => false

/-- The elements of block `i` of `n`. -/
def blockOf {α : Type} (xs : List α) (n i : Nat) : List α := (xs.drop (i * n)).take n

/-- Whether element `i` lies in a narrowed block of `nb` elements that holds a NaN or an infinity. -/
def inBadBlock (xs : List FVal) (nb i : Nat) : Bool := (blockOf xs nb (i / nb)).any (fun v => !isFin v)

/-- The scale bytes of a row of values. -/
def rowScales (code sck : Nat) (signed : Bool) (nb : Nat) (xs : List FVal) : List Nat :=
  if sck = 0 then []
  else
    let w := scaleBlock sck
    (List.range (xs.length / w)).map (fun j =>
      if inBadBlock xs nb (j * w) then 0xFF else chooseScale sck code signed (blockOf xs w j))

/-- One element of a row: `rc` and `u` are its rounding mode and generator output. A signalling NaN of the row raises NV (R75)
beside what R91 makes of its block. -/
def rowElem (code sck : Nat) (signed : Bool) (nb : Nat) (xs : List FVal) (scales : List Nat) (i rc u : Nat) : Nat × FpFlags :=
  if inBadBlock xs nb i then
    let r := badElem code sck
    (r.1, r.2 ||| sigFlag [xs.getD i (.fin false 0 0)])
  else match xs.getD i (.fin false 0 0) with
    | .fin neg m e =>
      if sck = 0 then quantPlain code signed rc neg m e u
      else match scaleVal sck (scales.getD (i / scaleBlock sck) 0) with
        | some (n, k) =>
          if n = 0 then quantScaled code signed rc neg 0 0 1 0 u
          else quantScaled code signed rc neg m e n (k + scaleFactor code sck) u
        | none => badElem code sck
    | _ => badElem code sck

/-! ## Decoding (R84) -/

/-- A decoded element, and whether decoding it raised NV. -/
def decodeElem (code sck : Nat) (signed : Bool) (q scale : Nat) : FVal × Bool :=
  let w := elemBits code
  let v : FVal :=
    if code = fmtDS8 then .fin (decide (ds8Val q < 0)) (ds8Val q).natAbs (-6)
    else match floatFmt code with
      | some F => F.read q
      | none =>
        let i : Int := if signed && decide (2 ^ (w - 1) ≤ q) then (q : Int) - (2 ^ w : Nat) else q
        .fin (decide (i < 0)) i.natAbs 0
  if sck = 0 then (v, false)
  else match scaleVal sck scale with
    | none => (.nan false, false)
    | some (n, k) =>
      match v with
      | .nan _ => (.nan false, false)
      | .inf neg => if n = 0 then (.nan false, true) else (.inf neg, false)
      | .fin neg m e => if n = 0 then (.fin neg 0 0, false) else (.fin neg (m * n) (e + k + scaleFactor code sck), false)

/-! ## The rotation (R54, R101 to R104) -/

/-- SignOf: whether the sign is −1. -/
def signOf (seed : Word32) (k : Nat) : Bool :=
  let h := seed ^^^ BitVec.ofNat 32 (k * 0x9E3779B1)
  let h := h ^^^ (h >>> 16)
  let h := h * 0x85EBCA6B#32
  let h := h ^^^ (h >>> 13)
  let h := h * 0xC2B2AE35#32
  let h := h ^^^ (h >>> 16)
  h.getLsbD 0

/-- The butterfly stages over 2^k values: the Sylvester Hadamard matrix. -/
def hadamard : Nat → List Int → List Int
  | 0, xs => xs
  | k + 1, xs =>
    let a := hadamard k (xs.take (2 ^ k))
    let b := hadamard k (xs.drop (2 ^ k))
    a.zipWith (· + ·) b ++ a.zipWith (· - ·) b

def signedBy (seed : Word32) (kb : Nat) (xs : List Int) : List Int :=
  (List.range xs.length).zipWith (fun j x => if signOf seed ((kb + j) % 2 ^ 32) then -x else x) xs

def intVal (x : Int) (e : Int) : FVal := .fin (decide (x < 0)) x.natAbs e

def toTerm : FVal → Term
  | .fin n m e => { neg := n, m := m, e := e }
  | _ => { neg := false, m := 0, e := 0 }

/-- The forward rotation of a block of 2^ln finite values (R102). -/
def rotate (ln : Nat) (seed : Word32) (kb : Nat) (xs : List FVal) : List FVal :=
  let nz := (xs.map toTerm).filter (fun t => t.m != 0)
  match nz with
  | [] => xs.map (fun _ => .fin false 0 0)
  | t :: r =>
    let emax := (r.foldl (fun a t => max a ((Nat.log2 t.m : Int) + t.e)) ((Nat.log2 t.m : Int) + t.e))
    let align := fun (v : FVal) =>
      match toTerm v with
      | { neg := n, m := m, e := e } => if m = 0 then (0 : Int) else (roundInt rcRNE { neg := n, m := m, e := e + 30 - emax } 0).1
    (hadamard ln (signedBy seed kb (xs.map align))).map (fun y => intVal y (emax - 30))

/-- The inverse rotation of a block of 2^ln finite decoded values (R104). -/
def invRotate (ln : Nat) (seed : Word32) (kb : Nat) (xs : List FVal) : List FVal :=
  let ts := xs.map toTerm
  let e0 := minExp ts
  (signedBy seed kb (hadamard ln (ts.map (fun t => sumAt e0 [t])))).map (fun y => intVal y (e0 - ln))

/-- Rotates every block of a row by `f`; a block with a NaN or an infinity is left as it is. -/
def rotateRow (f : Nat → Word32 → Nat → List FVal → List FVal) (ln : Nat) (seed : Word32) (kb : Nat) (xs : List FVal) :
    List FVal :=
  (List.range (xs.length / 2 ^ ln)).flatMap (fun b =>
    let blk := blockOf xs (2 ^ ln) b
    if blk.all isFin then f ln seed ((kb + b * 2 ^ ln) % 2 ^ 32) blk else blk)

/-! ## Reservation records (R260 to R262) -/

abbrev Record := BitVec 256

def rbits (r : Record) (lo n : Nat) : Nat := r.toNat / 2 ^ lo % 2 ^ n
def rBuilt (r : Record) : Bool := r.getLsbD 255
/-- The rotation tag: ROTD, LN, SEEDV (R108). -/
def rTag (r : Record) : BitVec 36 := r.extractLsb' 208 36
def rRotd (r : Record) : Bool := r.getLsbD 243
def rLn (r : Record) : Nat := rbits r 240 3
def rSeedv (r : Record) : Nat := rbits r 208 32
def rLease (r : Record) : Nat := rbits r 203 3
def rSpace (r : Record) : Nat := rbits r 200 2
def rSgn (r : Record) : Bool := r.getLsbD 199
def rSck (r : Record) : Nat := rbits r 197 2
def rFmt (r : Record) : Nat := rbits r 192 5
def rScld (r : Record) : Nat := rbits r 160 32
def rScoff (r : Record) : Nat := rbits r 128 32
def rLdim (r : Record) : Nat := rbits r 96 32
def rCols (r : Record) : Nat := rbits r 80 16
def rRows (r : Record) : Nat := rbits r 64 16
def rBase (r : Record) : Nat := rbits r 0 64

/-- Replaces a field. -/
def rput (r : Record) (lo n v : Nat) : Record :=
  let m : Record := BitVec.ofNat 256 ((2 ^ n - 1) * 2 ^ lo)
  (r &&& ~~~m) ||| BitVec.ofNat 256 (v % 2 ^ n * 2 ^ lo)

def tagOf (ln : Nat) (seed : Word32) : Nat := 2 ^ 35 + ln * 2 ^ 32 + seed.toNat

def spaceA : Nat := 0
def spaceW : Nat := 1
def spaceG : Nat := 2

/-- The pairs of element format and scale kind that R83 permits. -/
def pairScale (fmt sck : Nat) : Bool :=
  sck == 0 || (sck == 1 && isNarrow fmt) || (sck == 2 && isNarrow fmt && fmt != fmtDS8)

/-- R109. -/
def tagOk (r : Record) : Bool :=
  if rRotd r then decide (4 ≤ rLn r ∧ rLn r ≤ 7) && isNarrow (rFmt r) else rLn r == 0 && rSeedv r == 0

/-- Bytes of one row's elements, and of its scales. -/
def rowBytes (r : Record) : Nat := rCols r * elemBits (rFmt r) / 8
def rowScaleBytes (r : Record) : Nat := (rCols r + scaleBlock (rSck r) - 1) / scaleBlock (rSck r)

/-- Whether a build result is valid (R261). BUILT is not looked at. -/
def recordOk (r : Record) : Bool :=
  decide (rFmt r < 12) && rSpace r != 3 && rSck r != 3
    && pairScale (rFmt r) (rSck r) && (!rSgn r || rFmt r == 8 || rFmt r == 9 || rFmt r == 11)
    && tagOk r
    && rbits r 244 11 == 0 && rbits r 206 2 == 0 && rbits r 202 1 == 0
    && rRows r != 0 && rCols r != 0 && rCols r % 32 == 0
    && rBase r % 16 == 0 && rLdim r % 16 == 0
    && (decide (rRows r ≤ 1) || decide (rowBytes r ≤ rLdim r))
    && (rSck r != 0 || (rScoff r == 0 && rScld r == 0))
    && (rSck r == 0 || decide (rRows r ≤ 1) || decide (rowScaleBytes r ≤ rScld r))
    && (rLease r == 0 || rSpace r == spaceG)
    && (rSpace r != spaceA || decide (rBase r < 2 ^ 22))
    && (rSpace r != spaceW || decide (rBase r < 2 ^ 17))
    && (rSpace r != spaceG || decide (rBase r < 2 ^ 56))

/-- Byte ranges (address, length) of elements k0 to k0 + n - 1 of rows m to m + rows - 1, and of their scales (R262). -/
def elemRanges (r : Record) (m rows k0 n : Nat) : List (Nat × Nat) :=
  let b := elemBits (rFmt r)
  (List.range rows).map (fun i =>
    let lo := k0 * b / 8
    let hi := ((k0 + n) * b + 7) / 8
    (rBase r + (m + i) * rLdim r + lo, hi - lo))

def scaleRanges (r : Record) (m rows k0 n : Nat) : List (Nat × Nat) :=
  if rSck r = 0 then []
  else
    let w := scaleBlock (rSck r)
    (List.range rows).map (fun i =>
      let lo := k0 / w
      let hi := (k0 + n + w - 1) / w
      (rBase r + rScoff r + (m + i) * rScld r + lo, hi - lo))

end Sys2Proof.Machine
end

