-- ==== Sys2Proof/Machine/Life.lean ====
section
/-! DEFINITION. The end of threads, groups, teams, clusters and nodes (R165, R169, R193, R197, R327, R335, R336), and the grid's
superstep (R243, R298). -/

namespace Sys2Proof.Machine

/-! ## Engines of a team -/

/-- Whether a matrix engine command of the team is accepted and outstanding (R272). -/
def meOutstanding (s : State) (k : Nat) : Bool := s.quads.any (fun e => e.2.me.any (fun c => c.team == k))

/-- Whether any engine command, copy or collective of the team has not ended. -/
def engineBusy (s : State) (k : Nat) : Bool :=
  meOutstanding s k || s.copies.any (fun e => e.2.team == k) || s.colls.any (fun e => e.2.team == k)

/-- Whether a command of the matrix engine or a copy of the team that names the A-buffer has not ended (R197). -/
def namesAbuf (s : State) (k : Nat) : Bool :=
  s.quads.any (fun e => e.2.me.any (fun c => c.team == k
    && (c.kind == .mmw || ((c.kind == .mma || c.kind == .mmat) && (rSpace c.ra == spaceA || rSpace c.rb == spaceA)))))
    || s.copies.any (fun e => e.2.team == k && (e.2.ctl.ssp == 1#2 || e.2.ctl.dsp == 1#2))

/-- The teams of a cluster that still hold its resources. -/
def fellows (s : State) (tm : Team) : List (Nat × Team) :=
  s.teams.filter (fun e => e.2.ctx == tm.ctx && e.2.node == tm.node && e.2.cluster == tm.cluster && !e.2.freed)

/-- Whether the A-buffer allocations of a team's cluster are held: until all its teams have exited and what names any of them has
ended (R197). -/
def abufHeld (s : State) (tm : Team) : Bool :=
  (fellows s tm).any (fun e => e.2.state != .exited || namesAbuf s e.1)

/-- Whether the W-buffer of a team is held: until it has exited and its copies and matrix engine commands have ended (R197). -/
def wbufHeld (s : State) (k : Nat) (tm : Team) : Bool :=
  tm.state != .exited || meOutstanding s k || s.copies.any (fun e => e.2.team == k)

/-- Whether the C tiles of a team are held: until it has exited and its last matrix engine command has ended (R197, R268). -/
def cbufHeld (s : State) (k : Nat) (tm : Team) : Bool := tm.state != .exited || meOutstanding s k

def opCPYR : Nat := 0x189

/-- The address of the slot of a team in its context area (R368). -/
def slotAt (s : State) (ctx slot : Nat) : Nat := (ctxOf s ctx).area + 0x8000 + 0x4000 * slot

/-- After a change that a save, or the stop of a context, may have waited for. -/
def nudgeSave (s : State) (k : Nat) : State :=
  let x := ctxOf s (teamOf s k).ctx
  if x.state = .preempting || x.migrate then scheduleOnce s s.now (.teamSaved k) else s

/-- Page instructions in progress look again at what they wait for. -/
def settleMoves (s : State) : State :=
  s.moves.foldl (fun s e =>
    if e.2.kind = .frame then scheduleOnce s s.now (.frameReturn (e.2.frames.headD 0) (BitVec.ofNat 64 e.2.va))
    else scheduleOnce s s.now (.pageMoveComplete e.1)) s

/-- Teams in SAVING all of whose threads are saved, and contexts in TEARDOWN, look again. -/
def settleSaves (s : State) : State :=
  let s := s.teams.foldl (fun s e =>
    if e.2.state == .saving && (teamThreads s e.1).all (fun t => (thrOf s t).stat == .saved || (thrOf s t).stat == .exited) then
      scheduleOnce s s.now (.teamSaved e.1)
    else s) s
  let s := settleMoves s
  s.ctxs.foldl (fun s e => if e.2.state == .teardown then scheduleOnce s s.now (.teardownComplete e.1) else s) s

/-! ## STEP (R243, R298) -/

def nodeTeams (s : State) (ctx node : Nat) : List (Nat × Team) :=
  s.teams.filter (fun e => e.2.ctx == ctx && e.2.node == node && !e.2.freed)

def runOf (s : State) (ctx node : Nat) : Option NodeRun := tget s.nodes (nodeKey ctx node)

def modRun (s : State) (ctx node : Nat) (f : NodeRun → NodeRun) : State :=
  { s with nodes := tmod (nodeKey ctx node) f s.nodes }

/-- Whether the open step of a grid is complete: every cluster is placed, every thread that has not exited has arrived, no
release of an earlier step is pending, and no engine command or copy is outstanding. -/
def stepComplete (s : State) (ctx node : Nat) : Bool :=
  let ts := nodeTeams s ctx node
  let refs := ts.flatMap (fun e => teamThreads s e.1)
  (match runOf s ctx node with | some r => decide (r.ncl ≤ r.next) | none => true)
    && ts.all (fun e => !e.2.stepDone && (e.2.state == .running || e.2.state == .exited))
    && refs.any (fun t => (thrOf s t).stat == .waiting .gridStep)
    && refs.all (fun t => (thrOf s t).stat == .waiting .gridStep || (thrOf s t).stat == .exited)
    && ts.all (fun e => !engineBusy s e.1)

/-- Submits the releases of a complete step, one for each team in ascending `%rampslot`, then `%team` (R448). -/
def stepSettle (s : State) (ctx node : Nat) : State :=
  if !stepComplete s ctx node then s
  else
    let ts := (nodeTeams s ctx node).filter (fun e => e.2.state == .running)
    let ord := ts.mergeSort (fun a b => decide (a.2.rampslot < b.2.rampslot ∨ (a.2.rampslot = b.2.rampslot ∧ a.2.index ≤ b.2.index)))
    let (ev, s) := newId s
    let s := ord.foldl (fun s e => modTeam s e.1 (fun tm => { tm with stepDone := true })) s
    ord.foldl (fun s e =>
      let load := if quietTeam s e.1 then e.2.hdr.load else 0
      if load = 0 then grantRelease s (.gridStep ctx node e.1) else putRequest s (.gridStep ctx node e.1) e.1 load e.2.core true ev) s

/-! ## The graph node record (R326, R327) -/

/-- What a unit has asked of another die's home comes within the access, with bytes that are free (log entry 17). -/
def answerFar (s : State) : State :=
  (s.reqs.filter (fun e => e.2.walk && e.2.hub && e.2.kind == .uc)).foldl (fun s e =>
    let (k, s) := newFresh s
    { s with
      reqs := tdel e.1 s.reqs
      farReads := { line := e.2.line, bytes := (List.range 128).map (Config.farByte k) } :: s.farReads }) s

/-- The walk of an access of the dispatcher; `n` bounds the entries that it reads at other dies. An access to a page whose frame's record
is marked POISON has no effect (DESIGN CHOICE, log entry 106). -/
def virtWalk (ctx va : Nat) (write : Bool) : Nat → State → Option Nat × State
  | 0, s => (none, s)
  | n + 1, s =>
    match walkFor s none ctx va { read := !write, write := write } with
    | .ok x s => (some x.pa, s)
    | .fault _ s => (none, s)
    | .held _ s => virtWalk ctx va write n (answerFar s)

/-- The physical address of a virtual address of a context for an access of the dispatcher, if its translation passes; it sets the
entry's A and D (R391). -/
def virtPa (s : State) (ctx va : Nat) (write : Bool) : Option Nat × State :=
  if 2 ^ 56 ≤ va then (none, s) else virtWalk ctx va write 8 s

/-- A write of the dispatcher. One to a page that is being moved is performed after the move: nothing else sees either frame before, so it is
written to the old one, and to the new one too once the copy stands there (R409). -/
def devWrite (s : State) (pa : Nat) (bs : List Byte) : State :=
  s.moves.foldl (fun s e =>
    if e.2.kind == .move && e.2.stage == 4 && leafPa e.2.old 3 0 / 65536 == pa / 65536 then
      unitWrite s (leafPa e.2.entry 3 0 / 65536 * 65536 + pa % 65536) bs
    else s) (unitWrite s pa bs)

def nodeVa (s : State) (ctx node : Nat) : Nat := (ctxOf s ctx).gtbase.toNat + 128 * node

/-- Word `w` of a node record, and its change as one event at its home. -/
def nodeWord (s : State) (ctx node w : Nat) : Option Word64 × State :=
  match virtPa s ctx (nodeVa s ctx node + 8 * w) false with
  | (some pa, s) => let r := unitNat s pa 8; (some (BitVec.ofNat 64 r.1), r.2)
  | r => (none, r.2)

def modNodeWord (s : State) (ctx node w : Nat) (f : Word64 → Word64) : State :=
  match virtPa s ctx (nodeVa s ctx node + 8 * w) true with
  | (some pa, s) =>
    let r := unitNat s pa 8
    devWrite r.2 pa (leBytes (f (BitVec.ofNat 64 r.1)).toNat 8)
  | (none, s) => s

/-- Fields of the counting word: PRED, PRED0 and STATE. -/
def wordPred (x : Word64) : Nat := bits x 0 16
def wordPred0 (x : Word64) : Nat := bits x 16 16
def wordState (x : Word64) : Nat := bits x 32 3

/-! ## Completion of a node (R335, R336) -/

/-- A completion record (R336). -/
def completionBytes (r : NodeRun) (time : Nat) : List Byte :=
  List.replicate 32 0#8 ++ leBytes time 8 ++ leBytes r.tstart 8
    ++ leBytes (b2n r.failed + 2 * b2n r.killed + r.node * 2 ^ 32) 8 ++ leBytes r.seq.toNat 8

/-- An ignored signal is logged (R328, R329). -/
def signalIgnored (s : State) (ctx node : Nat) : State := faultLog s ctx 4 fLAUNCH_REFUSED noTeam node

/-- The node indices of a successor list, read at their homes (R213). -/
def successors (ctx at' : Nat) : Nat → State → List Nat × State
  | 0, s => ([], s)
  | n + 1, s =>
    match virtPa s ctx at' false with
    | (some pa, s) =>
      let x := unitNat s pa 4
      let r := successors ctx (at' + 4) n x.2
      (x.1 :: r.1, r.2)
    | (none, s) => successors ctx (at' + 4) n s

/-- Steps 3 and 4 of R335: the counting word re-arms, and the successors are signalled in list order, those too that the
signal only logs. -/
def nodeFinish (s : State) (r : NodeRun) : State :=
  let s := modNodeWord s r.ctx r.node 5 (fun x => putBits (putBits x 0 16 (wordPred0 x)) 32 3 0)
  let s := { s with nodes := tdel (nodeKey r.ctx r.node) s.nodes }
  let l := successors r.ctx r.succA r.nsucc s
  l.1.foldl (fun s i => schedule s s.now (.nodeSignal r.ctx i)) l.2

/-- Steps 1 and 2 of R335. With a completion queue the node goes on when its record is enqueued (R349). -/
def nodeComplete (s : State) (ctx node : Nat) : State :=
  match runOf s ctx node with
  | none => s
  | some r =>
    let (seq, s) := takeSeq s ctx
    let s := modNodeWord s ctx node 6 (fun _ => seq)
    let r := { r with seq := seq }
    let s := modRun s ctx node (fun _ => r)
    match r.cq with
    | some q => produce s ctx q (.completion (nodeKey ctx node)) (completionBytes r (timeNs s))
    | none => nodeFinish s r

/-- After a cluster has ended: the node completes, or ends as refused once its placed clusters have ended (R328). -/
def nodeSettle (s : State) (ctx node : Nat) : State :=
  match runOf s ctx node with
  | none => s
  | some r =>
    if r.refused then
      (if r.next ≤ r.ended then
        let s := modNodeWord s ctx node 5 (fun x => putBits x 32 3 4)
        { s with nodes := tdel (nodeKey ctx node) s.nodes }
       else s)
    else if r.ncl ≤ r.ended then nodeComplete s ctx node else s

/-! ## Clusters (R197, R327) -/

/-- Whether a team has ended: it has exited, the writes of its exit have reached their homes, no access of its threads is
still to be performed, and no engine command of it remains. -/
def teamEnded (s : State) (k : Nat) (tm : Team) : Bool :=
  tm.state == .exited && !engineBusy s k && tm.flush.all (fun i => (tget s.reqs i).isNone)
    && !s.reqs.any (fun e => (!e.2.performed || e.2.kind == .write || e.2.kind == .reduce) && e.2.parts.any (fun p =>
        match p.thr with | some t => t.team == k | none => false))

/-- A cluster ends (R197, R327): its allocations are freed and CLDONE rises by 1. -/
def clusterEnd (s : State) (ctx node cluster : Nat) : State :=
  let mine := fun (tm : Team) => tm.ctx == ctx && tm.node == node && tm.cluster == cluster && !tm.freed
  let s := { s with teams := tmap (fun tm => if mine tm then { tm with freed := true } else tm) s.teams }
  let s := modNodeWord s ctx node 7 (fun x => putBits x 29 16 (bits x 29 16 + 1))
  let s := modRun s ctx node (fun r => { r with ended := r.ended + 1 })
  schedule (nodeSettle s ctx node) s.now .placementPass

/-- Ends every cluster all of whose teams have ended. -/
def settleClusters (s : State) : State :=
  (s.teams.filter (fun e => e.2.state == .exited && !e.2.freed)).foldl (fun s e =>
    let tm := teamOf s e.1
    if !tm.freed && (fellows s tm).all (fun x => teamEnded s x.1 x.2) then clusterEnd s tm.ctx tm.node tm.cluster else s) s

/-- Threads of a team that wait at a SAFEPT for its commands to drain look again (R339). -/
def stirDrain (s : State) (k : Nat) : State :=
  { s with threads := s.threads.map (fun e =>
    match e.2.stat with
    | .waiting .drain => if e.1 / 1024 == k then (e.1, { e.2 with stat := .ready }) else e
    | _ => e) }

/-- An engine command, copy or collective of the team has ended: threads at a SAFEPT look again, the step and the cluster of
the team may end. -/
def engineEnded (s : State) (k : Nat) : State :=
  let s := stirDrain s k
  let tm := teamOf s k
  let s := if tm.state = .exited then scheduleOnce s s.now .placementPass else s
  settleMoves (nudgeSave (settleClusters (stepSettle s tm.ctx tm.node)) k)

/-! ## The issue journal (R304, R305) -/

/-- The states of ST. -/
def jFree : Nat := 0
def jPart : Nat := 1
def jRunning : Nat := 2
def jReplay : Nat := 3
def jFaultWait : Nat := 4

def journalBytes (j : Journal) : List Byte :=
  leBytes j.srca.toNat 8 ++ leBytes j.dsta.toNat 8 ++ leBytes j.shape.toNat 8 ++ leBytes j.pitch.toNat 8
    ++ leBytes j.ctl.toNat 4 ++ leBytes j.xctl.toNat 4
    ++ leBytes (j.opc % 512 + j.gid % 32 * 2 ^ 9 + j.st.toNat * 2 ^ 16) 8 ++ leBytes j.prog 8 ++ leBytes j.seq.toNat 8

/-- Changes a journal entry; the device keeps the journal in the team's slot. -/
def modJournal (s : State) (k i : Nat) (f : Journal → Journal) : State :=
  let j := f (tgetD (teamOf s k).journal i {})
  let s := modTeam s k (fun tm => { tm with journal := tput i j tm.journal })
  let tm := teamOf s k
  if (ctxOf s tm.ctx).slots = 0 then s else unitWrite s (slotAt s tm.ctx tm.slot + 64 * i) (journalBytes j)

def setEntries (s : State) (k : Nat) (is : List Nat) (st : Nat) : State :=
  is.foldl (fun s i => modJournal s k i (fun j => { j with st := BitVec.ofNat 3 st })) s

/-! ## Exit (R165, R169, R193, R194) -/

/-- The requests that the release of an exiting team waits for: the write-backs of its core, what its threads have not had performed,
and what has gone out to other devices (R237, R325). -/
def exitWaits (s : State) (k core : Nat) : List Nat :=
  backsOf s core ++ (s.reqs.filter (fun e => (!e.2.performed || (isFar s (e.2.line * 128) && e.2.kind != .read))
    && e.2.parts.any (fun p => match p.thr with | some t => t.team == k | none => false))).map (·.1)

/-- The last group of a team has exited: a release at SYSTEM scope over every address by its threads, with its flushing read
(R237, R325), and copies that never got their last part are dropped and logged (R314). The team record of its slot becomes 0: the
slot holds no saved team. The dispatcher looks at what is free now (R333). -/
def teamExit (s : State) (k : Nat) : State :=
  let tm := teamOf s k
  let lines := (coreOf s tm.core).l1.map (·.1)
  let s := lines.foldl (fun s l => startWriteBack s tm.core l (BitVec.allOnes 128)) s
  let s := tm.cslots.foldl (fun s e =>
    let seq := match e.2.entries with | j :: _ => (tgetD tm.journal j {}).seq | [] => 0#64
    faultLog s tm.ctx 1 fCOPY_FAULT tm.index seq.toNat) s
  let s := if tm.cslots.isEmpty then s else modRun s tm.ctx tm.node (fun r => { r with failed := true })
  let ids := exitWaits s k tm.core
  let (fl, s) := flushRead s tm.core
  let s := setEntries s k (tm.cslots.flatMap (fun e => e.2.entries)) jFree
  let s := modTeam s k (fun tm =>
    { tm with
      state := .exited
      counted := false
      cslots := []
      flush := ids ++ fl })
  let s := if (ctxOf s tm.ctx).slots = 0 then s else unitWrite s (slotAt s tm.ctx tm.slot + 0x3000) (List.replicate 64 0#8)
  scheduleOnce (nudgeSave (settleClusters (stepSettle s tm.ctx tm.node)) k) s.now .placementPass

/-- The last live bit of a group clears (R169). -/
def groupExit (s : State) (team gid : Nat) : State :=
  let s := leaveJoin (modGrp s team gid (fun g => { g with state := .exited })) team gid
  if (teamGroups s team).all (fun i => (grpOf s team i).state == .exited) then teamExit s team
  else stepSettle s (teamOf s team).ctx (teamOf s team).node

/-- A thread becomes EXITED (R165): its live bit clears at once, its monitor is freed (R293), the tests of R285 and R173 run,
and those who wait at a rendezvous without it may all have waited for the period (R376). -/
def exitThread (s : State) (t : ThrRef) : State :=
  let th := thrOf s t
  let s := if th.linklost then faultLog s (thrCtx s t) 10 fLINK_DOWN (teamOf s t.team).index 0 else s
  let s := dropWatcher s t
  let s := modThr s t (fun th => { th with stat := .exited, mon := .disarmed, linklost := false, rel := none })
  let s := modGrp s t.team t.gid (fun g => { g with live := g.live &&& ~~~(1#32 <<< t.lane) })
  let s := groupTest s t.team t.gid
  let s :=
    if (grpOf s t.team t.gid).live = 0#32 then groupExit s t.team t.gid
    else
      let s := scheduleOnce s s.now (.rendezvousWatchdog t.team t.gid)
      stepSettle (retryMeeting s t.team t.gid) (teamOf s t.team).ctx (teamOf s t.team).node
  let s := if (teamOf s t.team).state = .saving then schedule s s.now (.teamSaved t.team) else s
  checkExited s t

end Sys2Proof.Machine
end

