-- ==== Sys2Proof/Machine/Serve.lean ====
section
/-! DEFINITION. Requests of this device served at their homes (R213, R235), and returns (R225, R135). -/

namespace Sys2Proof.Machine

/-- After an access is performed: releases go on (R237), forked groups arrive (R193), clusters whose writes are all performed
end (R327), saves and teardowns look again, and messages that waited for credits go out (R419). -/
def afterServe (s : State) : State := drainOutbox (settleSaves (settleClusters (wakeReleases s)))

/-- The request that an event of this device's own core serves. -/
def ownReq (s : State) (m : Msg) (ks : List ReqKind) : Option Req :=
  match tget s.reqs m.tag with
  | some r =>
    if localAgent m.src && r.core == m.sub && r.line == m.line && toServe r && ks.contains r.kind
      && decide (r.serve ≤ s.now) then some r else none
  | none => none

/-- A request that its home answers at once: a store, a write-back or a reduction. -/
def answersAtOnce (r : Req) : Bool := r.kind == .write || r.kind == .writeBack || r.kind == .reduce

/-- What waits looks again, once a request has been served. -/
def servedNow (s : State) : State := wakeWaiting (afterServe s)

/-- Whose spans a request leaves as they are: an ownership request and a write-back those of their core (R213). -/
def sparedBy (r : Req) : Option (Nat × Nat) :=
  if r.kind == .own || r.kind == .writeBack || (r.kind == .prefetch && r.aop == 2) then some (coreAgent r.core, r.core) else none

/-- A read of another device's line asks for the words that its fill will hold (R212). -/
def asked (s : State) (r : Req) : Req :=
  if r.kind == .read || (r.kind == .prefetch && r.aop == 0) then { r with fetched := fetchWords s r } else r

/-- Serves a request of this device: it waits for earlier ones of its core to the line (R234), and while a module on its way is not
ACTIVE or has no credit (R414, R419); a fabric request
goes out under a free TAG (R417); another is served at its home once no span stands in the way that is not recalled at once (R213).
What the endpoint has accepted has crossed the package before. -/
def serveOwn (s : State) (r : Req) (words : BitVec 32) (again : Instr) (f : State → Req → State) : Out :=
  if r.accepted then .next (servedNow (f s r))
  else if servedAfter s r || !pathReady s (reqPath s r) (outChans r) (if answersAtOnce r then backChans r else []) then
    .next (waitFor s again)
  else if isFar s (r.line * 128) then
    if (freeTag s r.core).isNone then .next (waitFor s again) else .next (servedNow (sendOut (countOut s r) (asked s r)))
  else match recallRemote s r.line words again (sparedBy r) with
    | some s => .next s
    | none =>
      let s := countOut s r
      let s := if answersAtOnce r then countIn s r else s
      .next (servedNow (f s r))

/-- A write or write-back of this device is performed at its home, in home order (R235). -/
def execHomeWrite (id : Nat) (s : State) : Out :=
  match tget s.reqs id with
  | none => .next s
  | some r =>
    if r.kind != .write || !toServe r || decide (s.now < r.serve) then .next s
    else serveOwn s r (reqWords r) (.homeWrite id) serveWrite

/-- LOAD_RETURN (R225, R135): a fill comes into L1, data is written where the registers reside, the request ends, and its acquires
run. A return
addressed to a core in a ratio stop, or to a thread whose registers move, is held; one whose module is not ACTIVE or has no credit waits at
the home (R414, R419). -/
def loadReturn (s : State) (id : Nat) : State :=
  match tget s.reqs id with
  | none => runAcqs s id
  | some r =>
    let far := r.serve != 0 && !isFar s (r.line * 128)
    let early := match r.dueClk with | some k => decide (coreClock s r.core < k) | none => decide (s.now < r.due)
    if !r.performed || early || (r.kind == .atomic && (nextPart? r).isSome) || r.kind == .write || r.kind == .writeBack || r.kind == .reduce then s
    else if far && !pathReady s (reqPath s r) [] (backChans r) then waitFor s (.loadReturn id)
    else
      let ts := r.parts.filterMap (·.thr)
      match ts.find? (returnHeld s) with
      | some t => holdReturn s t id
      | none =>
        let s := if far then countIn s r else s
        let s := landFill { s with reqs := tdel id s.reqs } r
        let s := r.parts.foldl (fun s p =>
          match p.thr with
          | none => s
          | some t => if p.sld then returnSld s p t else if r.kind == .own && r.aop == 1 then s else writePart s p t) s
        let s := afterServe (runAcqs s id)
        ts.foldl checkExited s

def execLoadReturn (id : Nat) (s : State) : Out := .next (loadReturn s id)

end Sys2Proof.Machine
end

