-- ==== Sys2Proof/Machine/Barrier.lean ====
section
/-! DEFINITION. The barrier instructions: BAR (R284 to R289, R294, R295), BARW (R291, R296, R297), STEP (R298), MONITOR and
MWAIT (R293, R299, R300). -/

namespace Sys2Proof.Machine

/-! ## The image of a barrier register (R284) -/

def barCode (x : BarState) : Nat :=
  match x with
  | .free => 0
  | .armed => 1
  | .complete => 2
  | .draining => 3

def barImage (x : Bar) : Word64 :=
  BitVec.ofNat 64 (barCode x.state * 2 ^ 62 + b2n x.cyc * 2 ^ 61 + b2n x.err * 2 ^ 60 + b2n x.rp * 2 ^ 59
    + x.phase.toNat * 2 ^ 40 + x.pend % 1024 * 2 ^ 30 + x.arr % 1024 * 2 ^ 20 + x.exp % 1024 * 2 ^ 10 + x.base % 1024)

def barFrom (w : Word64) : Bar :=
  { state := match bits w 62 2 with | 0 => .free | 1 => .armed | 2 => .complete | _ => .draining
    cyc := w.getLsbD 61, err := w.getLsbD 60, rp := w.getLsbD 59, phase := w.extractLsb' 40 16
    pend := bits w 30 10, arr := bits w 20 10, exp := bits w 10 10, base := bits w 0 10 }

/-- Clears the arrival records of every group for a register. -/
def clearArrs (s : State) (k b : Nat) : State :=
  modTeam s k (fun tm => { tm with arrs := tm.arrs.filter (fun e => e.1 % 16 != b) })

/-! ## Forms that act once for a packet (R295) -/

/-- The checks 1 of R295, then the form on the register. -/
def barOnce (b : Base) (o : Opnds) (f : ThrRef → Bar → State → OnceOut) (s : State) : Out :=
  oncePerPacket o noIll (fun _ t s =>
    let n := b.sa.toNat
    if (teamOf s t.team).hdr.bars ≤ n then .fault (flt fBAR_INVALID)
    else f t (barOf (teamOf s t.team) n) s) (fun _ s => s) s

/-- Operand C of .INIT and .EXPECT: the immediate, or the register SB. -/
def barArg (b : Base) (imm : Option Word32) (s : State) (t : ThrRef) : Word32 :=
  match imm with
  | some v => v
  | none => regVal (thrOf s t) b.sb.toNat

def barArgOpnds (b : Base) (imm : Option Word32) : Opnds := baseOpnds b 0 (if imm.isSome then 0 else 1) 0

def configOk (c : Word32) : Bool := decide (1 ≤ c.toNat % 64 ∧ c.toNat % 64 ≤ 32) && c &&& ~~~0x13F#32 == 0#32

def execBarInit (b : Base) (imm : Option Word32) (s : State) : Out :=
  barOnce b (barArgOpnds b imm) (fun t x s =>
    let n := b.sa.toNat
    if x.state = .draining || 0 < x.pend || x.rp then .fault (flt fBAR_BUSY)
    else
      let c := barArg b imm s t
      if !configOk c then .fault (flt fBAR_INVALID)
      else
        let base := c.toNat % 64
        let s := modBar s t.team n (fun x =>
          { phase := x.phase, state := .armed, cyc := c.getLsbD 8, base := base, exp := base })
        .done (barChanged (clearArrs s t.team n) t.team n)) s

def execBarExpect (b : Base) (imm : Option Word32) (s : State) : Out :=
  barOnce b (barArgOpnds b imm) (fun t x s =>
    let n := b.sa.toNat
    if !barTakes x then .fault (flt fBAR_INVALID)
    else
      let a := (barArg b imm s t).toInt
      let e := if x.rp then (x.base : Int) + x.heldExp + a else (x.exp : Int) + a
      if e < 0 ∨ 1023 < e then .fault (flt fBAR_INVALID)
      else
        let s := modBar s t.team n (fun x =>
          if x.rp then { x with heldExp := x.heldExp + a } else { x with exp := e.toNat })
        .done (barChanged s t.team n)) s

/-- The threads still waiting on a register take BAR_INVALID at their BAR.WAIT (R288). -/
def invalWaiters (s : State) (k b : Nat) : State :=
  let ws := (teamThreads s k).filter (fun t => match (thrOf s t).stat with | .waiting (.bar n _) => n == b | _ => false)
  let pcs := (ws.map (fun t => (thrOf s t).pc)).eraseDups
  pcs.foldl (fun s pc =>
    let here := ws.filter (fun t => (thrOf s t).pc == pc
      && (match (thrOf s t).stat with | .waiting (.bar n _) => n == b | _ => false))
    deliver (teamOf s k).core pc (pc + BitVec.ofNat 64 waitLen) (here.map (fun t => (t, flt fBAR_INVALID))) s) s

def execBarInval (b : Base) (s : State) : Out :=
  barOnce b { g := b.g } (fun t x s =>
    let n := b.sa.toNat
    if x.state = .free || x.state = .draining then .done s
    else
      let s := if x.rp then
          grantBar { s with damper := { s.damper with reqs := s.damper.reqs.filter (fun r => r.what != .bar t.team n) } } t.team n
        else s
      let s := modBar s t.team n (fun x => if 0 < x.pend then { x with state := .draining } else freeBar x)
      .done (invalWaiters s t.team n)) s

/-- The limits on a written image. -/
def imageOk (w : Word64) : Bool :=
  let st := bits w 62 2
  st != 3 && bits w 30 10 == 0 && bits w 56 4 == 0
    && (st == 0 || decide (1 ≤ bits w 0 10 ∧ bits w 0 10 ≤ 32))
    && (st != 0 || w &&& ~~~(0x00FFFF0000000000#64) == 0#64)

def execBarWrite (b : Base) (s : State) : Out :=
  barOnce b (baseOpnds b 0 2 0) (fun t x s =>
    let n := b.sa.toNat
    if x.state = .draining || 0 < x.pend || x.rp then .fault (flt fBAR_BUSY)
    else
      let w := pairVal (thrOf s t) b.sb.toNat
      if !imageOk w then .fault (flt fBAR_INVALID)
      else
        let s := clearArrs (modBar s t.team n (fun _ => barFrom w)) t.team n
        .done (barChanged (wakeBar s t.team n) t.team n)) s

/-! ## Forms that act for each thread (R289, R295) -/

def barCover (s : State) (t : ThrRef) (n : Nat) : Option (List (Nat × Nat)) :=
  some (boundTo (teamOf s t.team) objBar (BitVec.ofNat 64 n))

/-- The wait target: none where the wait returns at once. -/
def waitTarget (tm : Team) (t : ThrRef) (n : Nat) (phase : Option Half) : Option Half :=
  let x := barOf tm n
  let a := arrOf tm t.gid n
  match phase with
  | some p => some p
  | none =>
    if a.mask.getLsbD t.lane || a.last == some x.phase then some x.phase
    else match a.last with
      | some _ => none
      | none => some x.phase

/-- Checks 1 and 2 of R295 for a thread, then the form. -/
def barThread (b : Base) (done : Bool) (f : Bar → ThrOut) (s : State) (t : ThrRef) : ThrOut :=
  let n := b.sa.toNat
  let x := barOf (teamOf s t.team) n
  if (teamOf s t.team).hdr.bars ≤ n || x.state = .free || x.state = .draining || (!done && x.state == .complete) then
    .fault (flt fBAR_INVALID)
  else f x

def execBarArrive (b : Base) (s : State) : Out :=
  perThread { g := b.g } noIll (fun p t s =>
    barThread b false (fun x =>
      let n := b.sa.toNat
      let a := arrOf (teamOf s t.team) t.gid n
      if a.mask.getLsbD t.lane || a.last == some x.phase then .fault (flt fBAR_BUSY)
      else afterRelease s t scPackage (barCover s t n) (fun s =>
        let a := arrOf (teamOf s t.team) t.gid n
        .done (groupArrive (setArr s t.team t.gid n { a with mask := a.mask ||| (1#32 <<< t.lane) }) t.team t.gid n) p.next)) s t) s

/-- The phase operand in SB, if the form has one. -/
def barPhase (b : Base) (s : State) (t : ThrRef) : Option Half :=
  if b.sb = 0#10 then none else some ((regVal (thrOf s t) b.sb.toNat).setWidth 16)

/-- In modes SAVE and REST the instructions that wait raise ILLOP (R378). -/
def waitBarred (s : State) (t : ThrRef) : Bool := (thrOf s t).mode == .save || (thrOf s t).mode == .rest

def targetOver (x : Bar) (p : Option Half) : Bool :=
  match p with
  | none => true
  | some p => waitOver x p

def phaseOpnds (b : Base) : Opnds := baseOpnds b 0 (if b.sb = 0#10 then 0 else 1) 0

def execBarWait (b : Base) (s : State) : Out :=
  perThread (phaseOpnds b) noIll (fun p t s =>
    if waitBarred s t then .fault (flt fILLOP)
    else barThread b true (fun x =>
      let n := b.sa.toNat
      let tg := waitTarget (teamOf s t.team) t n (barPhase b s t)
      if targetOver x tg then .done (acquire s t scSystem (barCover s t n)) p.next
      else .left (makeWait s t (.bar n (tg.getD 0#16).toNat))) s t) s

def execBarTest (b : Base) (s : State) : Out :=
  let dst := b.dst.toNat % 32
  let o := phaseOpnds b
  perThread { o with dsts := if dst = 0 then [] else [dst] } noIll (fun p t s =>
    barThread b true (fun x =>
      let n := b.sa.toNat
      let done := targetOver x (waitTarget (teamOf s t.team) t n (barPhase b s t))
      let s := modThr s t (fun th =>
        putReg th dst (putField (regVal th dst) (b.dst.toNat / 32) 1 (BitVec.ofNat 32 (b2n done))))
      .done (if done then acquire s t scSystem (barCover s t n) else s) p.next) s t) s

def execBarRead (b : Base) (s : State) : Out :=
  perThread (baseOpnds b 0 0 2) noIll (fun p t s =>
    let n := b.sa.toNat
    if (teamOf s t.team).hdr.bars ≤ n then .fault (flt fBAR_INVALID)
    else .done (modThr s t (fun th => putPair th b.dst.toNat (barImage (barOf (teamOf s t.team) n)))) p.next) s

/-! ## BARW (R291, R296, R297) -/

def wordCover (s : State) (t : ThrRef) (a : Word64) : Option (List (Nat × Nat)) :=
  some (boundTo (teamOf s t.team) objWord a)

def barwAddr (s : State) (t : ThrRef) (b : Base) (m : MemWord) (disp : Option Word32) : Word64 :=
  addrBase s t b m.bs + addrOff m disp

/-- The checks of R297 on a global word; a word in the host window, or on a host-uncached page, raises PAGE_PERM. -/
def withWord (p : Packet) (t : ThrRef) (s : State) (a : Word64) (x : Acc) (k : Xl → State → ThrOut) : ThrOut :=
  withGlobal p t s a 8 x (fun y s' =>
    if rangeOf y.pa = .host || leafContract y.leaf = 4 then
      .fault { code := fPAGE_PERM, addr := a, kind := x.kind, page := some (pageNo y.level a.toNat), aux := xAux 0 x.write y.level 0 }
    else k y s')

/-- A barrier word's event at the home: a request like an atomic's, with the codes of `atomVal`. -/
def wordRequest (s : State) (p : Packet) (t : ThrRef) (kind : ReqKind) (aop : Nat) (y : Xl) (va : Word64) (dst val : Nat) :
    Nat × State :=
  let part : Part := { thr := some t, off := y.pa % 128, width := 8, dst := dst, val := val }
  joinReq (spoil s p.core (y.pa / 128) (wordMask (y.pa % 128) 8)) p kind y va.toNat part aop true none

/-- The same at the A-buffer atomic unit. -/
def wordBuffer (s : State) (aop k off val : Nat) : State :=
  if abufBad s k off 8 then s else putAbuf s k off (leBytes (atomVal aop 64 (bufNat (teamOf s k).abuf off 8) val 0) 8)

def execBarwInit (b : Base) (m : MemWord) (disp : Option Word32) (s : State) : Out :=
  let o : Opnds := { g := b.g, srcs := baseSrcs b m.bs ++ [(b.sb.toNat, b.tb)] }
  thenIssue (perThread o noIll (fun p t s =>
    let a := barwAddr s t b m disp
    let v := (regVal (thrOf s t) b.sb.toNat).toNat % 2 ^ 16
    if m.ix then withAbuf t s a 8 (fun k off => .done (wordBuffer s 14 k off v) p.next)
    else withWord p t s a { write := true, kind := 2 } (fun y s => .done (wordRequest s p t .reduce 14 y a 0 v).2 p.next)) s)

def execBarwArrive (b : Base) (m : MemWord) (disp : Option Word32) (s : State) : Out :=
  let regs := if b.dst = 0#10 then [] else [b.dst.toNat, b.dst.toNat + 1]
  let o : Opnds := { g := b.g, srcs := baseSrcs b m.bs, dsts := regs }
  thenIssue (perThread o noIll (fun p t s =>
    let a := barwAddr s t b m disp
    let rel := fun (s : State) (k : State → ThrOut) => afterRelease s t m.scope.toNat (wordCover s t a) k
    if m.ix then withAbuf t s a 8 (fun k off => rel s (fun s =>
      let old := bufNat (teamOf s k).abuf off 8
      let bad := abufBad s k off 8
      let part : Part := { thr := some t, off := 0, width := 8, dst := b.dst.toNat, got := some (old, bad) }
      let s := modThr (wordBuffer s 13 k off 0) t (fun th => dropRegs th regs)
      .done (timedReturn s p part (abufLat s t.team k)).2 p.next))
    else withWord p t s a { write := true, kind := 3 } (fun y s => rel s (fun s =>
      let s := modThr s t (fun th => dropRegs th regs)
      .done (wordRequest s p t .atomic 13 y a b.dst.toNat 0).2 p.next))) s)

/-- The thread waits for its first read of PH, which `BARW_POLL` makes after the latency of the access. -/
def startBarw (s : State) (t : ThrRef) (w : BarwWait) (at' : Nat) : State :=
  schedule (makeWait s t (.barw w)) at' (.barwPoll t)

def execBarwWait (b : Base) (m : MemWord) (disp : Option Word32) (s : State) : Out :=
  let o : Opnds := { g := b.g, srcs := baseSrcs b m.bs ++ [(b.sb.toNat, b.tb)] }
  perThread o noIll (fun p t s =>
    if waitBarred s t then .fault (flt fILLOP)
    else
      let a := barwAddr s t b m disp
      let ph := (regVal (thrOf s t) b.sb.toNat).getLsbD 0
      let w : BarwWait := { ab := none, loc := 0, va := a.toNat, ph := ph, len := p.len, watched := false, first := true }
      let (d, s) := contend s
      if m.ix then withAbuf t s a 8 (fun k off =>
        .left (afterLat (makeWait s t (.barw { w with ab := some k, loc := off })) (coreQuad p.core) (abufLat s t.team k) d
          (.barwPoll t)))
      else withWord p t s a { read := true, kind := 1 } (fun y s =>
        let line := y.pa / 128
        let s := flushWords s p.core line (wordMask (y.pa % 128) 8 &&& ~~~(l1Of s p.core line).own)
        let lat := if isFar s y.pa then 0 else latencyNs s (coreTower p.core) y.pa y.leaf * nsTicks + d
        .left (startBarw s t { w with loc := y.pa } (max (lineFloor s p.core line) (s.now + lat))))) s

/-- After a read that found PH unchanged: the watcher is registered, or PH is read again in 256 ns where the table is full. -/
def barwWatch (s : State) (t : ThrRef) (w : BarwWait) : State :=
  let line := w.loc / 128
  let set := fun (s : State) => modThr s t (fun th => { th with stat := .waiting (.barw { w with first := false, watched := true }) })
  match w.ab with
  | some _ => set s
  | none =>
    if (watchersOf s line).length < 16 then set (setWatchers s line (watchersOf s line ++ [.thread t]))
    else schedule s (s.now + 256 * nsTicks) (.barwPoll t)

/-- BARW_POLL: PH is read at the home, or at the A-buffer. -/
def execBarwPoll (t : ThrRef) (s : State) : Out :=
  match (thrOf s t).stat with
  | .waiting (.barw w) =>
    if w.watched then .next s
    else match w.ab with
      | some _ => .next (barwRead s t w (wordPh s w) (fun s => barwWatch s t w))
      | none =>
        if isFar s w.loc then .next (barwAsk s t w)
        else
          let line := w.loc / 128
          let words := wordMask (w.loc % 128) 8
          if !(backsOut s (thrCore s t) line).isEmpty then .next (waitFor s (.barwPoll t))
          else match recallRemote s line words (.barwPoll t) with
          | some s => .next s
          | none =>
            let s := recallLocal s line words none
            .next (afterServe (barwRead s t w (wordPh s w) (fun s => barwWatch s t w)))
  | _ => .next s

/-! ## STEP (R298) -/

def execStep (_b : Base) (s : State) : Out :=
  let r := perThread { g := _b.g } noIll (fun _ t s =>
    if waitBarred s t then .fault (flt fILLOP)
    else afterRelease s t scPackage (some (boundTo (teamOf s t.team) objStep 0#64)) (fun s => .left (makeWait s t .gridStep))) s
  match r with
  | .next s => match s.cur with
    | some p => .next (stepSettle s (teamOf s p.team).ctx (teamOf s p.team).node)
    | none => .next s
  | x => x

/-! ## MONITOR and MWAIT (R293, R299, R300) -/

/-- The registration of a thread's monitor at the home. A full table leaves it triggered with overflow. -/
def armLocal (s : State) (t : ThrRef) (line : Nat) : State :=
  if (thrOf s t).mon != .arming line then s
  else
    let full := decide (16 ≤ (watchersOf s line).length)
    let s := if full then s else setWatchers s line (watchersOf s line ++ [.thread t])
    let s := modThr s t (fun th => { th with mon := if full then .triggered line true else .armed line })
    let s := match (thrOf s t).stat with
      | .waiting (.mwait _ _) => if full then makeReady s t else s
      | _ => s
    afterServe s

/-- The answer to a registration at another die's home: a write to the line, or a full table, which the answer does not tell apart: the
cause is then that of a write (DESIGN CHOICE, log entry 105). -/
def farTriggered (s : State) (r : Req) : State :=
  let s := { s with reqs := tdel r.id s.reqs }
  match r.watch with
  | none => s
  | some t =>
    let fire := fun (s : State) => modThr s t (fun th => { th with mon := .triggered r.line false })
    match (thrOf s t).stat with
    | .waiting (.barw w) => barwAsk (modThr s t (fun th => { th with stat := .waiting (.barw { w with watched := false }) })) t w
    | .waiting (.mwait _ _) => if (thrOf s t).mon = .armed r.line then makeReady (fire s) t else s
    | _ => if (thrOf s t).mon = .armed r.line then fire s else s

def execMonitor (b : Base) (m : MemWord) (disp : Option Word32) (s : State) : Out :=
  perThread { g := b.g, srcs := baseSrcs b m.bs } noIll (fun p t s =>
    let a := barwAddr s t b m disp
    withGlobal p t s a 1 { read := true, kind := 6 } (fun y s =>
      if rangeOf y.pa = .host || rangeOf y.pa = .fabric || leafContract y.leaf = 4 then
        .fault { code := fPAGE_PERM, addr := a, kind := 6, page := some (pageNo y.level a.toNat), aux := xAux 0 false y.level 0 }
      else
        let line := y.pa / 128
        let (d, s) := contend s
        let s := modThr (dropWatcher s t) t (fun th => { th with mon := .arming line })
        let lat := if isFar s y.pa then 0 else latencyNs s (coreTower p.core) y.pa y.leaf * nsTicks + d
        .done (schedule s (max (lineFloor s p.core line) (s.now + lat)) (.armMonitor (armMsg t p.core line))) p.next)) s

/-- The return of an MWAIT with its cause; the monitor is disarmed. -/
def mwaitReturn (s : State) (t : ThrRef) (dst cause : Nat) : State :=
  modThr (dropWatcher s t) t (fun th => { putReg th dst (BitVec.ofNat 32 cause) with mon := .disarmed })

/-- The timeout of an MWAIT in ns, if it has one. -/
def mwaitTime (b : Base) (s : State) (t : ThrRef) : Option Nat :=
  match b.md.toNat with
  | 0 => none
  | 1 => some (regVal (thrOf s t) b.sa.toNat).toNat
  | _ => some (lo32 (thrSreg s t b.sa.toNat)).toNat

def execMwait (b : Base) (s : State) : Out :=
  perThread (baseOpnds b (if b.md = 1#4 then 1 else 0) 0 1) noIll (fun p t s =>
    if waitBarred s t then .fault (flt fILLOP)
    else match (thrOf s t).mon with
      | .disarmed => .done (mwaitReturn s t b.dst.toNat 3) p.next
      | .triggered _ o => .done (mwaitReturn s t b.dst.toNat (b2n o)) p.next
      | _ =>
        match mwaitTime b s t with
        | some 0 => .done (mwaitReturn s t b.dst.toNat 2) p.next
        | some n =>
          let d := s.now + n * nsTicks
          .left (schedule (makeWait s t (.mwait (some d) b.dst.toNat)) d (.mwaitTimeout t))
        | none => .left (makeWait s t (.mwait none b.dst.toNat))) s

/-- MWAIT_TIMEOUT (R300): the thread returns with code 2. -/
def execMwaitTimeout (t : ThrRef) (s : State) : Out :=
  match (thrOf s t).stat with
  | .waiting (.mwait (some d) dst) =>
    if s.now < d then .next s
    else match (quadOf s (coreQuad (thrCore s t))).stopUntil with
      | some u => .next (schedule s (max u (s.now + 1)) (.mwaitTimeout t))
      | none => .next (advance (mwaitReturn s t dst 2) t ((thrOf s t).pc + BitVec.ofNat 64 waitLen))
  | _ => .next s

end Sys2Proof.Machine
end

