-- ==== Sys2Proof/Machine/Glaze.lean ====
section
/-! DEFINITION. The Glaze forms: GLZQ, GLZD, GLZR (R107, R110, R113 to R121). -/

namespace Sys2Proof.Machine

/-! ## The A-buffer of the issuing team -/

/-- The cluster-core index of a team (R195). -/
def clusterIndex (tm : Team) : Nat := tm.cly * tm.w + tm.clx

/-- The offset of a byte range in the team's own A-buffer allocation, if it lies wholly inside. -/
def ownAbuf (tm : Team) (a len : Nat) : Option Nat :=
  let base := clusterIndex tm * 2 ^ 18
  if base ≤ a ∧ a + len ≤ base + tm.hdr.abuf ∧ (len = 0 ∨ a < base + tm.hdr.abuf) then some (a - base) else none

/-- An engine or Glaze write to an A-buffer: words written whole are no longer poisoned. -/
def putAbufClean (s : State) (k off : Nat) (bs : List Byte) : State :=
  let s := modTeam s k (fun tm =>
    { tm with apoison := tm.apoison.filter (fun w => !decide (off ≤ 4 * w ∧ 4 * w + 4 ≤ off + bs.length)) })
  putAbuf s k off bs

def recordOf (tm : Team) (i : Nat) : Record := tgetD tm.recs i 0#256
def setRecord (s : State) (k i : Nat) (r : Record) : State :=
  modTeam s k (fun tm => { tm with recs := tset 0#256 i r tm.recs })

/-! ## Rows (R113) -/

def glzEpl (c : GlzCtl) : Nat := 2 ^ c.epl.toNat
def glzLen (c : GlzCtl) : Nat := 32 * glzEpl c
def glzLn (c : GlzCtl) : Nat := 4 + c.rb.toNat
def glzElemBytes (c : GlzCtl) : Nat := glzLen c * elemBits c.fmt.toNat / 8
def glzScaleBytes (c : GlzCtl) : Nat := if c.sck = 0#2 then 0 else glzLen c / scaleBlock c.sck.toNat

/-- The narrowed block (R83): the rotation block, widened to whole scale blocks. -/
def narrowBlock (rot : Bool) (ln sck : Nat) : Nat :=
  let n := if rot then 2 ^ ln else 1
  if sck = 0 then n else max n (scaleBlock sck)

def seedOf (s : State) (k : Nat) (i : BitVec 3) : Word32 := tgetD (ctxOf s (teamOf s k).ctx).seeds i.toNat 0#32

/-- The rounding mode of the elements of a lane (R120). -/
def laneMode (s : State) (p : Packet) (gid : Nat) (present : List Nat) (rm : BitVec 3) (l : Nat) : Nat :=
  let own := if present.contains l then l else present.headD 0
  let m := if rm = 0#3 then (fpcRm (thrOf s (laneRef p gid own)).fpc).toNat else rm.toNat
  if m = rcSR && !present.contains l then rcRNE else m

/-- The rounding mode and generator output of every element of a row, in ascending order; elements that `skip` names take no
step. -/
def roundPlan (p : Packet) (gid : Nat) (present : List Nat) (rm : BitVec 3) (epl : Nat) (skip : Nat → Bool) :
    List Nat → State → List (Nat × Nat) × State
  | [], s => ([], s)
  | i :: r, s =>
    let l := i / epl
    let m := laneMode s p gid present rm l
    let step := m == rcSR && !skip i
    let t := laneRef p gid l
    let x := rngNext (thrOf s t).rng
    let u := if step then (rngOut x).toNat else 0
    let s := if step then modThr s t (fun th => { th with rng := x }) else s
    let rest := roundPlan p gid present rm epl skip r s
    ((m, u) :: rest.1, rest.2)

/-- The source values of a row: absent lanes read as +0. -/
def rowValues (s : State) (p : Packet) (gid : Nat) (present : List Nat) (sa epl : Nat) : List FVal :=
  (List.range (32 * epl)).map (fun i =>
    let l := i / epl
    if present.contains l then fp32.read (regVal (thrOf s (laneRef p gid l)) (sa + i % epl)).toNat else .fin false 0 0)

/-- Each present lane takes the flags of its elements (R120). -/
def giveFlags (p : Packet) (gid : Nat) (present : List Nat) (epl : Nat) (fls : List FpFlags) (s : State) : State :=
  present.foldl (fun s l =>
    let fl := ((fls.drop (l * epl)).take epl).foldl (· ||| ·) flNone
    modThr s (laneRef p gid l) (fun th => { th with fpc := raiseFlags th.fpc fl })) s

/-- Each present lane receives its elements. -/
def giveRow (p : Packet) (gid : Nat) (present : List Nat) (dst epl : Nat) (vals : List Nat) (s : State) : State :=
  present.foldl (fun s l =>
    (List.range epl).foldl (fun s j =>
      modThr s (laneRef p gid l) (fun th => putReg th (dst + j) (BitVec.ofNat 32 (vals.getD (l * epl + j) 0)))) s) s

/-! ## Checks (R116) -/

/-- The checks 1 to 3, with the offsets of the elements and scales. -/
def glzCheck (s : State) (p : Packet) (gid : Nat) (c : GlzCtl) (rot mem : Bool) : Except Flt (Nat × Nat) :=
  let g := grpOf s p.team gid
  let kb := (lo32 (sregOf g c.kb.toNat)).toNat
  let ela := (sregOf g c.ela.toNat).toNat
  let sca := (sregOf g c.sca.toNat).toNat
  if rot && kb % 2 ^ glzLn c != 0 then .error (flt fMISALIGN)
  else if !mem then .ok (0, 0)
  else if ela % 4 ≠ 0 then .error (flt fMISALIGN)
  else
    let tm := teamOf s p.team
    match ownAbuf tm ela (glzElemBytes c) with
    | none => .error (fltAt fBUFFER_ACCESS (BitVec.ofNat 64 ela))
    | some x =>
      if c.sck = 0#2 then .ok (x, 0)
      else match ownAbuf tm sca (glzScaleBytes c) with
        | none => .error (fltAt fBUFFER_ACCESS (BitVec.ofNat 64 sca))
        | some y => .ok (x, y)

/-- Registers of a Glaze form: sources from SA and destinations from DST, Epl of each. -/
def glzOpnds (b : Base) (c : GlzCtl) (src dst : Bool) : Opnds where
  g := b.g
  srcs := if src then (List.range (glzEpl c)).map (fun i => (b.sa.toNat + i, b.ta)) else []
  dsts := if dst then (List.range (glzEpl c)).map (fun i => b.dst.toNat + i) else []

/-! ## GLZQ (R117) -/

/-- Narrows a row of values: its element codes, their flags, its scale codes, and the state with the generators stepped. -/
def narrowRow (p : Packet) (gid : Nat) (present : List Nat) (c : GlzCtl) (rot : Bool) (ys : List FVal) (s : State) :
    List (Nat × FpFlags) × List Nat × State :=
  let nb := narrowBlock rot (glzLn c) c.sck.toNat
  let scales := rowScales c.fmt.toNat c.sck.toNat c.signed nb ys
  let (plan, s) := roundPlan p gid present c.rm (glzEpl c) (inBadBlock ys nb) (List.range ys.length) s
  let out := (List.range ys.length).zipWith (fun i (x : Nat × Nat) =>
    rowElem c.fmt.toNat c.sck.toNat c.signed nb ys scales i x.1 x.2) plan
  (out, scales, s)

def glzqRun (b : Base) (c : GlzCtl) (p : Packet) (gid : Nat) (present : List Nat) (x y : Nat) (s : State) : State :=
  let sv := seedOf s p.team c.seed
  let kb := (lo32 (sregOf (grpOf s p.team gid) c.kb.toNat)).toNat
  let xs := rowValues s p gid present b.sa.toNat (glzEpl c)
  let ys := rotateRow rotate (glzLn c) sv kb xs
  let (out, scales, s) := narrowRow p gid present c true ys s
  let s := giveFlags p gid present (glzEpl c) (out.map (·.2)) s
  let s := putAbufClean s p.team x (packElems c.fmt.toNat (out.map (·.1)))
  let s := if c.sck = 0#2 then s else putAbufClean s p.team y (scales.map (BitVec.ofNat 8))
  setRecord s p.team b.dst.toNat (rput (recordOf (teamOf s p.team) b.dst.toNat) 208 36 (tagOf (glzLn c) sv))

/-- Check 4 of R116: the destination record. -/
def glzqRecord (r : Record) (c : GlzCtl) : Bool :=
  rBuilt r && rSpace r == spaceA && rFmt r == c.fmt.toNat && rSck r == c.sck.toNat && rSgn r == c.signed

def everyLane (present : List Nat) (f : Flt) : RvOut := .fault (present.map (fun l => (l, f)))

def execGlzq (b : Base) (c : GlzCtl) (s : State) : Out :=
  rendezvous (glzOpnds b c true false) noIll false 0xFFFFFFFF#32 (fun p gid present s =>
    if present.isEmpty then .done s
    else match glzCheck s p gid c true true with
      | .error f => everyLane present f
      | .ok (x, y) =>
        if !glzqRecord (recordOf (teamOf s p.team) b.dst.toNat) c then everyLane present (flt fRSV_INVALID)
        else .done (glzqRun b c p gid present x y s)) s

/-! ## GLZD (R118) and GLZR (R119) -/

/-- Rounds a row of values to FP32 and gives it to the lanes. Elements of blocks that R105 answers take no step; `extra` are
flags raised besides. -/
def roundRow (b : Base) (c : GlzCtl) (p : Packet) (gid : Nat) (present : List Nat) (ys : List FVal) (bad : Nat → Bool)
    (extra : Nat → FpFlags) (s : State) : State :=
  let (plan, s) := roundPlan p gid present c.rm (glzEpl c) bad (List.range ys.length) s
  let out := (List.range ys.length).zipWith (fun i (x : Nat × Nat) =>
    let r := if bad i then (fp32.nanCode, flNone) else fp32.finish x.1 false false x.2 flNone (valRes (ys.getD i (.nan false)))
    (r.1, r.2 ||| extra i)) plan
  giveRow p gid present b.dst.toNat (glzEpl c) (out.map (·.1))
    (giveFlags p gid present (glzEpl c) (out.map (·.2)) s)

def glzdRun (b : Base) (c : GlzCtl) (p : Packet) (gid : Nat) (present : List Nat) (x y : Nat) (s : State) : State :=
  let buf := (teamOf s p.team).abuf
  let sv := seedOf s p.team c.seed
  let kb := (lo32 (sregOf (grpOf s p.team gid) c.kb.toNat)).toNat
  let rd := fun i => bufRead buf (x + i)
  let ds := (List.range (glzLen c)).map (fun i =>
    decodeElem c.fmt.toNat c.sck.toNat c.signed (elemAt c.fmt.toNat rd i)
      (bufRead buf (y + i / scaleBlock c.sck.toNat)).toNat)
  let vs := ds.map (·.1)
  let nv := fun i => if (ds.getD i (.nan false, false)).2 then flNV else flNone
  if c.rot then
    roundRow b c p gid present (rotateRow invRotate (glzLn c) sv kb vs) (inBadBlock vs (2 ^ glzLn c)) nv s
  else roundRow b c p gid present vs (fun _ => false) nv s

/-- A poisoned A-buffer word among the bytes that GLZD reads poisons what it writes (R222): every destination register of every
present lane, with ROT 0 too, since the manual names no extent within a row (DESIGN CHOICE, log entry 66). -/
def glzdPoison (b : Base) (c : GlzCtl) (p : Packet) (gid : Nat) (present : List Nat) (s : State) : State :=
  present.foldl (fun s l => (List.range (glzEpl c)).foldl (fun s j =>
    modThr s (laneRef p gid l) (fun th => putReg th (b.dst.toNat + j) (regVal th (b.dst.toNat + j)) true)) s) s

def execGlzd (b : Base) (c : GlzCtl) (s : State) : Out :=
  rendezvous (glzOpnds b c false true) noIll false 0xFFFFFFFF#32 (fun p gid present s =>
    if present.isEmpty then .done s
    else match glzCheck s p gid c c.rot true with
      | .error f => everyLane present f
      | .ok (x, y) =>
        let bad := abufBad s p.team x (glzElemBytes c) || (c.sck != 0#2 && abufBad s p.team y (glzScaleBytes c))
        let s := glzdRun b c p gid present x y s
        .done (if bad then glzdPoison b c p gid present s else s)) s

def glzrRun (inv : Bool) (b : Base) (c : GlzCtl) (p : Packet) (gid : Nat) (present : List Nat) (s : State) : State :=
  let sv := seedOf s p.team c.seed
  let kb := (lo32 (sregOf (grpOf s p.team gid) c.kb.toNat)).toNat
  let xs := rowValues s p gid present b.sa.toNat (glzEpl c)
  let bad := inBadBlock xs (2 ^ glzLn c)
  let ys := rotateRow (if inv then invRotate else rotate) (glzLn c) sv kb xs
  roundRow b c p gid present ys bad (fun i => if bad i then flNV else flNone) s

def glzr (inv : Bool) (b : Base) (c : GlzCtl) (s : State) : Out :=
  rendezvous (glzOpnds b c true true) noIll false 0xFFFFFFFF#32 (fun p gid present s =>
    if present.isEmpty then .done s
    else match glzCheck s p gid c true false with
      | .error f => everyLane present f
      | .ok _ => .done (glzrRun inv b c p gid present s)) s

def execGlzrFwd (b : Base) (c : GlzCtl) (s : State) : Out := glzr false b c s
def execGlzrInv (b : Base) (c : GlzCtl) (s : State) : Out := glzr true b c s

end Sys2Proof.Machine
end

