-- ==== Sys2Proof/Machine/Bank.lean ====
section
/-! DEFINITION. Register residence (R132 to R134, R136): the room in a core's banks and backing, victims, and how long a move
takes. -/

namespace Sys2Proof.Machine

/-- Register blocks of 32 registers that a thread of the team takes. -/
def blocksOf (tm : Team) : Nat := (tm.hdr.regs + 31) / 32

/-- The threads whose register blocks and slots a core holds. -/
def slotThreads (s : State) (core : Nat) : List (ThrRef × Thread) :=
  let teams := (s.teams.filter (fun e => e.2.core == core && e.2.state != .saved)).map (·.1)
  (s.threads.filter (fun e => teams.contains (e.1 / 1024))).map (fun e => (refOf e.1, e.2))

/-- Blocks in use in the bank of a home lane, of 128. -/
def bankUsed (s : State) (core lane : Nat) : Nat :=
  (slotThreads s core).foldl (fun n x =>
    if x.1.lane == lane && x.2.res != .backed then n + blocksOf (teamOf s x.1.team) else n) 0

def bankBlocks : Nat := 128

/-- Blocks in use in the banks and in backing. -/
def blocksUsed (s : State) (core : Nat) : Nat := (slotThreads s core).foldl (fun n x => n + blocksOf (teamOf s x.1.team)) 0

/-- The register capacity of a core in blocks: 32 banks, and its share of 1,024 blocks for each backing unit. -/
def blockCapacity (s : State) (core : Nat) : Nat := 32 * bankBlocks + spUnits s (coreTower core) 4 * 1024

/-- Whether `n` more threads on each home lane, of `blk` blocks each, find room. -/
def blocksFit (s : State) (core n blk : Nat) : Bool :=
  if (coreOf s core).thresh = 0#16 then groupLanes.all (fun l => decide (bankUsed s core l + n * blk ≤ bankBlocks))
  else decide (blocksUsed s core + 32 * n * blk ≤ blockCapacity s core)

/-- The threads that a core counts as backed. -/
def backedCount (s : State) (core : Nat) : Nat := ((slotThreads s core).filter (fun x => x.2.res != .resident)).length

/-- A move of a thread's registers starts: 60 ns, and 1 core clock for every 128 bytes of the set (R133). The clocks come first. -/
def startMove (s : State) (t : ThrRef) (res : Residence) (e : Instr) : State :=
  let k := thrClock s t + blocksOf (teamOf s t.team)
  scheduleClk (modThr s t (fun th => { th with res := res, move := .clk k })) (coreQuad (thrCore s t)) k e

/-- What the event of a move finds: its clocks or its 60 ns still run, its clocks are over, or it ends. -/
inductive MoveNow where
  | early
  | clocksOver
  | over
  deriving DecidableEq, Repr

def moveNow (s : State) (t : ThrRef) : MoveNow :=
  match (thrOf s t).move with
  | .clk k => if thrClock s t < k then .early else .clocksOver
  | .tick u => if s.now < u then .early else .over

/-- The 60 ns of a move follow its clocks. -/
def moveTail (s : State) (t : ThrRef) (e : Instr) : State :=
  let u := s.now + 60 * nsTicks
  schedule (modThr s t (fun th => { th with move := .tick u })) u e

def bankHasRoom (s : State) (t : ThrRef) : Bool :=
  decide (bankUsed s (thrCore s t) t.lane + blocksOf (teamOf s t.team) ≤ bankBlocks)

/-- A thread that may be moved out (R134): idle for THRESH core clocks. -/
def mayMove (s : State) (core lane : Nat) (x : ThrRef × Thread) : Bool :=
  let idle := match x.2.stat with
    | .parked _ => true
    | .waiting _ => true
    | .faultWait _ _ => true
    | _ => false
  x.1.lane == lane && x.2.res == .resident && idle && (coreOf s core).thresh != 0#16
    && decide (x.2.idleSince + (coreOf s core).thresh.toNat ≤ coreClock s core)

/-- The victim of a home lane: idle longest, then the lowest `%tid`; of equals of two teams, the one of the lower team key (DESIGN
CHOICE, log entry 67). -/
def bankVictim (s : State) (core lane : Nat) : Option ThrRef :=
  ((slotThreads s core).filter (mayMove s core lane)).foldl (fun (b : Option (ThrRef × Thread)) x =>
    match b with
    | none => some x
    | some y =>
      if x.2.idleSince < y.2.idleSince || (x.2.idleSince == y.2.idleSince && decide (tid x.1 < tid y.1)) then some x else b) none
    |>.map (·.1)

/-- The backed threads that would be READY. -/
def recallable (s : State) : List ThrRef :=
  (s.threads.filter (fun e => e.2.stat == .ready && e.2.res == .backed)).map (fun e => refOf e.1)

/-- A move out of a lane is under way. -/
def movingOut (s : State) (core lane : Nat) : Bool :=
  (slotThreads s core).any (fun x => x.1.lane == lane && x.2.res == .movingOut)

end Sys2Proof.Machine
end

