-- ==== Sys2Proof/Machine/Sched.lean ====
section
/-! DEFINITION. What the machine does next: scripted inputs, events that are due, a core's picker (R125, R176, R177), the fetch
of its instruction (R28, R30), or the passage of time; and how a word is placed as the next instruction to run. -/

namespace Sys2Proof.Machine

/-! ## The picker -/

/-- R125, with the states in which a context's teams issue (R364, R377), an ungated quad (R459) and no ratio stop (R19). -/
def issuable (s : State) (t : ThrRef) (th : Thread) : Bool :=
  let tm := teamOf s t.team
  let c := (ctxOf s tm.ctx).state
  let g := grpOf s t.team t.gid
  th.stat == .ready && th.res == .resident
    && (g.state == .active || (g.state == .held && (th.mode == .save || th.mode == .rest)))
    && (tm.state == .running || tm.state == .saving) && (c == .running || c == .preempting)

/-- The threads of a core, in the order of their keys. -/
def coreThreads (s : State) (core : Nat) : List (ThrRef × Thread) :=
  let teams := (s.teams.filter (fun e => e.2.core == core && !e.2.freed)).map (·.1)
  (s.threads.filter (fun e => teams.contains (e.1 / 1024))).map (fun e => (refOf e.1, e.2))

def coreReady (s : State) (core : Nat) : List (ThrRef × Thread) :=
  (coreThreads s core).filter (fun x => issuable s x.1 x.2)

/-- Whether the picker of a core runs: its quad is ungated and not stopped, its tower is online. -/
def coreRuns (s : State) (core : Nat) : Bool :=
  let q := quadOf s (coreQuad core)
  !q.gated && q.stopUntil.isNone && (towerOf s (coreTower core)).tstate == 0#2

/-- Picker cycles after which an issuable thread is starved (R176). -/
def starveAt : Nat := 512

/-- Whether thread `a` leads before thread `b` (R176). -/
def leadsBefore (s : State) (a b : ThrRef × Thread) : Bool :=
  let sa := decide (starveAt ≤ a.2.waited)
  let sb := decide (starveAt ≤ b.2.waited)
  let ta := teamOf s a.1.team
  let tb := teamOf s b.1.team
  let tie := if ta.placed ≠ tb.placed then decide (ta.placed < tb.placed)
    else if a.1.team ≠ b.1.team then decide (a.1.team < b.1.team) else decide (tid a.1 < tid b.1)
  if sa != sb then sa
  else if sa then (if a.2.waited ≠ b.2.waited then decide (b.2.waited < a.2.waited) else tie)
  else if ta.prio ≠ tb.prio then decide (tb.prio < ta.prio)
  else if a.2.turns ≠ b.2.turns then decide (b.2.turns < a.2.turns)
  else tie

def leader (s : State) : List (ThrRef × Thread) → Option (ThrRef × Thread)
  | [] => none
  | x :: r => match leader s r with
    | none => some x
    | some y => some (if leadsBefore s x y then x else y)

/-- The instructions that are rendezvous (R113, R170, and the entries that say so). -/
def isRendezvous : Instr → Bool
  | .glzq .. | .glzd .. | .glzrFwd .. | .glzrInv .. | .fork .. | .xlane .. | .vote .. | .peers .. | .gred .. | .scan ..
  | .gsync .. | .wrsrExm .. | .sld .. | .srd .. | .v2s .. | .rsvq .. | .cpy .. | .cpyt .. | .cpyr .. | .coll ..
  | .smov .. | .sadd .. | .ssub .. | .smul .. | .sand .. | .sor .. | .sxor .. | .sshl .. | .sshr .. | .scmp .. => true
  | _ => false

/-- Adds the threads of one group whose home lanes are free (R177); at most four groups contribute. -/
def takeGroup (pool : List ThrRef) (acc : List ThrRef) (gid : Nat) : List ThrRef :=
  let mine := pool.filter (fun t => t.gid == gid && !acc.any (fun u => u.lane == t.lane))
  if ((acc.map (·.gid)).eraseDups).length < 4 then acc ++ mine else acc

/-- The packet of a leader (R177), in ascending home lane. -/
def fillPacket (ready : List (ThrRef × Thread)) (l : ThrRef × Thread) (alone : Bool) : List ThrRef :=
  let pool := (ready.filter (fun x => x.1.team == l.1.team && x.2.pc == l.2.pc)).map (·.1)
  let first := l.1 :: pool.filter (fun t => t.gid == l.1.gid && t.lane != l.1.lane)
  let all := if alone then first else ((List.range 32).filter (· != l.1.gid)).foldl (takeGroup pool) first
  (List.range 32).filterMap (fun i => all.find? (fun t => t.lane == i))

/-! ## Fetch (R27, R28, R30, R53) -/

/-- What a fetch finds: an instruction at `pc` of `len` bytes; a fault of steps 1 to 4 at `pc`, with the AUX of its
record; pad words up to `pc`; or a page that is being moved. -/
inductive Fetched where
  | instr (i : Instr) (pc : Word64) (len : Nat)
  | bad (code : Nat) (pc : Word64) (aux : Nat)
  | more (pc : Word64)
  | held (move : Nat)

/-- What a fetch of the 32-byte block at `va` may return (R30): the block as it stood when the team was placed, as it stood before each
write since, and as it stands. -/
def codeVersions (s : State) (tm : Team) (va pa : Nat) : List (List Byte) :=
  (if codeSpan tm.hdr (va / 32) && tm.codePages.contains (va / 65536) then [bufReadN tm.code va 32] else [])
    ++ (s.codePast.filter (fun e => e.block == pa / 32 && decide (tm.codeFrom ≤ e.stamp))).map (·.bytes) ++ [physRead s pa 32]

/-- The block that a fetch returns: one of its versions, chosen for this fetch alone. -/
def codeBlock (s : State) (tm : Team) (va pa : Nat) : List Byte :=
  match (codeVersions s tm va pa).eraseDups with
  | [b] => b
  | vs => vs.getD (Config.version s.fresh % vs.length) (physRead s pa 32)

/-- Reads the words of one block from `pc` on (R28); `n` bounds the words looked at. -/
def scanBlock (bs : List Byte) : Nat → Word64 → Fetched
  | 0, pc => .more pc
  | n + 1, pc =>
    let o := pc.toNat % 32
    let w := wordAt bs o
    if w = 0xFFFFFFFF#32 then
      if o = 28 then .more (pc + 4) else scanBlock bs n (pc + 4)
    else match lenOf w with
      | none => .bad fILLOP pc 0
      | some len =>
        if 32 < o + len then .bad fFETCH_SPLIT pc 0
        else match decodeWords w (wordAt bs (o + 4)) (wordAt bs (o + 8)) (wordAt bs (o + 12)) with
          | some i => .instr i pc len
          | none => .bad fILLOP pc 0

def fetchAccess : Acc := { exec := true, kind := 0 }

/-- The fetch of a block from another die's home: the line is read there, once for each fetch. -/
def fetchFar (s : State) (core pa : Nat) (pc : Word64) : Fetched × State :=
  match farRead s (pa / 128) with
  | none => (.held 0, askFar s (some core) (pa / 128))
  | some f => (if f.bad then .bad fPOISON pc 0 else scanBlock ((f.bytes.drop (pa % 128)).take 32) 8 pc, dropFarReads s [pa / 128])

/-- The fetch of a block: translation, execute permission, poison, then the words. -/
def fetchAt (s : State) (core : Nat) (tm : Team) (pc : Word64) : Fetched × State :=
  let va := pc.toNat / 32 * 32
  if 2 ^ 56 ≤ pc.toNat then (.bad fPAGE_PERM pc 0, s)
  else match translate s (some core) tm.ctx va fetchAccess with
    | .fault f s => (.bad f.code pc f.aux, s)
    | .held m s => (.held m, s)
    | .ok x s =>
      if isFar s x.pa then fetchFar s core x.pa pc
      else if poisoned s (x.pa / 128) (wordMask (x.pa % 128) 32) then (.bad fPOISON pc 0, s)
      else
        let bs := codeBlock s tm va x.pa
        (scanBlock bs 8 pc, { s with fresh := s.fresh + 1, codeFrames := addSorted (x.pa / 65536) s.codeFrames })

/-- Fetches over whole blocks of pad words, which take no issue slot (R28); `n` bounds them. -/
def fetchOver (core : Nat) (tm : Team) : Nat → Word64 → State → Fetched × State
  | 0, pc, s => (.more pc, s)
  | n + 1, pc, s =>
    match fetchAt s core tm pc with
    | (.more pc', s) => fetchOver core tm n pc' s
    | r => r

/-! ## Safe points (R124, R135, R175, R272) -/

/-- The waits at which a pre-emption request finds a safe point, for the instructions of R69. -/
def safeWait (w : WaitWhy) : Bool :=
  match w with
  | .rendezvous _ _ _ _ => true
  | .bar _ _ => true
  | .barw _ => true
  | .gridStep => true
  | .mwait _ _ => true
  | .queue _ _ _ => true
  | _ => false

def regsFull (th : Thread) : Bool := th.v.all (fun e => e.2.full)

/-- The used entry of the safe-point table whose PC is the offset of an instruction (R323). -/
def safeEntry (h : Header) (pc : Word64) : Option Nat :=
  (h.safepts.find? (fun e => e.2.pc != 0 && e.2.pc == (pc - h.addr).toNat)).map (·.1)

/-- The save routine at which a thread of a team in SAVING stops: routine 0 for every live thread of a held group, one in its
handler too, which cannot run on (R169); and the entry of its PC
for a thread at a waiting instruction. A step that is complete goes on first. -/
def saveIndex (s : State) (t : ThrRef) (th : Thread) : Option Nat :=
  let tm := teamOf s t.team
  let held := (grpOf s t.team t.gid).state == .held
  if tm.state != .saving || (quadOf s (coreQuad tm.core)).stopUntil.isSome || !(th.mode == .normal || (held && th.mode == .trap)) || !regsFull th then none
  else if held then
    match th.stat with
    | .ready => some 0
    | .parked _ => some 0
    | .waiting w => if safeWait w then some 0 else none
    | _ => none
  else match th.stat with
    | .waiting w =>
      if safeWait w && !(w == .gridStep && tm.stepDone)
          && !((grpOf s t.team t.gid).sld.isSome && (match w with | .rendezvous _ _ _ _ => true | _ => false)) then
        safeEntry tm.hdr th.pc
      else none
    | _ => none

def dueSave (s : State) : Option (ThrRef × Nat) :=
  s.threads.findSome? (fun e => (saveIndex s (refOf e.1) e.2).map (fun i => (refOf e.1, i)))

/-- A thread enters its save routine (R339, R377): SAFEPOINT is READY in mode SAVE at the routine. A waiter of a queue gives
up its place, an MWAIT disarms. -/
def enterSave (s : State) (t : ThrRef) (i : Nat) : State :=
  let tm := teamOf s t.team
  let pt := tgetD tm.hdr.safepts i { pc := 0, save := 0, rest := 0 }
  let s := match (thrOf s t).stat with
    | .waiting (.queue q _ _) => modQueue s q (fun x => { x with waiters := x.waiters.filter (· != t) })
    | .waiting (.barw _) => dropWatcher s t
    | _ => s
  modThr s t (fun th =>
    { th with
      stat := .ready, mode := .save, resume := BitVec.ofNat 8 i, savedAtSp := true, rel := none
      pc := tm.hdr.addr + BitVec.ofNat 64 pt.save, idleSince := thrClock s t })

/-- The waiting instructions of R69. -/
def isWaiting : Instr → Bool
  | .barWait .. | .barwWait .. | .mwait .. | .deq .. | .step .. => true
  | i => isRendezvous i

/-- A thread that stands READY at a waiting instruction under a pre-emption request (R124): it enters the save routine of that
PC, once its registers are full (R135). -/
def standAt (i : Nat) (s : State) (t : ThrRef) : State :=
  let th := thrOf s t
  if regsFull th then enterSave s t i else park s t ((th.v.filter (fun e => !e.2.full)).map (·.1))

/-- The save routine that a packet's threads enter instead of executing the instruction fetched for them. -/
def standIndex (s : State) (l : ThrRef × Thread) (i : Instr) (pc : Word64) : Option Nat :=
  let tm := teamOf s l.1.team
  let g := grpOf s l.1.team l.1.gid
  if tm.state == .saving && l.2.mode == .normal && isWaiting i && g.state == .active && !(isRendezvous i && g.sld.isSome) then
    safeEntry tm.hdr pc
  else none

/-! ## One step -/

/-- What comes next: the machine stands still for good; an instruction or event executes in a state; or the state alone
changes. -/
inductive Choice where
  | stop
  | run (i : Instr) (s : State)
  | next (s : State)

/-- The picker's bookkeeping for one cycle: a thread left out has waited one more cycle; one that is not issuable starts anew when
it becomes so; and the next cycle comes after `%passcnt` core clocks (R176). -/
def countCycle (s : State) (core : Nat) (issued : List ThrRef) : State :=
  let q := quadOf s (coreQuad core)
  let s := (coreThreads s core).foldl (fun s x =>
    if issued.contains x.1 then modThr s x.1 (fun th => { th with waited := 0, turns := 0 })
    else if issuable s x.1 x.2 then modThr s x.1 (fun th => { th with waited := th.waited + 1, turns := th.turns + 1 })
    else if x.2.turns = 0 then s else modThr s x.1 (fun th => { th with turns := 0 })) s
  modCore s core (fun c => { c with nextPick := clockOf s q + passCount q })

/-- The forms of the special-function lanes (R129). -/
def usesSfu : Instr → Bool
  | .rcp .. | .rsq .. | .ex2 .. | .lg2 .. | .sin .. | .cos .. | .tanh .. => true
  | _ => false

/-- One more than the 32-byte blocks below 2^56: a fetch that finds nothing but pad words faults at the end of them (R198). -/
def fetchBlocks : Nat := 2 ^ 51 + 1

/-- The leader, and what is fetched at its PC. While the special-function lanes serve an earlier packet, a thread at one of
their forms is passed over (R129). `n` bounds the threads passed over. -/
def chooseLeader (core : Nat) : Nat → List (ThrRef × Thread) → State → Option ((ThrRef × Thread) × Fetched) × State
  | 0, _, s => (none, s)
  | n + 1, ready, s =>
    match leader s ready with
    | none => (none, s)
    | some l =>
      match fetchOver core (teamOf s l.1.team) fetchBlocks l.2.pc s with
      | (.instr i pc len, s) =>
        if usesSfu i && decide (coreClock s core < (coreOf s core).sfuUntil) then
          chooseLeader core n (ready.filter (fun x => x.1 != l.1)) s
        else (some (l, .instr i pc len), s)
      | (r, s) => (some (l, r), s)

/-- One picker cycle of a core. -/
def pickerCycle (s : State) (core : Nat) : Choice :=
  let ready := coreReady s core
  match chooseLeader core ready.length ready s with
  | (none, s) => .next (countCycle s core [])
  | (some (l, r), s) =>
    let alone := match r with | .instr i _ _ => isRendezvous i | _ => false
    let ts := fillPacket ready l alone
    let s := countCycle s core ts
    let goTo := fun (s : State) (pc : Word64) => ts.foldl (fun s t => modThr s t (fun th => { th with pc := pc })) s
    let packet := fun (pc : Word64) (len : Nat) =>
      ({ core := core, team := l.1.team, pc := pc, len := len, thrs := ts.map (fun t => (t.gid, t.lane)), base := s.nextId } : Packet)
    match r with
    | .instr i pc len =>
      match standIndex s l i pc with
      | some k => .next ((ts.filter (fun t => (thrOf s t).mode == .normal)).foldl (standAt k) (goTo s pc))
      | none => .run i { goTo s pc with cur := some (packet pc len) }
    | .bad code pc aux => .run (.fetchFault (BitVec.ofNat 8 code) aux) { goTo s pc with cur := some (packet pc 0) }
    | .more pc => .next (ts.foldl (fun s t => advance s t pc) s)
    | .held m => .next (ts.foldl (fun s t => makeWait s t (.page m)) s)

/-- The cores that hold a team. -/
def teamCores (s : State) : List Nat := ((s.teams.filter (fun e => !e.2.freed)).map (fun e => e.2.core)).eraseDups

/-- A picker cycle of a core falls on this tick: a clock boundary, `%passcnt` clocks or more after the last one. -/
def pickDue (s : State) (core : Nat) : Bool :=
  onEdge s (quadOf s (coreQuad core)) && decide ((coreOf s core).nextPick ≤ coreClock s core)

/-- The tick of the next picker cycle of a core. -/
def pickTick (s : State) (core : Nat) : Nat :=
  clockTick (quadOf s (coreQuad core)) (max (coreOf s core).nextPick (coreClock s core + 1))

/-- The first core whose picker cycle is due and has a thread to issue. -/
def duePicker (s : State) : Option Nat :=
  (teamCores s).find? (fun c => coreRuns s c && pickDue s c && !(coreReady s c).isEmpty)

/-- The first core of an ungated quad with pending ballast whose idle picker cycle may run a lane ballast packet (R453). -/
def dueBallast (s : State) : Option Nat :=
  (s.quads.filter (fun e => decide (0 < e.2.balPending) && !e.2.gated && e.2.stopUntil.isNone)).findSome? (fun e =>
    (quadCores e.1).find? (fun c => coreRuns s c && pickDue s c && (coreReady s c).isEmpty))

/-- The first event of a timer that is due by `now`, and the timers without it. -/
def dueTimer (now : Nat) : Tab (List Instr) → Option (Instr × Tab (List Instr))
  | (k, e :: r) :: l => if k ≤ now then some (e, if r.isEmpty then l else (k, r) :: l) else none
  | (_, []) :: l => dueTimer now l
  | [] => none

/-- The first event of a quad that is due in its present core clock or an earlier one; while the clock stands none is. -/
def dueClock (s : State) : Option (Instr × State) :=
  s.ctimers.findSome? (fun e =>
    if clockStands (quadOf s e.1) then none
    else (dueTimer (clockOf s (quadOf s e.1)) e.2).map (fun x =>
      (x.1, { s with ctimers := if x.2.isEmpty then tdel e.1 s.ctimers else tput e.1 x.2 s.ctimers })))

/-- The next event that is due: by time first, then by the core clocks of the quads. -/
def dueEvent (s : State) : Option (Instr × State) :=
  match dueTimer s.now s.timers with
  | some x => some (x.1, { s with timers := x.2 })
  | none => dueClock s

/-- The next move of registers, at a clock boundary of its core: a backed thread that would be READY is recalled where its bank has
room, and otherwise a victim moves out (R133, R134). Of several such threads the one of the lowest team, group and lane comes first (DESIGN CHOICE,
log entry 86). No second move out of a lane starts while one is under way (DESIGN CHOICE,
log entry 67). -/
def dueMove (s : State) : Option Instr :=
  (recallable s).findSome? (fun t =>
    let core := thrCore s t
    if !onEdge s (quadOf s (coreQuad core)) then none
    else if bankHasRoom s t then some (.recallStart t)
    else if movingOut s core t.lane then none
    else (bankVictim s core t.lane).map (fun _ => .moveOutStart core t.lane))

/-- The next core clock of each core with a backed thread that would be READY. -/
def moveTicksDue (s : State) : List Nat :=
  (recallable s).filterMap (fun t =>
    let q := coreQuad (thrCore s t)
    if clockStands (quadOf s q) then none else some (nextClock s q))

/-- The ticks of the first events that stand on the core clocks of running quads. -/
def clockTicksDue (s : State) : List Nat :=
  s.ctimers.filterMap (fun e =>
    let x := quadOf s e.1
    if clockStands x then none else (e.2.head?).map (fun y => clockTick x (max y.1 (clockOf s x + 1))))

/-- The ticks at which something may next happen: the first timer, the first events of the core clocks, and the picker cycles of
cores with work. -/
def nextTick (s : State) : Option Nat :=
  let picks := ((teamCores s).filter (fun c => coreRuns s c && !(coreReady s c).isEmpty)).map (pickTick s)
  let bal := (s.quads.filter (fun e => decide (0 < e.2.balPending) && !clockStands e.2)).flatMap (fun e =>
    (quadCores e.1).map (pickTick s))
  ((s.timers.map (·.1)) ++ picks ++ bal ++ moveTicksDue s ++ clockTicksDue s).min?

/-- What happens next: scripted inputs first, then events that are due, safe points, moves of registers, picker cycles, idle cycles with ballast, and
otherwise time passes to the next of them. -/
def choose (s : State) : Choice :=
  match s.agenda with
  | .ev i :: r => .run i { s with agenda := r }
  | .pick c :: r => pickerCycle { s with agenda := r } c
  | [] =>
    match dueEvent s with
    | some (i, s) => .run i s
    | none =>
      match dueSave s with
      | some (t, i) => .next (enterSave s t i)
      | none =>
        match dueMove s with
        | some i => .run i s
        | none =>
          match duePicker s with
          | some c => pickerCycle s c
          | none =>
            match dueBallast s with
            | some c => .run (.laneBallastPacket c) s
            | none =>
              match nextTick s with
              | some k => if s.kiln.stopped then .stop else .next { s with now := max (s.now + 1) k }
              | none => if s.kiln.stopped then .stop else .next { s with now := s.now + 1 }

/-- The end of a packet. -/
def endPacket (r : Out) : Out :=
  match r with
  | .next s => .next { s with cur := none }
  | x => x

/-! ## A word to run next -/

/-- Where the word goes: virtual address 0 of context 0, in the frame at 0x10_0000, through tables at 0x2_0000. -/
def probeCode : Nat := 0x100000
def probeTables : Nat := 0x20000

/-- A leaf for a page of code and data: HBM, cached, R, W, X, A, D. -/
def probeLeaf : Nat := probeCode / 65536 * 2 ^ 28 + 2 ^ 18 + 2 ^ 17 + 2 ^ 14 + 2 ^ 12 + 31

/-- The four table entries that lead to the page (R387, R388). -/
def probeWalk (m : Mem) : Mem :=
  memPutNat (memPutNat (memPutNat (memPutNat m probeTables 8 (probeTables + 0x2000 + 1)) (probeTables + 0x2000) 8
    (probeTables + 0x4000 + 1)) (probeTables + 0x4000) 8 (probeTables + 0x6000 + 1)) (probeTables + 0x6000) 8 probeLeaf

/-- A team of context 0 with one thread and the largest declarations of a kernel header. -/
def probeTeam : Team :=
  { hdr := { regs := 1024, nsp := 1, abuf := 262144, wbuf := 131072, cbuf := 32, bars := 16, rsvn := 32, traph := 0x8000#64 }
    counted := true }

/-- The machine with one thread of context 0 on core 0 about to fetch the word: what loading a program from outside does
(log entry 13). -/
def placeWord (s : State) (nbits w : Nat) : State :=
  { s with
    mem := memWriteN (probeWalk s.mem) probeCode (leBytes (w % 2 ^ nbits) 16)
    threads := tput (thrKey { team := 0, gid := 0, lane := 0 }) {} s.threads
    groups := tput (grpKey 0 0) { exm := 1#32, live := 1#32 } s.groups
    teams := tput 0 probeTeam s.teams
    ctxs := tput 0 { ctxOf s 0 with state := .running, ptroot := BitVec.ofNat 64 probeTables } s.ctxs
    cores := tdel 0 s.cores
    quads := tput 0 { gated := false } s.quads
    towers := tdel 0 s.towers
    spans := []
    moves := []
    poison := []
    kiln := { s.kiln with stopped := false }
    agenda := [.pick 0]
    cur := none }

end Sys2Proof.Machine
end

