-- ==== Sys2Proof/Machine/Engine.lean ====
section
/-! DEFINITION. The matrix engine (R252 to R259, R262, R265 to R273, R279, R280, R283): its request table, arbiter and passes,
Pug, and the end of a command. -/

namespace Sys2Proof.Machine

/-! ## Clocks -/

/-- The arbiter looks at the table at the next clock (R257). -/
def kickEngine (s : State) (q : Nat) : State :=
  if clockStands (quadOf s q) then s
  else
    let k := clockOf s (quadOf s q) + 1
    let e := Instr.engineArbitrate q
    if (tgetD (tgetD s.ctimers q []) k []).contains e then s else scheduleClk s q k e

/-! ## Commands -/

/-- Kp (R252). -/
def kpOf (fmt : Nat) : Nat := if fmt = 1 ∨ fmt = 2 then 16 else if fmt = 3 ∨ fmt = 4 ∨ fmt = 8 then 32 else 64

def cmdKp (e : MeCmd) : Nat := min (kpOf (rFmt e.ra)) (kpOf (rFmt e.rb))

def intFmt (r : Record) : Bool := (rFmt r == 8 || rFmt r == 9) && rSck r == 0 && !rRotd r

/-- Whether the command accumulates into INT32 (R96). -/
def intAcc (e : MeCmd) : Bool := intFmt e.ra && intFmt e.rb

/-- The lanes and tiles of a command. -/
def cmdRows (e : MeCmd) : List (Nat × Nat) :=
  (List.range (e.nb + 1)).flatMap (fun q => (lanesOf e.mask).map (fun l => (e.tile + q, l)))

def cmdWritesC (e : MeCmd) : Bool := e.kind != .mmw
def cmdReadsC (e : MeCmd) : Bool := e.kind == .mmw || e.acc

def cmdOverlap (x y : MeCmd) : Bool :=
  decide (x.tile ≤ y.tile + y.nb ∧ y.tile ≤ x.tile + x.nb) && x.mask &&& y.mask != 0#32

/-- Whether `y`, accepted after `x`, waits for it (R256). -/
def cmdBlocks (x y : MeCmd) : Bool :=
  x.team == y.team && decide (x.id < y.id)
    && ((cmdOverlap x y && (cmdWritesC x || (cmdReadsC x && cmdWritesC y)))
        || (x.kind == .mmw && (y.srcA == x.dst || y.srcB == x.dst))
        || (y.kind == .mmw && (x.srcA == y.dst || x.srcB == y.dst)))

def cmdBlocked (me : List MeCmd) (e : MeCmd) : Bool := me.any (fun x => cmdBlocks x e)

/-- Whether an entry is in the set E of R257 at a clock. -/
def cmdEligible (me : List MeCmd) (clk : Nat) (e : MeCmd) : Bool :=
  !e.held && e.doneAt.isNone && !e.todo.isEmpty && decide (e.since ≤ clk) && !cmdBlocked me e

def cmdOf (s : State) (q id : Nat) : Option MeCmd := (quadOf s q).me.find? (fun e => e.id == id)

def modCmd (s : State) (q id : Nat) (f : MeCmd → MeCmd) : State :=
  modQuad s q (fun x => { x with me := x.me.map (fun e => if e.id == id then f e else e) })

/-- Counts the clocks that eligible entries have waited (R257). -/
def countWaits (s : State) (q : Nat) : State :=
  let clk := clockOf s (quadOf s q)
  modQuad s q (fun x =>
    { x with me := x.me.map (fun e =>
        if clk < e.since then e
        else
          let runs := match x.busy with | some (id, _) => id == e.id | none => false
          let w := if cmdEligible x.me clk e && !runs then clk - e.since else 0
          { e with wait := e.wait + w, since := clk }) })

/-! ## Operand bytes -/

/-- The element and scale bytes of one row over K indices `k0` to `k0 + n - 1`. -/
def rowRanges (r : Record) (row k0 n : Nat) : List (Nat × Nat) := elemRanges r row 1 k0 n ++ scaleRanges r row 1 k0 n

/-- The lines that a byte range touches. -/
def linesIn (x : Nat × Nat) : List Nat := if x.2 = 0 then [] else List.range' (x.1 / 128) ((x.1 + x.2 - 1) / 128 - x.1 / 128 + 1)

def pageOf (pages : List (Nat × Nat × Word64)) (vpn : Nat) : Option (Nat × Word64) :=
  (pages.find? (fun x => x.1 == vpn)).map (·.2)

/-- The physical line of a virtual line of a streamed operand, and its leaf. -/
def streamLine (pages : List (Nat × Nat × Word64)) (vline : Nat) : Option (Nat × Word64) :=
  (pageOf pages (vline / 512)).map (fun x => (x.1 / 128 + vline % 512, x.2))

/-- A byte that a command reads from an operand. -/
def operandByte (tm : Team) (e : MeCmd) (r : Record) (a : Nat) : Byte :=
  if rSpace r = spaceA then bufRead tm.abuf (a % 2 ^ 18)
  else if rSpace r = spaceW then bufRead tm.wbuf (a % 2 ^ 17)
  else match streamLine e.pages (a / 128) with
    | some x => bufRead (tgetD e.lines x.1 []) (a % 128)
    | none => 0#8

/-- Whether a range holds a poisoned buffer word, or a poisoned or lost line (R270). -/
def rangeBad (tm : Team) (e : MeCmd) (r : Record) (x : Nat × Nat) : Bool :=
  let inWords := fun (a : Nat) (ws : List Nat) => x.2 != 0 && ws.any (fun w => decide (a / 4 ≤ w ∧ w ≤ (a + x.2 - 1) / 4))
  if rSpace r = spaceA then inWords (x.1 % 2 ^ 18) tm.apoison
  else if rSpace r = spaceW then inWords (x.1 % 2 ^ 17) tm.wpoison
  else (linesIn x).any (fun v => match streamLine e.pages v with
    | some y => e.bad.contains y.1 || e.lost.contains y.1
    | none => false)

/-- The decoded values of one row over the K indices of a pass (R84). -/
def operandRow (tm : Team) (e : MeCmd) (r : Record) (sgn : Bool) (row k0 n : Nat) : List FVal :=
  let base := rBase r + row * rLdim r
  let sbase := rBase r + rScoff r + row * rScld r
  (List.range n).map (fun i =>
    let k := k0 + i
    (decodeElem (rFmt r) (rSck r) sgn (elemAt (rFmt r) (fun o => operandByte tm e r (base + o)) k)
      (if rSck r = 0 then 0 else (operandByte tm e r (sbase + k / scaleBlock (rSck r))).toNat)).1)

/-- The ranges that pass (p, q) reads: A rows of the active lanes, B rows of the chunk. -/
def passRangesA (e : MeCmd) (p : Nat) : List (Nat × Nat) :=
  (lanesOf e.mask).flatMap (fun l => rowRanges e.ra (e.m0 + l) (e.k0 + p * cmdKp e) (cmdKp e))
def passRangesB (e : MeCmd) (p q : Nat) : List (Nat × Nat) :=
  (List.range 32).flatMap (fun j => rowRanges e.rb (e.n0 + 32 * q + j) (e.k0 + p * cmdKp e) (cmdKp e))

/-- Whether every streamed byte of a pass has arrived. -/
def passReady (e : MeCmd) (pq : Nat × Nat) : Bool :=
  let have' := fun (r : Record) (xs : List (Nat × Nat)) =>
    rSpace r != spaceG || xs.all (fun x => (linesIn x).all (fun v => match streamLine e.pages v with
      | some y => !e.need.contains y.1
      | none => true))
  (e.kind != .mma && e.kind != .mmat) || e.need.isEmpty
    || (have' e.ra (passRangesA e pq.1) && have' e.rb (passRangesB e pq.1 pq.2))

/-! ## Passes (R96 to R99, R252, R279) -/

/-- A K-length sum scaled by 1/n: the exponents of one operand fall by LN. -/
def lowerExp (ln : Nat) : FVal → FVal
  | .fin n m e => .fin n m (e - ln)
  | x => x

/-- One pass of one element. -/
def passElem (e : MeCmd) (old : Word32) (a b : List FVal) : Word32 :=
  if intAcc e then
    let sum := (a.zip b).foldl (fun (acc : Int) x => match mulTerm x.1 x.2 with
      | { neg := n, m := m, e := _ } => if n then acc - m else acc + m) 0
    let v := old.toInt + sum
    if e.satI then BitVec.ofInt 32 (max (-(2 ^ 31)) (min v (2 ^ 31 - 1))) else BitVec.ofInt 32 v
  else
    let c := fp32.read old.toNat
    BitVec.ofNat 32 (fp32.finish rcRNE false false 0 flNone (sumProds rcRNE (c :: a ++ b) (a.zip b) (some c))).1

def cRowPoison (tm : Team) (tile row : Nat) : Bool :=
  (crowOf tm tile row).poison || (List.range 32).any (fun j => tm.cpoison.contains (tile * 1024 + row * 32 + j))

def cWord (tm : Team) (tile row j : Nat) : Word32 := tgetD tm.cbuf (tile * 1024 + row * 32 + j) 0#32

/-- Whether the pass is the first of its chunk. -/
def firstPass (e : MeCmd) (q : Nat) : Bool := (lanesOf e.mask).all (fun l => (tget e.vals (l * 256 + 32 * q)).isNone)

/-- Whether a pass reads something poisoned (R270). -/
def passFails (tm : Team) (e : MeCmd) (pq : Nat × Nat) : Bool :=
  match e.kind with
  | .mmz => false
  | .mmw => (lanesOf e.mask).any (fun l => cRowPoison tm (e.tile + pq.2) l)
  | _ =>
    (e.acc && firstPass e pq.2 && (lanesOf e.mask).any (fun l => cRowPoison tm (e.tile + pq.2) l))
      || (passRangesA e pq.1).any (rangeBad tm e e.ra) || (passRangesB e pq.1 pq.2).any (rangeBad tm e e.rb)

/-- The lost lines among those a pass reads: the failure is that of a link. -/
def passLost (e : MeCmd) : Bool := !e.lost.isEmpty

/-- The chunk's values after a pass, by row × 256 + column. -/
def passVals (tm : Team) (e : MeCmd) (pq : Nat × Nat) : Tab Word32 :=
  let q := pq.2
  match e.kind with
  | .mmz => e.vals
  | .mmw =>
    (lanesOf e.mask).foldl (fun v l => (List.range 32).foldl (fun v j =>
      tput (l * 256 + 32 * q + j) (cWord tm (e.tile + q) l j) v) v) e.vals
  | _ =>
    let kp := cmdKp e
    let ln := if rRotd e.ra then rLn e.ra else 0
    let k := e.k0 + pq.1 * kp
    let bs := (List.range 32).map (fun j => operandRow tm e e.rb e.sgnB (e.n0 + 32 * q + j) k kp)
    (lanesOf e.mask).foldl (fun v l =>
      let a := (operandRow tm e e.ra e.sgnA (e.m0 + l) k kp).map (lowerExp ln)
      (List.range 32).foldl (fun v j =>
        let key := l * 256 + 32 * q + j
        let old := match tget v key with
          | some x => x
          | none => if e.acc then cWord tm (e.tile + q) l j else 0#32
        tput key (passElem e old a (bs.getD j [])) v) v) e.vals

/-! ## The end of a command (R267 to R270, R273, R283) -/

def maskedBy (e : MeCmd) (i j : Nat) : Bool :=
  let d := ((e.n0 + j : Nat) : Int) - ((e.m0 + i : Nat) : Int)
  decide ((lo32 e.dw).toInt < (if e.lower then -d else d))

/-- A chunk all of whose elements, in all 32 rows, are masked (R273). -/
def chunkSkipped (e : MeCmd) (q : Nat) : Bool :=
  e.kind == .mmat && (if e.lower then maskedBy e 0 (32 * q + 31) else maskedBy e 31 (32 * q))

/-- The values that a completed command writes into one row of a chunk; none where it writes nothing. -/
def rowOut (e : MeCmd) (q l : Nat) : Option (List Word32) :=
  match e.kind with
  | .mmz => some (List.replicate 32 0#32)
  | .mmw => none
  | _ =>
    if chunkSkipped e q then (if e.force then some (List.replicate 32 (hi32 e.dw)) else none)
    else some ((List.range 32).map (fun j =>
      if e.kind == .mmat && maskedBy e l (32 * q + j) then hi32 e.dw else tgetD e.vals (l * 256 + 32 * q + j) 0#32))

/-- Writes the rows of a completed command; a row wholly written loses its poison flag. -/
def writeRows (e : MeCmd) (tm : Team) : Team :=
  (cmdRows e).foldl (fun tm x =>
    match rowOut e (x.1 - e.tile) x.2 with
    | none => tm
    | some vs =>
      let w := x.1 * 1024 + x.2 * 32
      { tm with
        cbuf := cbufPut tm.cbuf w vs
        cpoison := tm.cpoison.filter (fun i => !decide (w ≤ i ∧ i < w + 32))
        crows := tset {} (x.1 * 32 + x.2) { crowOf tm x.1 x.2 with poison := false } tm.crows }) tm

def mmwLn (c : GlzCtl) : Nat := 4 + c.rb.toNat

/-- The element codes and scale codes that an MMW makes of one row of patterns (R283). Elements of a rotation block that the
row does not cover whole are free. -/
def mmwRow (e : MeCmd) (c : GlzCtl) (fresh : Nat) (ws : List Word32) : List Nat × List Nat :=
  let fmt := c.fmt.toNat
  let rm := c.rm.toNat
  if fmt = 0 ∨ fmt = 11 then (ws.map (·.toNat), [])
  else
    let xs := ws.map (fun w => fp32.read w.toNat)
    if fmt = 1 ∨ fmt = 2 then
      let F := if fmt = 1 then bf16 else fp16
      (xs.map (fun v => (F.finish rm false false 0 flNone (valRes v)).1), [])
    else
      let n := 2 ^ mmwLn c
      let ys := if c.rot then rotateRow rotate (mmwLn c) e.seedv e.k0 xs else xs
      let whole := if c.rot then xs.length / n * n else xs.length
      let nb := narrowBlock c.rot (mmwLn c) c.sck.toNat
      let zs := ys.take whole
      let scales := rowScales fmt c.sck.toNat c.signed nb zs
      let elems := (List.range zs.length).map (fun i => (rowElem fmt c.sck.toNat c.signed nb zs scales i rm 0).1)
      let part := (List.range (xs.length - whole)).map (fun i => Config.partBlock fresh i % 2 ^ elemBits fmt)
      let pscale := if c.sck = 0#2 then [] else
        (List.range ((xs.length - whole) / scaleBlock c.sck.toNat)).map (fun i => Config.partBlock fresh (256 + i) % 256)
      (elems ++ part, scales ++ pscale)

/-- The byte ranges of the destination that one row of an MMW covers: elements, then scales. -/
def mmwRanges (e : MeCmd) (l : Nat) : List (Nat × Nat) :=
  rowRanges e.ra (e.m0 + l) e.k0 (32 * (e.nb + 1))

/-- The write of a completed MMW. -/
def writeMmw (s : State) (e : MeCmd) (c : GlzCtl) : State :=
  (lanesOf e.mask).foldl (fun s l =>
    let (f, s) := newFresh s
    let out := mmwRow e c f ((List.range (32 * (e.nb + 1))).map (fun j => tgetD e.vals (l * 256 + j) 0#32))
    let tm := teamOf s e.team
    match mmwRanges e l with
    | x :: r =>
      let s := match ownAbuf tm x.1 x.2 with
        | some o => putAbufClean s e.team o (packElems c.fmt.toNat out.1)
        | none => s
      match r with
      | y :: _ => match ownAbuf tm y.1 y.2 with
        | some o => putAbufClean s e.team o (out.2.map (BitVec.ofNat 8))
        | none => s
      | [] => s
    | [] => s) s

/-- A failed MMW leaves the words of its active rows poisoned (R270). -/
def poisonMmw (s : State) (e : MeCmd) : State :=
  (lanesOf e.mask).foldl (fun s l => (mmwRanges e l).foldl (fun s x =>
    match ownAbuf (teamOf s e.team) x.1 x.2 with
    | some o =>
      if x.2 = 0 then s
      else modTeam s e.team (fun tm =>
        { tm with apoison := (List.range' (o / 4) ((o + x.2 - 1) / 4 - o / 4 + 1)).foldl (fun p w => addSorted w p) tm.apoison })
    | none => s) s) s

inductive CmdEnd where
  | done | discarded | failed
  deriving DecidableEq, Repr

/-- The pins of a command are released: the lines that it has fetched are guarded for their leases, or not retained under L0
unless another command pins them (R266). -/
def releasePins (s : State) (e : MeCmd) : State :=
  (e.cls.filter (fun x => (tget e.lines x.1).isSome)).foldl (fun s x =>
    match tget s.cache x.1 with
    | none => s
    | some c =>
      if c.reserve then s
      else if x.2 = 0 then (if (pinnedLines s).contains x.1 then s else { s with cache := tdel x.1 s.cache })
      else if x.2 = 7 then s
      else
        let t := s.now + (leaseOf (ctxOf s (teamOf s e.team).ctx) x.2).toNat * 256 * nsTicks
        { s with cache := tput x.1 { c with guardUntil := max c.guardUntil t } s.cache }) s

/-- Beats that wait for a C row of the team, or for a page, are looked at again (R310, R409). -/
def unblockBeats (s : State) (p : CopyCmd → Bool) : State :=
  s.copies.foldl (fun s e =>
    if p e.2 then
      let s := (e.2.beats.filter (·.blocked)).foldl (fun s b => schedule s (max s.now b.due) (.slipBeat e.1 b.id)) s
      { s with copies := tmod e.1 (fun c => { c with beats := c.beats.map (fun b => { b with blocked := false }) }) s.copies }
    else s) s

/-- Threads that wait for a row that is FULL again, and for a free entry of the quad's table; copies that read C rows. -/
def wakeEngine (s : State) (q k : Nat) : State :=
  let s := unblockBeats s (fun c => c.team == k)
  { s with threads := s.threads.map (fun e =>
      match e.2.stat with
      | .waiting (.cRow tile row) =>
        if e.1 / 1024 == k && (crowOf (teamOf s k) tile row).out == 0 then (e.1, { e.2 with stat := .ready }) else e
      | .waiting .table =>
        if coreQuad (teamOf s (e.1 / 1024)).core == q then (e.1, { e.2 with stat := .ready }) else e
      | _ => e) }

/-- The rows whose poison flags a failed command sets: not those of a skipped chunk without FORCE (R270, R273). -/
def failRows (e : MeCmd) : List (Nat × Nat) :=
  (cmdRows e).filter (fun x => e.force || !chunkSkipped e (x.1 - e.tile))

/-- A command that has failed: rows or words poisoned, one entry of the context fault log, the node's FAILED bit (R270,
R336). -/
def failMarks (s : State) (e : MeCmd) : State :=
  let tm := teamOf s e.team
  let s := if e.kind == .mmw then poisonMmw s e
    else modTeam s e.team (fun tm => (failRows e).foldl (fun tm x =>
      { tm with crows := tset {} (x.1 * 32 + x.2) { crowOf tm x.1 x.2 with poison := true } tm.crows }) tm)
  let s := faultLog s tm.ctx 0 (if passLost e then fLINK_DOWN else fPOISON) tm.index 0
  modRun s tm.ctx tm.node (fun r => { r with failed := true })

/-- A command completes, is discarded or fails (R267 to R270): its writes, its rows, its pins, then its arrival. -/
def endCommand (s : State) (q : Nat) (e : MeCmd) (how : CmdEnd) : State :=
  let s := countWaits s q
  let s := match how with
    | .done =>
      let s := modTeam s e.team (writeRows e)
      let s := match e.ctl with | some c => writeMmw s e c | none => s
      let skipped := ((List.range (e.nb + 1)).filter (chunkSkipped e)).length * e.kc
      modQuad s q (fun x => { x with meskip := x.meskip + BitVec.ofNat 64 skipped })
    | .discarded => s
    | .failed => failMarks s e
  let s := if cmdWritesC e then
      modTeam s e.team (fun tm => (cmdRows e).foldl (fun tm x =>
        { tm with crows := tset {} (x.1 * 32 + x.2) { crowOf tm x.1 x.2 with out := (crowOf tm x.1 x.2).out - 1 } tm.crows }) tm)
    else s
  let s := modQuad s q (fun x => { x with me := x.me.filter (fun y => y.id != e.id) })
  let s := releasePins s e
  let s := match e.bar with | some b => engineArrive s e.team b (how == .failed) | none => s
  kickEngine (engineEnded (wakeEngine s q e.team) e.team) q

/-- Resolves the commands held under a guard slot (R269, R292). -/
def resolveCommands (s : State) (k gs : Nat) (isTrue : Bool) : State :=
  let q := coreQuad (teamOf s k).core
  let mine := (quadOf s q).me.filter (fun e => e.team == k && e.gs == gs && e.held)
  let s := countWaits s q
  mine.foldl (fun s e =>
    if isTrue then kickEngine (modCmd s q e.id (fun x => { x with held := false })) q
    else match cmdOf s q e.id with
      | some e => endCommand s q e .discarded
      | none => s) s

/-! ## The arbiter (R257, R271) -/

/-- The entry with the greatest priority; the earliest accepted of equals. -/
def bestEntry (s : State) : List MeCmd → Option MeCmd
  | [] => none
  | e :: r =>
    let pri := fun (x : MeCmd) => if 8192 ≤ x.wait then 4 else (teamOf s x.team).prio
    match bestEntry s r with
    | none => some e
    | some y => some (if pri e < pri y then y else e)

/-- Starts the next pass of a burst; without its bytes, or in a stop, the pass holds the engine (R257, R258). -/
def startPass (s : State) (q : Nat) (e : MeCmd) : State :=
  match e.todo with
  | [] => modQuad s q (fun x => { x with busy := none, passAt := none })
  | pq :: _ =>
    if clockStands (quadOf s q) || !passReady e pq then modQuad s q (fun x => { x with passAt := none })
    else
      let k := clockOf s (quadOf s q) + passCount (quadOf s q)
      scheduleClk (modQuad s q (fun x => { x with passAt := some k })) q k (.enginePass q)

/-- MMAT commands all of whose chunks are skipped run no pass (R273). -/
def completeEmpty (s : State) (q : Nat) : State :=
  let x := quadOf s q
  let clk := clockOf s x
  (x.me.filter (fun e => !e.held && e.doneAt.isNone && e.todo.isEmpty && decide (e.since ≤ clk) && !cmdBlocked x.me e)).foldl
    (fun s e =>
      scheduleClk (modCmd s q e.id (fun e => { e with doneAt := some (clk + 12) })) q (clk + 12) (.meCommandComplete q e.id)) s

/-- Arbitrate of R257, on a clock in which the engine is free. -/
def arbitrate (s : State) (q : Nat) : State :=
  let s := completeEmpty (countWaits s q) q
  let x := quadOf s q
  let clk := clockOf s x
  match bestEntry s (x.me.filter (cmdEligible x.me clk)) with
  | some e =>
    let s := modCmd s q e.id (fun e => { e with wait := 0 })
    let s := modQuad s q (fun x => { x with busy := some (e.id, min 8 e.todo.length), passAt := none })
    startPass s q e
  | none =>
    if 0 < x.balPending then
      let k := clk + passCount x
      scheduleClk (modQuad s q (fun x =>
        { x with busy := some (0, 0), passAt := some k, balPending := x.balPending - 1 })) q k (.enginePass q)
    else s

/-- ENGINE_ARBITRATE (R257): at a clock in which the engine is free, or in which a pass that waited may start. -/
def execEngineArbitrate (q : Nat) (s : State) : Out :=
  let x := quadOf s q
  if !onEdge s x then .next s
  else match x.busy, x.passAt with
    | none, _ => .next (arbitrate s q)
    | some (id, _), none => match cmdOf s q id with
      | some e => .next (startPass s q e)
      | none => .next (arbitrate (modQuad s q (fun x => { x with busy := none })) q)
    | some _, some _ => .next s

/-- After a pass the burst goes on, or the engine is free and arbitrates at once. -/
def afterPass (s : State) (q : Nat) : State :=
  let x := quadOf s q
  match x.busy with
  | some (id, left) =>
    match cmdOf s q id with
    | some e =>
      if left ≤ 1 || e.todo.isEmpty then
        let s := modQuad (countWaits s q) q (fun x => { x with busy := none, passAt := none })
        if clockStands x then s else arbitrate s q
      else startPass (modQuad s q (fun x => { x with busy := some (id, left - 1), passAt := none })) q e
    | none =>
      let s := modQuad s q (fun x => { x with busy := none, passAt := none })
      if clockStands x then s else arbitrate s q
  | none => s

/-- The pass at the head of a command ends (R252, R258). It ends with the boundary after its last clock c, so that the rows of a
command are written 11 clocks later, in clock c + 12. -/
def runPass (s : State) (q : Nat) (e : MeCmd) (pq : Nat × Nat) (rest : List (Nat × Nat)) : State :=
  let x := quadOf s q
  let tm := teamOf s e.team
  let s := modQuad s q (fun x => { x with mepass := x.mepass + 1 })
  if passFails tm e pq then endCommand s q e .failed
  else
    let s := modCmd s q e.id (fun c => { c with todo := rest, vals := passVals tm e pq })
    if rest.isEmpty then
      let k := clockOf s x + 11
      scheduleClk (modCmd s q e.id (fun c => { c with doneAt := some k })) q k (.meCommandComplete q e.id)
    else s

/-- Whether what a quad ends at a core clock has still to end; what a ratio stop found under way ends at a tick (R460). -/
def stillToEnd (s : State) (x : Quad) (k : Nat) : Option Nat → Bool
  | some u => decide (s.now < u)
  | none => decide (clockOf s x < k)

/-- ENGINE_PASS: one pass ends, a command's or a ballast pass (R252, R271). -/
def execEnginePass (q : Nat) (s : State) : Out :=
  let x := quadOf s q
  match x.busy, x.passAt with
  | some (id, _), some k =>
    if stillToEnd s x k x.passTick then .next s
    else
      let s := modQuad s q (fun x => { x with passTick := none })
      match cmdOf s q id with
      | some e => match e.todo with
        | pq :: rest => .next (afterPass (runPass s q e pq rest) q)
        | [] => .next (afterPass s q)
      | none =>
        if id = 0 then
          .next (afterPass (modQuad s q (fun x => { x with mebal := x.mebal + 1, ballast := x.ballast + 1 })) q)
        else .next (afterPass s q)
  | _, _ => .next s

/-- ME_COMMAND_COMPLETE (R268). -/
def execMeCommandComplete (q id : Nat) (s : State) : Out :=
  match cmdOf s q id with
  | none => .next s
  | some e =>
    match e.doneAt with
    | some k => if stillToEnd s (quadOf s q) k e.doneTick then .next s else .next (endCommand s q e .done)
    | none => .next s

/-! ## Pug (R266) -/

/-- Whether a line lies behind a link that is down (R420, R441). -/
def lineLost (s : State) (line : Nat) : Bool := linkDown s (line * 128)

/-- A line of a command comes to Pug: the value that the command uses from now on, poisoned, or out of reach. -/
def pugTake (s : State) (q id line : Nat) (bytes : List Byte) (bad lost : Bool) : State :=
  let s := modCmd s q id (fun c =>
    { c with
      need := c.need.filter (· != line)
      lines := tput line (bufWriteN [] 0 bytes) c.lines
      bad := if bad then line :: c.bad else c.bad
      lost := if lost then line :: c.lost else c.lost })
  let x := quadOf s q
  kickEngine (modQuad s q (fun x =>
    if x.pugClk = clockOf s x then { x with pugCnt := x.pugCnt + 1 } else { x with pugClk := clockOf s x, pugCnt := 1 })) q

/-- The leaf under which a command translated the page of a line. -/
def lineLeaf (e : MeCmd) (line : Nat) : Word64 :=
  ((e.pages.find? (fun x => x.2.1 / 65536 == line * 128 / 65536)).map (·.2.2)).getD 0#64

/-- The fetch of one line at its home. -/
def pugFetch (s : State) (q : Nat) (e : MeCmd) (line : Nat) : State :=
  let s := touchHome (recallLocal s line 0xFFFFFFFF#32 none) (line * 128) (lineLeaf e line) false
  pugTake s q e.id line (physRead s (line * 128) 128) (poisoned s line 0xFFFFFFFF#32) (lineLost s line)

/-- A line that an integrator's die homes is asked for there, once (R265, R433). -/
def pugAsk (s : State) (q : Nat) (e : MeCmd) (line : Nat) : State :=
  if s.reqs.any (fun r => r.2.copy == some (e.id, q) && r.2.line == line) then s
  else
    let (id, s) := newId s
    launch s { id := id, kind := .uc, core := (teamOf s e.team).core, ctx := (teamOf s e.team).ctx, line := line, parts := [], due := 0
               leaf := lineLeaf e line, copy := some (e.id, q) }

/-- PUG_LINE_FETCH. At most four lines move in one core clock; in a stop none does. -/
def execPugLineFetch (q id line : Nat) (s : State) : Out :=
  let x := quadOf s q
  match cmdOf s q id with
  | none => .next s
  | some e =>
    if !e.need.contains line || clockStands x then .next s
    else if x.pugClk = clockOf s x ∧ 4 ≤ x.pugCnt then .next (afterClocks s q 1 (.pugLineFetch q id line))
    else if isFar s (line * 128) && !lineLost s line then .next (pugAsk s q e line)
    else
      let p := pathOf s (quadTower q) (line * 128) (lineLeaf e line)
      if (!pathReady s p [0] [1, 2] && !lineLost s line) || !(backsOut s (teamOf s e.team).core line).isEmpty then .next (waitFor s (.pugLineFetch q id line))
      else match recallRemote s line 0xFFFFFFFF#32 (.pugLineFetch q id line) with
        | some s => .next s
        | none => .next (afterServe (pugFetch (countBack (countBack (countPath s p 0) p 1) p 2) q e line))

/-- Pug starts on the lines of a command (R255, R266). -/
def startPug (s : State) (q : Nat) (e : MeCmd) : State :=
  e.need.foldl (fun s line =>
    let leaf := lineLeaf e line
    let (d, s) := contend s
    schedule s (s.now + latencyNs s (quadTower q) (line * 128) leaf * nsTicks + d) (.pugLineFetch q e.id line)) s

/-- After a stop the engine and Pug of a quad go on (R459). -/
def resumeEngine (s : State) (q : Nat) : State :=
  kickEngine ((quadOf s q).me.foldl (fun s e => startPug s q e) s) q

/-- LANE_BALLAST_PACKET (R453): an idle picker cycle of a core of a quad with ballast pending. -/
def execLaneBallastPacket (core : Nat) (s : State) : Out :=
  let q := coreQuad core
  let x := quadOf s q
  if x.balPending = 0 || !coreRuns s core || !(coreReady s core).isEmpty || decide (coreClock s core < (coreOf s core).nextPick) then .next s
  else
    .next (modCore (modQuad s q (fun x => { x with balPending := x.balPending - 1, ballast := x.ballast + 1 })) core
      (fun c => { c with nextPick := coreClock s core + passCount x }))

end Sys2Proof.Machine
end

