-- ==== Sys2Proof/Machine/Tile.lean ====
section
/-! DEFINITION. The reservation records and the tile commands (R254, R255, R260 to R265, R274 to R282). -/

namespace Sys2Proof.Machine

/-! ## RSV, RSV.CLR, RSVF, RSVQ (R264, R274 to R276) -/

def rsvIll (d : Nat) (tm : Team) : Bool := decide (tm.hdr.rsvn ≤ d)

/-- The record of four s registers. -/
def recordFrom (s : State) (t : ThrRef) (a : Nat) : Record :=
  thrSreg s t (a + 3) ++ thrSreg s t (a + 2) ++ thrSreg s t (a + 1) ++ thrSreg s t a

/-- Stores a build result, or raises RSV_INVALID (R261). -/
def buildRecord (s : State) (k i : Nat) (r : Record) : OnceOut :=
  if recordOk r then .done (setRecord s k i (rput r 255 1 1)) else .fault (flt fRSV_INVALID)

def execRsv (b : Base) (s : State) : Out :=
  oncePerPacket { g := b.g } (rsvIll b.dst.toNat) (fun _ t s =>
    buildRecord s t.team b.dst.toNat (recordFrom s t b.sa.toNat)) (fun _ s => s) s

def execRsvClr (b : Base) (s : State) : Out :=
  oncePerPacket { g := b.g } (rsvIll b.dst.toNat) (fun _ t s => .done (setRecord s t.team b.dst.toNat 0#256)) (fun _ s => s) s

/-- The record with one field changed (R275). -/
def rsvfNew (md : Nat) (e1 : Word32) (r : Record) : Record :=
  match md with
  | 0 => rput r 0 64 (rBase r + (e1.signExtend 64).toNat)
  | 1 => rput r 128 32 (rScoff r + e1.toNat)
  | 2 => rput r 64 16 e1.toNat
  | _ => rput r 80 16 e1.toNat

def execRsvf (b : Base) (e1 : Word32) (s : State) : Out :=
  oncePerPacket { g := b.g } (rsvIll b.dst.toNat) (fun _ t s =>
    let r := recordOf (teamOf s t.team) b.dst.toNat
    if rBuilt r then buildRecord s t.team b.dst.toNat (rsvfNew b.md.toNat e1 r) else .fault (flt fRSV_INVALID)) (fun _ s => s) s

/-- RSVQ: a rendezvous; an UNBUILT record reads as zeros. -/
def execRsvq (b : Base) (s : State) : Out :=
  rendezvous { g := b.g } (rsvIll b.sa.toNat) false 0xFFFFFFFF#32 (fun p gid present s =>
    if present.isEmpty then .done s
    else
      let r := recordOf (teamOf s p.team) b.sa.toNat
      .done (modGrp s p.team gid (fun g => (List.range 4).foldl (fun g k =>
        setSreg g (b.dst.toNat + k) (r.extractLsb' (64 * k) 64)) g))) s

/-! ## Requests of a packet, by group (R254) -/

/-- What a request answers: it is accepted; every active thread takes the fault; or they wait. -/
inductive ReqOut where
  | accepted (s : State)
  | fault (f : Flt) (s : State)
  | wait (s : State) (w : WaitWhy)

/-- What befell the request of each group. -/
inductive GrpOut where
  | advance
  | fault (f : Flt)
  | wait (w : WaitWhy)

/-- The requests in ascending `%gid`, each with the lanes of its active threads. -/
def postGroups (takers : List ThrRef) (post : Nat → LaneMask → State → ReqOut) : List Nat → State → List (Nat × GrpOut) × State
  | [], s => ([], s)
  | g :: r, s =>
    let mask : LaneMask := (takers.filter (fun t => t.gid == g)).foldl (fun m t => m ||| (1#32 <<< t.lane)) 0#32
    match post g mask s with
    | .accepted s' => let x := postGroups takers post r s'; ((g, .advance) :: x.1, x.2)
    | .fault f s' => let x := postGroups takers post r s'; ((g, .fault f) :: x.1, x.2)
    | .wait s' w => let x := postGroups takers post r s'; ((g, .wait w) :: x.1, x.2)

/-- A form that posts one request for each group with an active thread in the packet. -/
def groupWise (o : Opnds) (ill : Team → Bool) (post : Packet → Nat → LaneMask → State → ReqOut) (s : State) : Out :=
  match s.cur with
  | none => .next s
  | some p =>
    if !regsOk o (teamOf s p.team).hdr.regs || ill (teamOf s p.team) then .next (faultPacket p fILLOP s)
    else
      let takers := p.refs.filter (takesPart o s)
      let gids := (List.range 32).filter (fun g => takers.any (fun t => t.gid == g))
      let x := postGroups takers (post p) gids s
      .next (runThreads o p (fun t s =>
        match x.1.find? (fun y => y.1 == t.gid) with
        | some (_, .fault f) => .fault f
        | some (_, .wait w) => .left (makeWait s t w)
        | _ => .done s p.next) x.2)

/-! ## Acceptance (R255) -/

/-- The state of a guard slot; `gs0` is TRUE (R292). -/
def slotOf (tm : Team) (gs : Nat) : SlotState := if gs = 0 then .isTrue else tgetD tm.gslots gs .isTrue

/-- The byte ranges of memory that a command streams, with the lease class of each record: the rows of A of the active lanes, and every
row of B, those of skipped chunks too (DESIGN CHOICE, log entry 92). -/
def streamRanges (e : MeCmd) : List (Record × List (Nat × Nat)) :=
  let K := e.kc * cmdKp e
  let a := if rSpace e.ra = spaceG then [(e.ra, (lanesOf e.mask).flatMap (fun l => rowRanges e.ra (e.m0 + l) e.k0 K))] else []
  let b := if rSpace e.rb = spaceG then
    [(e.rb, (List.range (32 * (e.nb + 1))).flatMap (fun j => rowRanges e.rb (e.n0 + j) e.k0 K))] else []
  if e.kind = .mma ∨ e.kind = .mmat then a ++ b else []

/-- Notes the lines of a stream and their lease classes (R266). A line that A and B stream keeps the class of A's record (DESIGN CHOICE,
log entry 93). -/
def streamNeeds (e : MeCmd) : MeCmd :=
  (streamRanges e).foldl (fun e x =>
    ((x.2.flatMap linesIn).eraseDups).foldl (fun e v =>
      match streamLine e.pages v with
      | some y =>
        if e.need.contains y.1 then e
        else { e with need := e.need ++ [y.1], cls := tput y.1 (if rLease x.1 = 0 then leafLease y.2 else rLease x.1) e.cls }
      | none => e) e) e

/-- The issuing core writes back the dirty bytes of its L1 that lie in the command's global source ranges (R242). -/
def sourceBacks (s : State) (core : Nat) (pages : List (Nat × Nat × Word64)) (xs : List (Nat × Nat)) : State :=
  xs.foldl (fun s x => (linesIn x).foldl (fun s v =>
    match streamLine pages v with
    | none => s
    | some y =>
      let lo := max x.1 (v * 128) - v * 128
      let hi := min (x.1 + x.2) (v * 128 + 128) - v * 128
      startWriteBack s core y.1 (BitVec.ofNat 128 ((2 ^ (hi - lo) - 1) * 2 ^ lo))) s) s

/-- Acceptance of a command, as one step (R255): barrier and guard slot, C rows, source write-back, Pug. Under
a slot that is FALSE it is then discarded (R269). -/
def acceptCommand (s : State) (q : Nat) (e : MeCmd) : State :=
  let tm := teamOf s e.team
  let s := countWaits s q
  let (id, s) := newId s
  let e := streamNeeds { e with id := id, since := clockOf s (quadOf s q) + 1, held := slotOf tm e.gs == .isOpen }
  let s := match e.bar with | some b => barExpectEngine s e.team b 1 | none => s
  let s := if cmdWritesC e then
      modTeam s e.team (fun tm => (cmdRows e).foldl (fun tm x =>
        { tm with crows := tset {} (x.1 * 32 + x.2) { crowOf tm x.1 x.2 with out := (crowOf tm x.1 x.2).out + 1 } tm.crows }) tm)
    else s
  let s := modQuad s q (fun x => { x with me := x.me ++ [e] })
  let s := startPug (sourceBacks s tm.core e.pages ((streamRanges e).flatMap (·.2))) q e
  if slotOf tm e.gs = .isFalse then endCommand s q e .discarded else kickEngine s q

def tableFull (s : State) (q : Nat) : Bool := decide (64 ≤ (quadOf s q).me.length)

/-! ## MMA and MMAT (R265, R277, R278) -/

/-- Whether a record may be an operand of MMA, and its format one the engine multiplies. -/
def operandOk (r : Record) : Bool := rBuilt r && rFmt r != 0 && rFmt r != 11 && decide (rSpace r ≤ 2)

/-- The first range of a buffer operand that leaves the team's allocation (check 4). -/
def bufferBreak (tm : Team) (r : Record) (xs : List (Nat × Nat)) : Option Nat :=
  if rSpace r = spaceA then (xs.find? (fun x => (ownAbuf tm x.1 x.2).isNone)).map (·.1)
  else if rSpace r = spaceW then (xs.find? (fun x => decide (2 ^ 17 ≤ x.1 ∨ tm.hdr.wbuf < x.1 + x.2))).map (·.1)
  else none

/-- Check 5: the barrier register of a command. -/
def barBreak (tm : Team) (b : Option Nat) : Bool :=
  match b with
  | some i => decide (tm.hdr.bars ≤ i) || !barTakes (barOf tm i)
  | none => false

/-- Translates pages in order; the answer lists each page, its frame and its leaf (R265). -/
def streamPages (core ctx : Nat) (kind : Nat) : List Nat → State → List (Nat × Nat × Word64) → Except (Flt ⊕ Nat) (List (Nat × Nat × Word64)) × State
  | [], s, acc => (.ok acc, s)
  | v :: r, s, acc =>
    let va := v * 65536
    if acc.any (fun x => x.1 == v) then streamPages core ctx kind r s acc
    else if 2 ^ 56 ≤ va then (.error (.inl { code := fPAGE_PERM, addr := BitVec.ofNat 64 va, kind := kind, page := some v }), s)
    else match translate s (some core) ctx va { read := true, kind := kind } with
      | .fault f s => (.error (.inl f), s)
      | .held m s => (.error (.inr m), s)
      | .ok x s' =>
        if rangeOf x.pa = .fabric then
          (.error (.inl { code := fPAGE_PERM, addr := BitVec.ofNat 64 va, kind := kind, page := some v }), s')
        else streamPages core ctx kind r s' (acc ++ [(v, x.pa, x.leaf)])

/-- The pages of byte ranges, in ascending order. -/
def rangePages (xs : List (Nat × Nat)) : List Nat :=
  ((xs.flatMap (fun x => if x.2 = 0 then [] else
    List.range' (x.1 / 65536) ((x.1 + x.2 - 1) / 65536 - x.1 / 65536 + 1))).eraseDups).mergeSort (fun a b => decide (a ≤ b))

/-- Checks 1 to 5 of R278. -/
def mmaCheck (tm : Team) (e : MeCmd) : Option Flt :=
  let K := e.kc * cmdKp e
  let N := 32 * (e.nb + 1)
  let n := if rRotd e.ra then 2 ^ rLn e.ra else 1
  if !operandOk e.ra || !operandOk e.rb then some (flt fRSV_INVALID)
  else if rRows e.ra < e.m0 + 32 || rRows e.rb < e.n0 + N || rCols e.ra < e.k0 + K || rCols e.rb < e.k0 + K then
    some (flt fRSV_INVALID)
  else if rTag e.ra != rTag e.rb || e.k0 % n != 0 || K % n != 0 then some (flt fTAG_MISMATCH)
  else
    match bufferBreak tm e.ra ((lanesOf e.mask).flatMap (fun l => rowRanges e.ra (e.m0 + l) e.k0 K)) with
    | some a => some (fltAt fBUFFER_ACCESS (BitVec.ofNat 64 a))
    | none =>
      match bufferBreak tm e.rb ((List.range N).flatMap (fun j => rowRanges e.rb (e.n0 + j) e.k0 K)) with
      | some a => some (fltAt fBUFFER_ACCESS (BitVec.ofNat 64 a))
      | none => if barBreak tm e.bar then some (flt fBAR_INVALID) else none

/-- The passes of a command in order: ascending p, and q within each; skipped chunks run none. -/
def cmdPasses (e : MeCmd) : List (Nat × Nat) :=
  (List.range e.kc).flatMap (fun p =>
    ((List.range (e.nb + 1)).filter (fun q => !chunkSkipped e q)).map (fun q => (p, q)))

/-- The command that a group's request describes. -/
def mmaCmd (s : State) (b : Base) (c : MmaCtl) (tri : Bool) (p : Packet) (gid : Nat) (mask : LaneMask) : MeCmd :=
  let tm := teamOf s p.team
  let g := grpOf s p.team gid
  let ofs := sregOf g c.ofs.toNat
  let e : MeCmd :=
    { id := 0, team := p.team, gid := gid, kind := if tri then .mmat else .mma, mask := mask
      ra := recordOf tm b.sa.toNat, rb := recordOf tm b.sb.toNat, srcA := b.sa.toNat, srcB := b.sb.toNat
      m0 := bits ofs 0 16, n0 := bits ofs 16 16, k0 := bits ofs 32 16
      dw := if tri then sregOf g c.diag.toNat else 0#64
      acc := c.acc, satI := c.satI, sgnA := c.aSigned, sgnB := c.bSigned, lower := c.lower, force := c.force
      kc := c.kc.toNat, nb := c.nb.toNat, tile := b.dst.toNat
      bar := if c.barEn then some c.bar.toNat else none, gs := c.gs.toNat }
  { e with todo := cmdPasses e }

/-- The request of one group: the checks of R278, then acceptance. -/
def postMma (b : Base) (c : MmaCtl) (tri : Bool) (p : Packet) (gid : Nat) (mask : LaneMask) (s : State) : ReqOut :=
  let q := coreQuad p.core
  let tm := teamOf s p.team
  if tableFull s q then .wait s .table
  else
    let e := mmaCmd s b c tri p gid mask
    match mmaCheck tm e with
    | some f => .fault f s
    | none =>
      match streamPages p.core tm.ctx 4 ((streamRanges e).flatMap (fun x => rangePages x.2)) s [] with
      | (.error (.inl f), s) => .fault f s
      | (.error (.inr m), s) => .wait s (.page m)
      | (.ok ps, s) => .accepted (acceptCommand s q { e with pages := ps })

def mmaIll (b : Base) (c : MmaCtl) (tm : Team) : Bool :=
  decide (tm.hdr.cbuf ≤ b.dst.toNat + c.nb.toNat ∨ tm.hdr.rsvn ≤ b.sa.toNat ∨ tm.hdr.rsvn ≤ b.sb.toNat)

def execMma (b : Base) (c : MmaCtl) (s : State) : Out := groupWise { g := b.g } (mmaIll b c) (postMma b c false) s
def execMmat (b : Base) (c : MmaCtl) (s : State) : Out := groupWise { g := b.g } (mmaIll b c) (postMma b c true) s

/-! ## MMZ (R280) and MMW (R281, R282) -/

def postMmz (b : Base) (p : Packet) (gid : Nat) (mask : LaneMask) (s : State) : ReqOut :=
  let q := coreQuad p.core
  if tableFull s q then .wait s .table
  else
    let nb := b.md.toNat % 8
    .accepted (acceptCommand s q
      { id := 0, team := p.team, gid := gid, kind := .mmz, mask := mask, nb := nb, tile := b.dst.toNat
        todo := (List.range (nb + 1)).map (fun i => (0, i)) })

def execMmz (b : Base) (s : State) : Out :=
  groupWise { g := b.g } (fun tm => decide (tm.hdr.cbuf ≤ b.dst.toNat + b.md.toNat % 8)) (postMmz b) s

/-- The checks of R282, in order. -/
def mmwCheck (tm : Team) (e : MeCmd) (c : GlzCtl) : Option Flt :=
  let r := e.ra
  let N := 32 * (e.nb + 1)
  if !rBuilt r || rSpace r != spaceA || rFmt r != c.fmt.toNat || rSck r != c.sck.toNat || rSgn r != c.signed then
    some (flt fRSV_INVALID)
  else if e.k0 % 32 ≠ 0 || (c.rot && e.k0 % 2 ^ mmwLn c != 0) then some (flt fMISALIGN)
  else if rRows r < e.m0 + 32 || rCols r < e.k0 + N then some (flt fRSV_INVALID)
  else match bufferBreak tm r ((lanesOf e.mask).flatMap (mmwRanges e)) with
    | some a => some (fltAt fBUFFER_ACCESS (BitVec.ofNat 64 a))
    | none => if barBreak tm e.bar then some (flt fBAR_INVALID) else none

def postMmw (b : Base) (c : GlzCtl) (w : MmwCtl) (p : Packet) (gid : Nat) (mask : LaneMask) (s : State) : ReqOut :=
  let q := coreQuad p.core
  let tm := teamOf s p.team
  if tableFull s q then .wait s .table
  else
    let pos := sregOf (grpOf s p.team gid) w.pos.toNat
    let nb := b.md.toNat % 8
    let sv := seedOf s p.team c.seed
    let e : MeCmd :=
      { id := 0, team := p.team, gid := gid, kind := .mmw, mask := mask, ra := recordOf tm b.dst.toNat, dst := b.dst.toNat
        m0 := bits pos 0 16, k0 := bits pos 16 16, nb := nb, tile := b.sa.toNat, ctl := some c, seedv := sv
        bar := if w.barEn then some w.bar.toNat else none, gs := w.gs.toNat
        todo := (List.range (nb + 1)).map (fun i => (0, i)) }
    match mmwCheck tm e c with
    | some f => .fault f s
    | none =>
      let s := setRecord s p.team b.dst.toNat (rput e.ra 208 36 (if c.rot then tagOf (mmwLn c) sv else 0))
      .accepted (acceptCommand s q e)

def execMmw (b : Base) (c : GlzCtl) (w : MmwCtl) (s : State) : Out :=
  groupWise { g := b.g } (fun tm => decide (tm.hdr.cbuf ≤ b.sa.toNat + b.md.toNat % 8 ∨ tm.hdr.rsvn ≤ b.dst.toNat))
    (postMmw b c w) s

end Sys2Proof.Machine
end

