-- ==== Sys2Proof/Machine/Copy.lean ====
section
/-! DEFINITION. Slip (R302 to R317): parts and slots, the issue journal, the course of a copy, its beats, and CPYQ; and the
guard slots (R292, R301), which hold commands and copies. -/

namespace Sys2Proof.Machine

def opCPY : Nat := 0x187
def opCPYT : Nat := 0x188
def opCOLL : Nat := 0x18B

/-- The lowest free entry. -/
def freeEntry (tm : Team) : Option Nat := (List.range 64).find? (fun i => (tgetD tm.journal i {}).st == 0#3)

/-- Groups that wait for an entry execute again (R304). -/
def wakeJournal (s : State) (k : Nat) : State :=
  { s with threads := s.threads.map (fun e =>
      match e.2.stat with
      | .waiting .journal => if e.1 / 1024 == k then (e.1, { e.2 with stat := .ready }) else e
      | _ => e) }

/-! ## Geometry of a part (R306, R310, R311) -/

def elBytes (c : CopyCtl) : Nat := 2 ^ c.el.toNat

/-- Destination rows and their bytes: those of the source, or, transposed, a row for each source column. -/
def destRows (op : Nat) (c : CopyCtl) (x : CopyPart) : Nat := if op = opCPYT then x.rb / elBytes c else x.rows
def destRow (op : Nat) (c : CopyCtl) (x : CopyPart) : Nat := if op = opCPYT then x.rows * elBytes c else x.rb

def partEmpty (x : CopyPart) : Bool := x.rows == 0 || x.rb == 0

/-- The source ranges of `len` bytes of destination row `row` from offset `off` on. -/
def beatSources (op : Nat) (c : CopyCtl) (x : CopyPart) (row off len : Nat) : List (Nat × Nat) :=
  if op = opCPYT then
    let e := elBytes c
    (List.range (len / e)).map (fun i => (x.src.toNat + (off / e + i) * x.sp + row * e, e))
  else [(x.src.toNat + row * x.sp + off, len)]

def beatDest (x : CopyPart) (row off : Nat) : Nat := x.dst.toNat + row * x.dp + off

/-- Bytes from the first to the last of a set of rows. -/
def extent (rows pitch rb : Nat) : Nat := (rows - 1) * pitch + rb

/-- The part that the group's s registers describe. -/
def partFrom (g : Group) (p : Nat) : CopyPart :=
  let shape := sregOf g (p + 2)
  let pitch := sregOf g (p + 3)
  { entry := 0, src := sregOf g p, dst := sregOf g (p + 1), rows := bits shape 32 32, rb := bits shape 0 32
    dp := bits pitch 32 32, sp := bits pitch 0 32 }

/-! ## Checks of a part (R309) -/

def bufferOut (a : Nat) : Option Flt := some (fltAt fBUFFER_ACCESS (BitVec.ofNat 64 a))

/-- Check 4: the buffer bytes of a part. -/
def partBuffers (s : State) (k op : Nat) (c : CopyCtl) (x : CopyPart) : Option Flt :=
  let tm := teamOf s k
  let src := x.src.toNat
  let dst := x.dst.toNat
  let sn := extent x.rows x.sp x.rb
  let dn := extent (destRows op c x) x.dp (destRow op c x)
  let inA : Nat → Nat → Bool := fun a n => match abufAt s k (BitVec.ofNat 64 a) with
    | some y => decide (y.2 + n ≤ (teamOf s y.1).hdr.abuf)
    | none => false
  if c.ssp = 1#2 && !inA src sn then bufferOut src
  else if c.ssp = 2#2 && decide (2 ^ 17 ≤ src ∨ tm.hdr.cbuf * 4096 < src + sn) then bufferOut src
  else if decide (tm.w * tm.h < 12) && decide (2 ^ (tm.w * tm.h) ≤ c.mc.toNat) then bufferOut dst
  else if c.dsp = 1#2 then
    (if c.mc = 0#12 then (if inA dst dn then none else bufferOut dst)
     else if 2 ^ 18 ≤ dst || decide (tm.hdr.abuf < dst + dn) then bufferOut dst else none)
  else if c.dsp = 2#2 && decide (2 ^ 17 ≤ dst ∨ tm.hdr.wbuf < dst + dn) then bufferOut dst
  else none

def partCheck (s : State) (k gid op : Nat) (c : CopyCtl) (x : CopyPart) : Option Flt :=
  let tm := teamOf s k
  let unit := if op = opCPYT then elBytes c else 4
  let odd := fun (n : Nat) => n % unit != 0
  let slotBad := match tget tm.cslots c.slot.toNat with
    | some y => y.op != op || y.e1 != copyE1 c || y.e2 != copyE2 c || y.gids.contains gid
    | none => false
  let last := if barBreak tm (if c.barEn then some c.bar.toNat else none) then some (flt fBAR_INVALID) else none
  if slotBad then some (flt fCOPY_FAULT)
  else if partEmpty x then last
  else if odd x.src.toNat || odd x.dst.toNat || odd x.rb || odd x.dp || odd x.sp then some (flt fMISALIGN)
  else if c.ssp = 0#2 && decide (2 ^ 56 ≤ x.src.toNat) then some { code := fPAGE_PERM, addr := x.src, kind := 5 }
  else if c.dsp = 0#2 && decide (2 ^ 56 ≤ x.dst.toNat) then some { code := fPAGE_PERM, addr := x.dst, kind := 5 }
  else match partBuffers s k op c x with
    | some f => some f
    | none =>
      if 65535 < x.rows || 16777216 < x.rb || (op == opCPYT && decide (4096 < x.rows ∨ 4096 < x.rb / elBytes c)) then
        some (flt fCOPY_FAULT)
      else last

/-! ## The end of a copy (R242, R314, R315) -/

def jseqOf (s : State) (k i : Nat) : Word64 := (tgetD (teamOf s k).journal i {}).seq

/-- The journal sequence number that stands for a command: that of its first part. -/
def copySeq (s : State) (c : CopyCmd) : Nat := match c.parts with | x :: _ => (jseqOf s c.team x.entry).toNat | [] => 0

def copyBar (c : CopyCmd) : Option Nat := if c.ctl.barEn then some c.ctl.bar.toNat else none

/-- The image of a barrier register and its held changes in the slot of a saved team (R290, R368). -/
def barAt (s : State) (k b : Nat) : Nat := slotAt s (teamOf s k).ctx (teamOf s k).slot + 0x1C00 + 8 * b

def heldWord (x : Bar) : Nat := ((x.heldExp - x.heldArr) % 2048).toNat + x.heldPend % 1024 * 2 ^ 11

/-- A register from its image and held changes. -/
def barSaved (image held : Nat) : Bar :=
  let e := held % 2048
  { barFrom (BitVec.ofNat 64 image) with
    heldExp := if 1024 ≤ e then (e : Int) - 2048 else e, heldPend := held / 2048 % 1024 }

/-- An arrival of a command; while its team is saved it changes the image in the team's slot (R316). -/
def arriveOn (s : State) (k b : Nat) (err : Bool) : State :=
  if (teamOf s k).state = .saved && (ctxOf s (teamOf s k).ctx).slots ≠ 0 then
    let a := barAt s k b
    let (image, s) := unitNat s a 8
    let (held, s) := unitNat s (a + 0x100) 8
    let s := engineArrive (modBar s k b (fun _ => barSaved image held)) k b err
    let x := barOf (teamOf s k) b
    unitPutNat (unitPutNat s a 8 (barImage x).toNat) (a + 0x100) 8 (heldWord x)
  else engineArrive s k b err

/-- A command completes, is discarded or fails: its entries are freed and it arrives. -/
def endCopy (s : State) (c : CopyCmd) (how : CmdEnd) : State :=
  let tm := teamOf s c.team
  let seq := copySeq s c
  let s := { s with copies := tdel c.id s.copies }
  let s := setEntries s c.team (c.parts.map (·.entry)) jFree
  let s := match copyBar c with | some b => arriveOn s c.team b (how == .failed) | none => s
  let s := if how = .failed then
      modRun (faultLog s tm.ctx 1 fCOPY_FAULT tm.index seq) tm.ctx tm.node (fun r => { r with failed := true })
    else s
  engineEnded (wakeJournal s c.team) c.team

/-! ## Beats (R313) -/

def modCopy (s : State) (id : Nat) (f : CopyCmd → CopyCmd) : State := { s with copies := tmod id f s.copies }

def copyOfId (s : State) (id : Nat) : Option CopyCmd := tget s.copies id

/-- The bytes of the next beat of a destination row: at most 128, within one aligned line. -/
def beatLen (c : CopyCmd) (x : CopyPart) : Nat :=
  min (destRow c.op c.ctl x - x.off) (128 - beatDest x x.row x.off % 128)

def partDone (c : CopyCmd) (x : CopyPart) : Bool := partEmpty x || decide (destRows c.op c.ctl x ≤ x.row)

/-- The part after `n` bytes of the row it stands at. -/
def partStep (c : CopyCmd) (x : CopyPart) (n : Nat) : CopyPart :=
  if x.off + n < destRow c.op c.ctl x then { x with off := x.off + n } else { x with row := x.row + 1, off := 0 }

/-- The pieces of the rows that follow which lie in the word at `w`: rows of narrow elements may share a word, which is
written whole (R313). -/
def wordShare (c : CopyCmd) (w : Nat) : Nat → CopyPart → List BeatSeg × CopyPart
  | 0, x => ([], x)
  | n + 1, x =>
    let d := beatDest x x.row 0
    if x.off ≠ 0 || partDone c x || d / 4 != w then ([], x)
    else
      let k := min (destRow c.op c.ctl x) (4 * w + 4 - d)
      let r := wordShare c w n (partStep c x k)
      ({ row := x.row, off := 0, len := k } :: r.1, r.2)

/-- The next beat of a part, and the part after it. -/
def nextBeat (c : CopyCmd) (i id : Nat) (x : CopyPart) : CopyBeat × CopyPart :=
  let n := beatLen c x
  let w := (beatDest x x.row x.off + n - 1) / 4
  let m := if c.op = opCPYT then wordShare c w (destRows c.op c.ctl x) (partStep c x n) else ([], partStep c x n)
  ({ id := id, part := i, row := x.row, off := x.off, len := n, more := m.1 }, m.2)

/-- The pieces of a beat, and its bytes. -/
def beatSegs (b : CopyBeat) : List BeatSeg := { row := b.row, off := b.off, len := b.len } :: b.more
def beatBytes (b : CopyBeat) : Nat := (beatSegs b).foldl (fun n g => n + g.len) 0

/-- Bytes from the first to the last that a beat writes. -/
def beatSpan (x : CopyPart) (b : CopyBeat) : Nat :=
  (beatSegs b).foldl (fun n g => max n (beatDest x g.row g.off + g.len - beatDest x b.row b.off)) 0

/-- The bytes of a beat by their offset from its first; where pieces overlap, the higher row's. -/
def beatData (x : CopyPart) (b : CopyBeat) : List BeatSeg → List Byte → Tab Byte → Tab Byte
  | [], _, d => d
  | g :: r, bs, d =>
    let o := beatDest x g.row g.off - beatDest x b.row b.off
    beatData x b r (bs.drop g.len) ((List.range g.len).foldl (fun d i => tput (o + i) (bs.getD i 0#8) d) d)

/-- The words of its line that a beat writes. -/
def beatWords (b : CopyBeat) : BitVec 32 := b.data.foldl (fun m e => m ||| wordMask (b.pa % 128 + e.1) 1) 0#32

/-- The first part with a beat to come. -/
def nextPart (c : CopyCmd) : Option (Nat × CopyPart) :=
  match c.parts.findIdx? (fun x => !partDone c x) with
  | some i => (c.parts[i]?).map (fun x => (i, x))
  | none => none

/-- Whether a copy has moved all it moves. -/
def copyDone (c : CopyCmd) : Bool := c.state == .running && c.beats.isEmpty && (nextPart c).isNone

/-- One turn of Slip: up to 4 KiB of beats of one command start, at 256 bytes for each core clock. -/
def slipTurn (q id : Nat) : Nat → Nat → State → State
  | 0, _, s => s
  | n + 1, sent, s =>
    match copyOfId s id with
    | none => s
    | some c =>
      match nextPart c with
      | none => s
      | some (i, x) =>
        if 4096 ≤ sent then s
        else
          let (bid, s) := newId s
          let (b, x') := nextBeat c i bid x
          let s := modCopy s id (fun c => { c with parts := c.parts.set i x', beats := c.beats ++ [b] })
          let y := quadOf s q
          let at' := max y.slipFree (256 * clockOf s y)
          let (d, s) := contend s
          let s := modQuad s q (fun y => { y with slipFree := at' + beatBytes b })
          slipTurn q id n (sent + beatBytes b) (scheduleClk s q (at' / 256 + d) (.slipBeat id bid))

/-- Whether a turn is under way on the Slip engine of a quad. -/
def slipBusy (s : State) (q : Nat) : Bool :=
  s.copies.any (fun e => coreQuad e.2.core == q && e.2.state == .running && e.2.beats.any (fun b => b.unread && !b.blocked))

/-- The next turn goes to the running command that follows the last one served, in acceptance order (R313). -/
def slipGo (s : State) (q : Nat) : State :=
  if slipBusy s q || clockStands (quadOf s q) then s
  else
    let cs := s.copies.filter (fun e => coreQuad e.2.core == q && e.2.state == .running && (nextPart e.2).isSome
      && !e.2.beats.any (·.unread))
    let nxt := (cs.filter (fun e => decide ((quadOf s q).slipLast < e.1))).head? <|> cs.head?
    match nxt with
    | some e => slipTurn q e.1 4096 0 (modQuad s q (fun y => { y with slipLast := e.1 }))
    | none => s

/-- A command with nothing left to move completes next. -/
def copyCheck (s : State) (id : Nat) : State :=
  match copyOfId s id with
  | some c => if copyDone c then schedule s s.now (.copyComplete id) else s
  | none => s

/-- A command enters RUNNING. -/
def startCopy (s : State) (id : Nat) : State :=
  match copyOfId s id with
  | some c =>
    let s := setEntries s c.team (c.parts.map (·.entry)) jRunning
    let s := modCopy s id (fun c => { c with state := .running })
    copyCheck (slipGo s (coreQuad c.core)) id
  | none => s

/-- After a stop, or when a page has moved, beats that have not been read are looked at again. -/
def resumeSlip (s : State) (q : Nat) : State :=
  let s := s.copies.foldl (fun s e =>
    if coreQuad e.2.core == q then
      (e.2.beats.filter (fun b => b.unread)).foldl (fun s b => schedule s s.now (.slipBeat e.1 b.id)) s
    else s) s
  slipGo s q

/-! ### Reading the source -/

/-- A translation of Slip (R391); it ends in an address, waits for a page that moves, or fails. -/
def slipTranslate (s : State) (c : CopyCmd) (va : Nat) (write : Bool) : XOut :=
  if 2 ^ 56 ≤ va then .fault { code := fPAGE_PERM, addr := BitVec.ofNat 64 va, kind := 5 } s
  else match translate s (some c.core) (teamOf s c.team).ctx va { read := !write, write := write, kind := 5 } with
    | .ok x s =>
      if linkDown s x.pa then .fault { code := fLINK_DOWN, addr := BitVec.ofNat 64 va, kind := 5 } s
      else if !write && c.op == opCPYT && rangeOf x.pa == .host then .fault { code := fPAGE_PERM, addr := BitVec.ofNat 64 va, kind := 5 } s
      else if write && c.op == opCPYR && (rangeOf x.pa == .host || leafContract x.leaf == 4) then
        .fault { code := fPAGE_PERM, addr := BitVec.ofNat 64 va, kind := 5 } s
      else .ok x s
    | r => r

/-- What reading a source answers: its bytes, and by byte whether its word is poisoned; it waits; the command faults. -/
inductive SrcOut where
  | ok (bytes : List Byte) (bad : List Byte) (s : State)
  | wait (s : State)
  | fault (f : Flt) (s : State)

/-- The marks of bytes whose word is poisoned. -/
def badMarks (n : Nat) (p : Nat → Bool) : List Byte := (List.range n).map (fun i => if p i then 1#8 else 0#8)

/-- Cuts a range at the lines it crosses. -/
def cutLines (a n : Nat) : List (Nat × Nat) :=
  if n = 0 then []
  else (List.range ((a + n - 1) / 128 - a / 128 + 1)).map (fun i =>
    let lo := max a ((a / 128 + i) * 128)
    (lo, min (a + n) ((a / 128 + i + 1) * 128) - lo))

/-- A piece of a global source within one line, read once at its home (R242). -/
def readPiece (s : State) (c : CopyCmd) (b : CopyBeat) (x : Nat × Nat) : SrcOut :=
  match slipTranslate s c x.1 false with
  | .fault f s => .fault f s
  | .held _ s => .wait (modCopy s c.id (fun c => { c with beats := c.beats.map (fun y => if y.id == b.id then { y with blocked := true } else y) }))
  | .ok y s =>
    let line := y.pa / 128
    let words := wordMask (y.pa % 128) x.2
    if isFar s y.pa then
      match tget b.remote line with
      | some d => .ok (bufReadN d (y.pa % 128) x.2) (badMarks x.2 (fun _ => b.badLines.contains line)) s
      | none =>
        if s.reqs.any (fun e => e.2.copy == some (c.id, b.id) && e.2.line == line) then .wait s
        else
          let (id, s) := newId s
          .wait (launch s { id := id, kind := .uc, core := c.core, ctx := (teamOf s c.team).ctx, line := line,
                            vls := [((teamOf s c.team).ctx, x.1 / 128)], parts := [], due := 0, copy := some (c.id, b.id) })
    else
    let p := pathOf s (coreTower c.core) y.pa y.leaf
    if !pathReady s p [0] [1, 2] || !(backsOut s c.core line).isEmpty then .wait (waitFor s (.slipBeat c.id b.id))
    else match recallRemote s line words (.slipBeat c.id b.id) with
      | some s => .wait s
      | none =>
        let s := countBack (countBack (countPath s p 0) p 1) p 2
        let s := recallLocal s line words none
        .ok (physRead s y.pa x.2) (badMarks x.2 (fun i => poisoned s line (wordMask (y.pa % 128 + i) 1))) (touchHome s y.pa y.leaf false)

def readPieces (c : CopyCmd) (b : CopyBeat) : List (Nat × Nat) → State → List Byte → List Byte → SrcOut
  | [], s, acc, bad => .ok acc bad s
  | x :: r, s, acc, bad =>
    match readPiece s c b x with
    | .ok d p s => readPieces c b r s (acc ++ d) (bad ++ p)
    | o => o

/-- The C-buffer words of a beat: it waits for rows to be FULL, and a poisoned row fails the command (R310). -/
def readCRows (s : State) (c : CopyCmd) (b : CopyBeat) (a n : Nat) : SrcOut :=
  let tm := teamOf s c.team
  let words := List.range' (a / 4) ((a + n - 1) / 4 - a / 4 + 1)
  let row := fun (w : Nat) => crowOf tm (w / 1024) (w % 1024 / 32)
  if words.any (fun w => decide (0 < (row w).out)) then
    .wait (modCopy s c.id (fun c => { c with beats := c.beats.map (fun y => if y.id == b.id then { y with blocked := true } else y) }))
  else if words.any (fun w => (row w).poison || tm.cpoison.contains w) then .fault (flt fPOISON) s
  else .ok ((leBytes (cbufNat tm (a / 4) words.length) (4 * words.length)).drop (a % 4) |>.take n) [] s

/-- Reads the source of a beat, piece by piece. -/
def readBeat (s : State) (c : CopyCmd) (b : CopyBeat) (x : CopyPart) : SrcOut :=
  let rs := (beatSegs b).flatMap (fun g => beatSources c.op c.ctl x g.row g.off g.len)
  if c.ctl.ssp = 1#2 then
    match rs with
    | (a, n) :: _ => match abufAt s c.team (BitVec.ofNat 64 a) with
      | some y => .ok (bufReadN (teamOf s y.1).abuf y.2 n) (badMarks n (fun i => abufBad s y.1 (y.2 + i) 1)) s
      | none => .fault (fltAt fBUFFER_ACCESS (BitVec.ofNat 64 a)) s
    | [] => .ok [] [] s
  else if c.ctl.ssp = 2#2 then
    match rs with
    | (a, n) :: _ => readCRows s c b a n
    | [] => .ok [] [] s
  else readPieces c b (rs.flatMap (fun r => cutLines r.1 r.2)) s [] []

/-! ### Faults of a command (R314) -/

/-- A page not present or COW puts the command into FAULT_WAIT with one record; anything else fails it. -/
def copyFault (s : State) (c : CopyCmd) (b : CopyBeat) (f : Flt) : State :=
  let tm := teamOf s c.team
  if f.code = fPAGE_COW || (f.code == fPAGE_NOTPRESENT && f.aux % 256 != 2) then
    let entry := ((c.parts[b.part]?).map (·.entry)).getD 0
    let tok := tokenOf 1 tm.ctx (ctxOf s tm.ctx).cseq entry c.core
    let s := setEntries s c.team (c.parts.map (·.entry)) jFaultWait
    let s := modCopy s c.id (fun c => { c with state := .faultWait, token := tok })
    sendRecord s tm.ctx f.addr 0#64 (jseqOf s c.team entry).toNat tok 0 tm.index 2 5 0 f.code true
  else endCopy s c .failed

/-! ### Landing -/

/-- The least time of a beat into a buffer of a cluster member: none is stated on the core of Slip itself, beyond the free delay. -/
def abufNs (s : State) (team holder : Nat) : Nat := match abufLat s team holder with | .clk _ => 0 | .ns n => n

/-- The destinations of a beat: a physical address, or buffers of cluster members. -/
def landings (s : State) (c : CopyCmd) (b : CopyBeat) (x : CopyPart) (bytes bad : List Byte) :
    Except (Flt ⊕ Nat) (List CopyBeat) × State :=
  let a := beatDest x b.row b.off
  let tm := teamOf s c.team
  let marks := ((beatData x b (beatSegs b) bad []).filter (fun (e : Nat × Byte) => e.2 != 0#8)).map (fun (e : Nat × Byte) => e.1)
  let base := { b with
    unread := false, data := beatData x b (beatSegs b) bytes [], counts := true, blocked := false
    bad := marks }
  if c.ctl.dsp = 0#2 then
    match slipTranslate s c a true with
    | .fault f s => (.error (.inl f), s)
    | .held m s => (.error (.inr m), s)
    | .ok y s =>
      (.ok [{ base with pa := y.pa, leaf := y.leaf, due := s.now + latencyNs s (coreTower c.core) y.pa y.leaf * nsTicks }], s)
  else
    let off := a % (if c.ctl.dsp = 1#2 then 2 ^ 18 else 2 ^ 17)
    let idx := if c.ctl.mc ≠ 0#12 then (List.range 12).filter (fun i => c.ctl.mc.getLsbD i)
      else [if c.ctl.dsp = 1#2 then a / 2 ^ 18 else clusterIndex tm]
    let bs := idx.filterMap (fun i => (abufHolder s c.team i).map (fun k =>
      { base with member := some k, pa := off, due := s.now + abufNs s c.team k * nsTicks }))
    (.ok (match bs with | y :: r => y :: r.map (fun z => { z with counts := false }) | [] => []), s)

/-- Puts the landing beats in place of the one that was read. -/
def placeLandings (s : State) (id : Nat) (b : CopyBeat) : List CopyBeat → State
  | [] => modCopy s id (fun c => { c with beats := c.beats.filter (fun y => y.id != b.id) })
  | y :: r =>
    let (d, s) := contend s
    let y := { y with due := y.due + d }
    let s := modCopy s id (fun c => { c with beats := c.beats.map (fun z => if z.id == b.id then y else z) })
    let s := schedule s y.due (.slipBeat id y.id)
    r.foldl (fun s z =>
      let (d, s) := contend s
      let (zid, s) := newId s
      let z := { z with id := zid, due := z.due + d }
      schedule (modCopy s id (fun c => { c with beats := c.beats ++ [z] })) z.due (.slipBeat id zid)) s

/-- Whether two beats of one part overlap at the destination, `a` being of a lower row (R313). -/
def beatsClash (x : CopyPart) (a b : CopyBeat) : Bool :=
  let p := beatDest x a.row a.off
  let q := beatDest x b.row b.off
  a.part == b.part && decide (a.row < b.row) && decide (p < q + beatSpan x b ∧ q < p + beatSpan x a)

/-- The new value of an element of a CPYR (R312). -/
def reduceElem (el : Nat) (sat : Bool) (old src : Nat) : Nat :=
  if el = 2 then
    let v := (BitVec.ofNat 32 old).toInt + (BitVec.ofNat 32 src).toInt
    (if sat then BitVec.ofInt 32 (max (-(2 ^ 31)) (min v (2 ^ 31 - 1))) else BitVec.ofInt 32 v : Word32).toNat
  else
    let F := if el = 1 then bf16 else fp32
    (F.finish rcRNE false false 0 flNone (addRes rcRNE (F.read old) (F.read src))).1

def reduceWidth (el : Nat) : Nat := if el = 1 then 2 else 4

/-- The elements of a beat added one by one at the home. -/
def reduceBytes (el : Nat) (sat : Bool) (old src : List Byte) : Nat → List Byte
  | 0 => []
  | n + 1 =>
    let w := reduceWidth el
    leBytes (reduceElem el sat (leNat (old.take w)) (leNat (src.take w))) w ++ reduceBytes el sat (old.drop w) (src.drop w) n

/-- The elements of a CPYR that its home discards; the first time the command writes a log entry (R315). -/
def discardReduce (s : State) (c : CopyCmd) : State :=
  let tm := teamOf s c.team
  if c.logged then s
  else modCopy (faultLog s tm.ctx 1 fPOISON tm.index (copySeq s c)) c.id (fun c => { c with logged := true })

/-- The words of its line that a beat writes poisoned. -/
def badWords (b : CopyBeat) : BitVec 32 := b.bad.foldl (fun m o => m ||| wordMask (b.pa % 128 + o) 1) 0#32

/-- The words that came from poisoned ones are poisoned where they have been written (R315). -/
def poisonBeat (s : State) (b : CopyBeat) : State := if b.bad.isEmpty then s else poisonWords s (b.pa / 128) (badWords b)

/-- A reducing beat: at a poisoned line its elements are discarded; one whose source was poisoned writes poisoned words (R315). -/
def landReduce (s : State) (c : CopyCmd) (b : CopyBeat) : State :=
  let line := b.pa / 128
  let s := recallLocal s line (beatWords b) none
  if poisoned s line 0xFFFFFFFF#32 then discardReduce s c
  else
    let el := c.ctl.el.toNat
    let new := reduceBytes el c.ctl.satR (physRead s b.pa b.len) (b.data.map (·.2)) (b.len / reduceWidth el)
    let s := wakeLine (tierPut (physPut (touchHome s b.pa b.leaf true) b.pa new) line (rangeMask (b.pa % 128) new.length)) line
    poisonBeat s b

/-- A writing beat to memory; one whose source was poisoned writes poisoned words. -/
def landWrite (s : State) (b : CopyBeat) : State :=
  let line := b.pa / 128
  let s := recallLocal s line (beatWords b) none
  let s := homeBytes (touchHome s b.pa b.leaf true) line (b.data.map (fun e => (b.pa % 128 + e.1, e.2)))
  poisonBeat s b

/-- The runs of neighbouring bytes of a beat. -/
def dataRuns : Tab Byte → List (Nat × List Byte)
  | [] => []
  | (o, v) :: r =>
    match dataRuns r with
    | (p, bs) :: q => if p = o + 1 then (o, v :: bs) :: q else (o, [v]) :: (p, bs) :: q
    | [] => [(o, [v])]

/-- A beat to a buffer of a cluster member. The W-buffer of a member that has exited takes nothing (R310). -/
def landBuffer (s : State) (c : CopyCmd) (b : CopyBeat) (k : Nat) : State :=
  let mark := fun (l : List Nat) => b.bad.foldl (fun l o => addSorted ((b.pa + o) / 4) l) l
  let runs := dataRuns b.data
  if c.ctl.dsp = 1#2 then
    modTeam (runs.foldl (fun s x => putAbufClean s k (b.pa + x.1) x.2) s) k (fun tm => { tm with apoison := mark tm.apoison })
  else if (teamOf s k).state = .exited then s
  else modTeam s k (fun tm =>
    { tm with
      wbuf := runs.foldl (fun d x => bufWriteN d (b.pa + x.1) x.2) tm.wbuf
      wpoison := mark (tm.wpoison.filter (fun w => !runs.any (fun x =>
        decide (b.pa + x.1 ≤ 4 * w ∧ 4 * w + 4 ≤ b.pa + x.1 + x.2.length)))) })

/-- A beat has been performed: PROG rises, and what waited for it goes on. -/
def beatDone (s : State) (c : CopyCmd) (b : CopyBeat) : State :=
  let s := modCopy s c.id (fun c => { c with beats := c.beats.filter (fun y => y.id != b.id) })
  let s := match c.parts[b.part]? with
    | some x => if b.counts then modJournal s c.team x.entry (fun j => { j with prog := j.prog + beatBytes b }) else s
    | none => s
  let s := unblockBeats s (fun x => x.id == c.id)
  if !b.bad.isEmpty then (match copyOfId s c.id with | some c => endCopy s c .failed | none => s)
  else copyCheck (slipGo s (coreQuad c.core)) c.id

/-- The AOP and W64 of a reduction that a CPYR sends to a remote home (R312, R417). FP32 and wrapping INT32 sums are FADD and ADD of
R228; for BF16 and saturating INT32 no code is named: AOP 15, with W64 clear and set (DESIGN CHOICE, log entry 71). -/
def reduceCode (c : CopyCtl) : Nat × Bool :=
  if c.el = 0#2 then (10, false) else if c.el = 1#2 then (15, false) else if c.satR then (15, true) else (0, false)

/-- A beat to a remote device: its message goes out, for a CPYR a reduction with its operation, and it is performed when the remote
home answers. One whose source was poisoned names the words that the home is to poison, and a reducing one writes nothing else (DESIGN
CHOICE, log entry 95). -/
def landRemote (s : State) (c : CopyCmd) (b : CopyBeat) : State :=
  let (id, s) := newId s
  let off := b.pa % 128
  let mask : BitVec 128 := b.data.foldl (fun m e => m ||| (1#128 <<< (off + e.1))) 0#128
  let data : Mem := b.data.foldl (fun d e => bufWrite d (off + e.1) e.2) []
  let dev := farAgent s b.pa
  let tag := (freeTag s c.core).getD 0
  let kind := if c.op = opCPYR then ReqKind.reduce else ReqKind.write
  let r : Req :=
    { id := id, kind := kind, core := c.core, ctx := (teamOf s c.team).ctx, line := b.pa / 128, parts := [], mask := mask
      data := data, due := s.now, serve := s.now, out := true, tag := tag, copy := some (c.id, b.id) }
  let line := farLine (b.pa / 128)
  let bytes := bufReadN data 0 128
  let msgs : List Sent := if c.op = opCPYR ∧ b.bad.isEmpty then
      [.request dev c.core tag line 6 (beatWords b) (reduceCode c.ctl).1 (reduceCode c.ctl).2, .data dev c.core tag line mask bytes]
    else [.beat dev c.core tag line 0 (if c.op = opCPYR then 0#128 else mask) bytes (badWords b)]
  { s with reqs := tput id r s.reqs, sent := s.sent ++ msgs }

/-- A beat has begun, and completes in a ratio stop too (R460). -/
def beginBeat (s : State) (c : CopyCmd) (b : CopyBeat) : State :=
  modCopy s c.id (fun c => { c with beats := c.beats.map (fun y => if y.id == b.id then { y with begun := true } else y) })

/-- The first half of a beat: its source is read and its destinations are found. -/
def readStage (s : State) (c : CopyCmd) (b : CopyBeat) : State :=
  match c.parts[b.part]? with
  | none => s
  | some x =>
    if c.state != .running || (!b.begun && clockStands (quadOf s (coreQuad c.core))) then s
    else match readBeat (beginBeat s c b) c b x with
      | .wait s => s
      | .fault f s => copyFault s c b f
      | .ok bytes bad s' =>
        match landings s' c b x bytes bad with
        | (.error (.inl f), s) => copyFault s c b f
        | (.error (.inr _), s) =>
          modCopy s c.id (fun c => { c with beats := c.beats.map (fun y => if y.id == b.id then { y with blocked := true } else y) })
        | (.ok bs, s) => copyCheck (slipGo (placeLandings s c.id b bs) (coreQuad c.core)) c.id

/-- The second half: the beat is performed at its destination, after earlier rows that overlap it there. -/
def landStage (s : State) (c : CopyCmd) (b : CopyBeat) : Out :=
  match c.parts[b.part]? with
  | none => .next s
  | some x =>
    if s.now < b.due || s.reqs.any (fun e => e.2.copy == some (c.id, b.id)) then .next s
    else if c.beats.any (fun a => beatsClash x a b) then
      .next (modCopy s c.id (fun c => { c with beats := c.beats.map (fun y => if y.id == b.id then { y with blocked := true } else y) }))
    else match b.member with
      | some k => .next (beatDone (landBuffer s c b k) c b)
      | none =>
        let p := pathOf s (coreTower c.core) b.pa b.leaf
        let vs := if c.op = opCPYR then [0, 2] else [4]
        if !pathReady s p vs [1] || (isFar s b.pa && (freeTag s c.core).isNone) then .next (waitFor s (.slipBeat c.id b.id))
        else if isFar s b.pa then .next (landRemote (vs.foldl (fun s v => countPath s p v) s) c b)
        else match recallRemote s (b.pa / 128) (beatWords b) (.slipBeat c.id b.id) with
          | some s => .next s
          | none =>
            let s := countBack (vs.foldl (fun s v => countPath s p v) s) p 1
            .next (afterServe (beatDone (if c.op = opCPYR then landReduce s c b else landWrite s b) c b))

/-- SLIP_BEAT (R313). -/
def execSlipBeat (id bid : Nat) (s : State) : Out :=
  match copyOfId s id with
  | none => .next s
  | some c =>
    match c.beats.find? (fun b => b.id == bid) with
    | none => .next s
    | some b => if b.unread then .next (nudgeSave (readStage s c b) c.team) else landStage s c b

/-- COPY_COMPLETE (R314). -/
def execCopyComplete (id : Nat) (s : State) : Out :=
  match copyOfId s id with
  | some c => if copyDone c then .next (endCopy s c .done) else .next s
  | none => .next s

/-! ## Parts and acceptance (R302, R303, R314) -/

/-- The dirty bytes of a global source range in the issuing core's L1 are written back (R242). -/
def copyBacks (s : State) (c : CopyCmd) : State :=
  if c.ctl.ssp ≠ 0#2 then s
  else
    let ctx := (teamOf s c.team).ctx
    let held := (coreOf s c.core).l1.map (·.1)
    (c.parts.filter (fun x => !partEmpty x)).foldl (fun s x =>
      (List.range x.rows).foldl (fun s r =>
        (rangeLines s ctx (x.src.toNat + r * x.sp) x.rb).foldl (fun s iv =>
          (held.filter (fun l => decide (iv.1 ≤ l ∧ l ≤ iv.2))).foldl (fun s l => startWriteBack s c.core l (BitVec.allOnes 128)) s) s) s) s

/-- Acceptance of a command with all of its parts. -/
def acceptCopy (s : State) (k op : Nat) (ctl : CopyCtl) (entries : List Nat) : State :=
  let tm := teamOf s k
  let part := fun (i : Nat) =>
    let j := tgetD tm.journal i {}
    ({ entry := i, src := j.srca, dst := j.dsta, rows := bits j.shape 32 32, rb := bits j.shape 0 32, dp := bits j.pitch 32 32
       sp := bits j.pitch 0 32 } : CopyPart)
  let (id, s) := newId s
  let c : CopyCmd := { id := id, team := k, op := op, ctl := ctl, core := tm.core, parts := entries.map part, state := .held }
  let s := { s with copies := tput id c s.copies }
  let s := setEntries s k entries jRunning
  let s := match copyBar c with | some b => barExpectEngine s k b 1 | none => s
  let s := copyBacks s c
  match slotOf tm ctl.gs.toNat with
  | .isFalse => endCopy s c .discarded
  | .isOpen => s
  | .isTrue => startCopy s id

/-- Supplies one part: its journal entry is written, and the last part makes the command. -/
def supplyPart (s : State) (k gid op : Nat) (ctl : CopyCtl) (x : CopyPart) (g : Group) (p entry : Nat) : State :=
  let tm := teamOf s k
  let j : Journal :=
    { seq := tm.jseq, st := BitVec.ofNat 3 jPart, gid := gid, opc := op, xctl := copyE2 ctl, ctl := copyE1 ctl
      srca := x.src, dsta := x.dst, shape := sregOf g (p + 2), pitch := sregOf g (p + 3) }
  let s := modJournal (modTeam s k (fun tm => { tm with jseq := tm.jseq + 1 })) k entry (fun _ => j)
  let old := tgetD tm.cslots ctl.slot.toNat { op := op, e1 := copyE1 ctl, e2 := copyE2 ctl, gids := [], entries := [] }
  let new := { old with gids := old.gids ++ [gid], entries := old.entries ++ [entry] }
  if new.gids.length = ctl.np.toNat + 1 then
    acceptCopy (modTeam s k (fun tm => { tm with cslots := tdel ctl.slot.toNat tm.cslots })) k op ctl new.entries
  else modTeam s k (fun tm => { tm with cslots := tput ctl.slot.toNat new tm.cslots })

/-- All the lanes that have arrived at the rendezvous of a packet wait for what `w` says, and arrive again. -/
def parkArrived (s : State) (p : Packet) (gid : Nat) (w : WaitWhy) : State :=
  (arrivedLanes s p gid).foldl
    (fun s l => makeWait s (laneRef p gid l) w) s

/-- A part instruction (R303, R306): a rendezvous. -/
def copyPart (op : Nat) (b : Base) (c : CopyCtl) (s : State) : Out :=
  rendezvous { g := b.g } noIll false 0xFFFFFFFF#32 (fun p gid present s =>
    if present.isEmpty then .done s
    else
      let g := grpOf s p.team gid
      let x := partFrom g b.sa.toNat
      match partCheck s p.team gid op c x with
      | some f => everyLane present f
      | none =>
        match freeEntry (teamOf s p.team) with
        | none => .left (parkArrived s p gid .journal)
        | some i => .done (supplyPart s p.team gid op c x g b.sa.toNat i)) s

def execCpy (b : Base) (c : CopyCtl) (s : State) : Out := copyPart opCPY b c s
def execCpyt (b : Base) (c : CopyCtl) (s : State) : Out := copyPart opCPYT b c s
def execCpyr (b : Base) (c : CopyCtl) (s : State) : Out := copyPart opCPYR b c s

/-! ## CPYQ (R317) -/

def execCpyq (b : Base) (s : State) : Out :=
  perThread (baseOpnds b 0 0 1) noIll (fun p t s =>
    let v := match tget (teamOf s t.team).cslots (b.sa.toNat % 8) with
      | some x => (x.e1.toNat / 8 % 32) * 2 ^ 8 + x.gids.length * 4 + 1
      | none => 0
    .done (modThr s t (fun th => putReg th b.dst.toNat (BitVec.ofNat 32 v))) p.next) s

def execCpyqJ (b : Base) (s : State) : Out :=
  perThread (baseOpnds b 0 0 1) noIll (fun p t s =>
    let js := (teamOf s t.team).journal
    let n := fun (f : Nat → Bool) => (js.filter (fun e => f e.2.st.toNat)).length
    let v := n (· == jFaultWait) * 2 ^ 16 + n (fun x => x == jRunning || x == jReplay) * 2 ^ 8 + n (· != jFree)
    .done (modThr s t (fun th => putReg th b.dst.toNat (BitVec.ofNat 32 v))) p.next) s

/-! ## Save and replay (R316) -/

/-- CPY and CPYT of a team that is saved are discarded to REPLAY; beats already performed stay. -/
def discardCopies (s : State) (k : Nat) : State :=
  s.copies.foldl (fun s e =>
    if e.2.team == k && e.2.op != opCPYR && (e.2.state == .running || e.2.state == .faultWait) then
      modCopy (setEntries s k (e.2.parts.map (·.entry)) jReplay) e.1
        (fun c => { c with state := .replay, beats := [], token := 0#64 })
    else s) s

/-- Whether a started CPYR of the team has still to read buffer bytes. -/
def readsBuffers (s : State) (k : Nat) : Bool :=
  s.copies.any (fun e => e.2.team == k && e.2.op == opCPYR && e.2.ctl.ssp != 0#2 && (e.2.state == .running || e.2.state == .faultWait)
    && ((nextPart e.2).isSome || e.2.beats.any (·.unread)))

/-- A command starts again from its beginning, with what its journal entries say now. -/
def replayCopy (s : State) (c : CopyCmd) : State :=
  let tm := teamOf s c.team
  let s := c.parts.foldl (fun s x => modJournal s c.team x.entry (fun j => { j with prog := 0 })) s
  let part := fun (x : CopyPart) =>
    let j := tgetD tm.journal x.entry {}
    { x with src := j.srca, dst := j.dsta, rows := bits j.shape 32 32, rb := bits j.shape 0 32, dp := bits j.pitch 32 32
             sp := bits j.pitch 0 32, row := 0, off := 0 }
  startCopy (modCopy s c.id (fun c => { c with core := tm.core, parts := c.parts.map part, beats := [] })) c.id

/-- COPY_REPLAY_START: every team of the cluster is restored and has completed its restore routines. -/
def execCopyReplayStart (k : Nat) (s : State) : Out :=
  let tm := teamOf s k
  let fellows := s.teams.filter (fun e => e.2.ctx == tm.ctx && e.2.node == tm.node && e.2.cluster == tm.cluster && !e.2.freed)
  let back := fellows.all (fun e => (e.2.state == .running || e.2.state == .exited)
    && (teamThreads s e.1).all (fun t => (thrOf s t).mode != .rest))
  if !back then .next s
  else .next (s.copies.foldl (fun s e => if e.2.team == k && e.2.state == .replay then replayCopy s e.2 else s) s)

/-- FRES on a copy in FAULT_WAIT (R314): it resumes from PROG. -/
def retryCopy (s : State) (c : CopyCmd) : State :=
  let s := setEntries s c.team (c.parts.map (·.entry)) jRunning
  let s := modCopy s c.id (fun c => { c with state := .running, token := 0#64 })
  copyCheck (resumeSlip s (coreQuad c.core)) c.id

end Sys2Proof.Machine
end

