-- ==== Sys2Proof/Machine/Coll.lean ====
section
/-! DEFINITION. Guard slots (R292, R301), and collectives (R244, R318 to R321, R376): posting, match, results and completion. -/

namespace Sys2Proof.Machine

/-! ## Communicators (R318) -/

def commOf (x : Ctx) (n : Nat) : Comm := tgetD x.comms n {}
def commValid (c : Comm) : Bool := c.cfg.getLsbD 63
def commSize (c : Comm) : Nat := bits c.cfg 48 10
def commRank (c : Comm) : Nat := bits c.cfg 32 9
def commSeq (c : Comm) : Nat := bits c.cfg 0 32

def modComm (s : State) (ctx n : Nat) (f : Comm → Comm) : State :=
  modCtx s ctx (fun x => { x with comms := tset {} n (f (commOf x n)) x.comms })

/-- The context and communicator of a collective. -/
def collCtx (s : State) (c : Coll) : Nat := (teamOf s c.team).ctx
def collComm (s : State) (c : Coll) : Comm := commOf (ctxOf s (collCtx s c)) c.ctl.comm.toNat

/-! ## Ranges (R321) -/

def kAR : Nat := 0
def kAG : Nat := 1
def kRS : Nat := 2

def collWidth (c : CollCtl) : Nat := if c.fmt = 1#2 then 2 else 4

/-- Send and receive elements of a collective of count `n` over `p` ranks. -/
def sendCount (c : CollCtl) (n p : Nat) : Nat := if c.kind.toNat = kRS then p * n else n
def recvCount (c : CollCtl) (n p : Nat) : Nat := if c.kind.toNat = kAG then p * n else n

/-! ## The course of a collective -/

def modColl (s : State) (id : Nat) (f : Coll → Coll) : State := { s with colls := tmod id f s.colls }
def collOf (s : State) (id : Nat) : Option Coll := tget s.colls id

def collSeq (s : State) (c : Coll) : Nat := (jseqOf s c.team c.entry).toNat

/-- A collective completes, is discarded or fails: its entry is freed and it arrives. -/
def endColl (s : State) (c : Coll) (how : CmdEnd) : State :=
  let tm := teamOf s c.team
  let seq := collSeq s c
  let s := { s with colls := tdel c.id s.colls }
  let s := setEntries s c.team [c.entry] jFree
  let s := if c.ctl.barEn then arriveOn s c.team c.ctl.bar.toNat (how == .failed) else s
  let s := if how = .failed then
      modRun (faultLog s tm.ctx 5 fCOPY_FAULT tm.index seq) tm.ctx tm.node (fun r => { r with failed := true })
    else s
  engineEnded (wakeJournal s c.team) c.team

def collSendBytes (s : State) (c : Coll) : Nat := sendCount c.ctl c.count (commSize (collComm s c)) * collWidth c.ctl
def collRecvBytes (s : State) (c : Coll) : Nat := recvCount c.ctl c.count (commSize (collComm s c)) * collWidth c.ctl

/-- A collective is posted and its watchdog starts. Alone in its communicator it matches at once. -/
def postColl (s : State) (id : Nat) : State :=
  match collOf s id with
  | none => s
  | some c =>
    let w := (ctxOf s (collCtx s c)).wdog.toNat
    let s := modColl s id (fun c => { c with state := .posted, postedAt := s.now, wdog := w })
    let s := if w = 0 then s else schedule s (s.now + w * 1000 * nsTicks) (.collWatchdog id)
    if commSize (collComm s c) = 1 then schedule s s.now (.collMatch id []) else s

/-! ## Guard slots -/

/-- The commands, copies and collectives held under a slot go on, or are discarded (R269, R292, R314). -/
def resolveSlot (s : State) (k gs : Nat) (isTrue : Bool) : State :=
  let s := resolveCommands s k gs isTrue
  let cs := s.copies.filter (fun e => e.2.team == k && e.2.state == .held && e.2.ctl.gs.toNat == gs)
  let s := cs.foldl (fun s e =>
    if isTrue then startCopy s e.1
    else match copyOfId s e.1 with
      | some c => endCopy s c .discarded
      | none => s) s
  let xs := s.colls.filter (fun e => e.2.team == k && e.2.state == .held && e.2.ctl.gs.toNat == gs)
  let s := xs.foldl (fun s e =>
    if isTrue then postColl s e.1
    else match collOf s e.1 with
      | some c => endColl s c .discarded
      | none => s) s
  stirDrain s k

def setSlot (s : State) (k gs : Nat) (v : SlotState) : State :=
  modTeam s k (fun tm => { tm with gslots := tset .isTrue gs v tm.gslots })

def execGset (b : Base) (s : State) : Out :=
  oncePerPacket { g := b.g } noIll (fun p _ s =>
    let n := b.dst.toNat % 8
    .done (resolveSlot (setSlot s p.team n .isTrue) p.team n true)) (fun _ s => s) s

def execGsetOpen (b : Base) (s : State) : Out :=
  oncePerPacket { g := b.g } noIll (fun p _ s => .done (setSlot s p.team (b.dst.toNat % 8) .isOpen)) (fun _ s => s) s

def execGclr (b : Base) (s : State) : Out :=
  oncePerPacket { g := b.g } noIll (fun p _ s =>
    let n := b.dst.toNat % 8
    .done (resolveSlot (setSlot s p.team n .isFalse) p.team n false)) (fun _ s => s) s

/-! ## COLL (R319, R320) -/

def rangesMeet (a n b m : Nat) : Bool := n != 0 && m != 0 && decide (a < b + m ∧ b < a + n)

def collCheck (s : State) (k : Nat) (c : CollCtl) (g : Group) (p : Nat) : Option Flt :=
  let tm := teamOf s k
  let x := commOf (ctxOf s tm.ctx) c.comm.toNat
  let send := sregOf g p
  let recv := sregOf g (p + 1)
  let n := bits (sregOf g (p + 2)) 0 32
  let sn := sendCount c n (commSize x) * collWidth c
  let rn := recvCount c n (commSize x) * collWidth c
  if !commValid x then some (flt fCOPY_FAULT)
  else if bits (sregOf g (p + 2)) 32 32 ≠ 0 || sregOf g (p + 3) != 0#64 then some (flt fCOPY_FAULT)
  else if send.toNat % 4 ≠ 0 then some (flt fMISALIGN)
  else if recv.toNat % 4 ≠ 0 then some (flt fMISALIGN)
  else if 2 ^ 56 ≤ send.toNat then some { code := fPAGE_PERM, addr := send, kind := 5 }
  else if 2 ^ 56 ≤ recv.toNat then some { code := fPAGE_PERM, addr := recv, kind := 5 }
  else if rangesMeet send.toNat sn recv.toNat rn && !(c.kind.toNat == kAR && send == recv) then some (flt fCOPY_FAULT)
  else if barBreak tm (if c.barEn then some c.bar.toNat else none) then some (flt fBAR_INVALID)
  else none

/-- The entry of a COLL that passed its checks: a journal entry, the communicator's SEQ, and the guard slot. -/
def acceptColl (s : State) (k gid entry : Nat) (c : CollCtl) (g : Group) (p : Nat) : State :=
  let tm := teamOf s k
  let n := c.comm.toNat
  let seq := commSeq (commOf (ctxOf s tm.ctx) n)
  let s := modComm s tm.ctx n (fun x => { x with cfg := putBits x.cfg 0 32 (seq + 1) })
  let j : Journal :=
    { seq := tm.jseq, st := BitVec.ofNat 3 jRunning, gid := gid, opc := opCOLL, xctl := collE2 c, ctl := collE1 c
      srca := sregOf g p, dsta := sregOf g (p + 1), shape := sregOf g (p + 2), pitch := BitVec.ofNat 64 seq }
  let s := modJournal (modTeam s k (fun tm => { tm with jseq := tm.jseq + 1 })) k entry (fun _ => j)
  let (id, s) := newId s
  let x : Coll :=
    { id := id, team := k, gid := gid, entry := entry, ctl := c, send := sregOf g p, recv := sregOf g (p + 1)
      count := bits (sregOf g (p + 2)) 0 32, seq := seq, core := tm.core, state := .held, postedAt := s.now }
  let s := { s with colls := tput id x s.colls }
  let s := if c.barEn then barExpectEngine s k c.bar.toNat 1 else s
  match slotOf (teamOf s k) c.gs.toNat with
  | .isFalse => endColl s x .discarded
  | .isOpen => s
  | .isTrue => postColl s id

/-- The buffers that a COLL names, which its release covers (R244). -/
def collBuffers (s : State) (k : Nat) (c : CollCtl) (g : Group) (p : Nat) : List (Nat × Nat) :=
  let n := bits (sregOf g (p + 2)) 0 32
  let x := commOf (ctxOf s (teamOf s k).ctx) c.comm.toNat
  [((sregOf g p).toNat, sendCount c n (commSize x) * collWidth c), ((sregOf g (p + 1)).toNat, recvCount c n (commSize x) * collWidth c)]

def execColl (b : Base) (c : CollCtl) (s : State) : Out :=
  rendezvous { g := b.g } noIll false 0xFFFFFFFF#32 (fun p gid present s =>
    if present.isEmpty then .done s
    else
      let g := grpOf s p.team gid
      match collCheck s p.team c g b.sa.toNat with
      | some f => everyLane present f
      | none =>
        match freeEntry (teamOf s p.team) with
        | none => .left (parkArrived s p gid .journal)
        | some i =>
          releaseLanes p gid scFabric (some (collBuffers s p.team c g b.sa.toNat)) present s (fun s =>
            .done (acceptColl s p.team gid i c g b.sa.toNat))) s

/-! ## The match (R321) -/

/-- The element of a reduction so far, and one rank's value: FP32 sums for BF16, rounded at the end. -/
def collStep (c : CollCtl) (acc x : Nat) : Nat :=
  match c.fmt.toNat, c.op.toNat with
  | 2, 0 => (acc + x) % 2 ^ 32
  | 2, o => if ((BitVec.ofNat 32 acc).toInt ≤ (BitVec.ofNat 32 x).toInt) = (o = 1) then acc else x
  | 1, 0 => (fp32.finish rcRNE false false 0 flNone (addRes rcRNE (fp32.read acc) (bf16.read x))).1
  | 1, o => (bf16.pick false (o == 2) acc x).1
  | _, 0 => (fp32.finish rcRNE false false 0 flNone (addRes rcRNE (fp32.read acc) (fp32.read x))).1
  | _, o => (fp32.pick false (o == 2) acc x).1

/-- Rank 0's value as the reduction begins with it, and the result. -/
def collFirst (c : CollCtl) (x : Nat) : Nat :=
  if c.fmt = 1#2 ∧ c.op = 0#2 then (fp32.finish rcRNE false false 0 flNone (valRes (bf16.read x))).1 else x
def collLast (c : CollCtl) (x : Nat) : Nat :=
  if c.fmt = 1#2 ∧ c.op = 0#2 then (bf16.finish rcRNE false false 0 flNone (valRes (fp32.read x))).1 else x

/-- The reduction over the ranks in ascending order. -/
def collReduce (c : CollCtl) : List Nat → Nat
  | [] => 0
  | x :: r => collLast c (r.foldl (collStep c) (collFirst c x))

def collElem (p : RankPost) (e : Nat) : Nat := (p.elems.getD e 0#32).toNat

/-- The receive elements of rank `rank`, from the posts in ascending rank. -/
def collResult (c : CollCtl) (rank count : Nat) (ps : List RankPost) : List Nat :=
  if c.kind.toNat = kAG then ps.flatMap (fun p => (List.range count).map (collElem p))
  else
    let base := if c.kind.toNat = kRS then rank * count else 0
    (List.range count).map (fun e => collReduce c (ps.map (fun p => collElem p (base + e))))

def elemBytes (w : Nat) : List Nat → List Byte
  | [] => []
  | x :: r => leBytes x w ++ elemBytes w r

def bytesElems (w : Nat) (bs : List Byte) : Nat → List Word32
  | 0 => []
  | n + 1 => BitVec.ofNat 32 (leNat (bs.take w)) :: bytesElems w (bs.drop w) n

/-- The pieces of a buffer with their translations; or a page is moved; or one fails. -/
inductive Pieces where
  | ok (xs : List (Xl × Nat)) (s : State)
  | held (s : State)
  | fault (f : Flt) (s : State)

/-- Translates a buffer line by line for Slip (R391). -/
def collPieces (s : State) (c : Coll) (write : Bool) : List (Nat × Nat) → Pieces
  | [] => .ok [] s
  | (a, n) :: r =>
    if 2 ^ 56 ≤ a then .fault { code := fPAGE_PERM, addr := BitVec.ofNat 64 a, kind := 5 } s
    else match translate s (some c.core) (collCtx s c) a { read := !write, write := write, kind := 5 } with
      | .fault f s => .fault f s
      | .held _ s => .held s
      | .ok x s =>
        if linkDown s x.pa then .fault { code := fLINK_DOWN, addr := BitVec.ofNat 64 a, kind := 5 } s
        else match collPieces s c write r with
          | .ok xs s => .ok ((x, n) :: xs) s
          | o => o

def pieceWords (x : Xl × Nat) : BitVec 32 := wordMask (x.1.pa % 128) x.2

/-- The bytes of a buffer read once at their homes, and whether any is poisoned. -/
def readSend (s : State) (c : Coll) : List (Xl × Nat) → List Byte × Bool × State
  | [] => ([], false, s)
  | x :: r =>
    let line := x.1.pa / 128
    let s := recallLocal s line (pieceWords x) none
    let bs := match tget c.remote line with
      | some d => bufReadN d (x.1.pa % 128) x.2
      | none => physRead s x.1.pa x.2
    let bad := poisoned s line (pieceWords x)
    let (rest, bad', s) := readSend (touchHome s x.1.pa x.1.leaf false) c r
    (bs ++ rest, bad || bad', s)

/-- A piece of the result written at its home; a fabric line goes out as a beat and is performed when the remote home answers. -/
def writePiece (s : State) (c : Coll) (x : Xl × Nat) (bs : List Byte) : State :=
  let line := x.1.pa / 128
  let off := x.1.pa % 128
  if isFar s x.1.pa then
    let (id, s) := newId s
    let tag := (freeTag s c.core).getD 0
    let mask : BitVec 128 := BitVec.ofNat 128 ((2 ^ bs.length - 1) * 2 ^ off)
    let r : Req :=
      { id := id, kind := .write, core := c.core, ctx := collCtx s c, line := line, parts := [], mask := mask
        data := bufWriteN [] off bs, due := s.now, serve := s.now, out := true, tag := tag }
    let s := post { s with reqs := tput id r s.reqs } (pathOf s (coreTower c.core) x.1.pa x.1.leaf) 4
      (.beat (farAgent s x.1.pa) c.core tag (farLine line) 0 mask (bufReadN r.data 0 128) 0#32)
    modColl s c.id (fun c => { c with outs := id :: c.outs })
  else
    let s := recallLocal s line (pieceWords x) none
    homeBytes (touchHome s x.1.pa x.1.leaf true) line ((List.range bs.length).zip bs |>.map (fun y => (off + y.1, y.2)))

def writeRecv (s : State) (c : Coll) (bs : List Byte) : List (Xl × Nat) → State
  | [] => s
  | x :: r => writeRecv (writePiece s c x (bs.take x.2)) c (bs.drop x.2) r

/-- A translation that finds a page absent or copy on write waits for FRES (R314, R321); anything else fails. -/
def collFault (s : State) (c : Coll) (f : Flt) : State :=
  let tm := teamOf s c.team
  if f.code = fPAGE_COW || (f.code == fPAGE_NOTPRESENT && f.aux % 256 != 2) then
    let tok := tokenOf 1 tm.ctx (ctxOf s tm.ctx).cseq c.entry c.core
    let s := setEntries s c.team [c.entry] jFaultWait
    let s := modColl s c.id (fun c => { c with state := .faultWait, token := tok })
    sendRecord s tm.ctx f.addr 0#64 (collSeq s c) tok 0 tm.index 2 5 0 f.code true
  else endColl s c .failed

/-- A collective completes when its results have been performed. -/
def collDone (s : State) (c : Coll) : Bool := c.state == .matched && c.ran && c.outs.all (fun i => (tget s.reqs i).isNone)

/-- Looks whether matched collectives of this device are done. -/
def settleColls (s : State) : State :=
  s.colls.foldl (fun s e => if e.2.outs.isEmpty || !collDone s e.2 then s else schedule s s.now (.collComplete e.1)) s

/-- The posts of every rank in ascending order, the own one among them; none while a rank is missing. -/
def allPosts (p : Nat) (own : RankPost) (posts : List RankPost) : Option (List RankPost) :=
  (List.range p).mapM (fun r => if r = own.rank then some own else posts.find? (fun x => x.rank == r))

def postsAgree (own : RankPost) (ps : List RankPost) : Bool :=
  ps.all (fun p => p.kind == own.kind && p.fmt == own.fmt && p.op == own.op && p.count == own.count)

/-- The own rank's post. -/
def ownPost (c : Coll) (rank : Nat) (elems : List Word32) : RankPost :=
  { rank := rank, kind := c.ctl.kind, fmt := c.ctl.fmt, op := c.ctl.op, count := c.count, elems := elems }

/-- The run of a collective on this device, its buffers translated and what other devices hold of its send buffer fetched. -/
def runColl (s : State) (c : Coll) (sx rx : List (Xl × Nat)) : State :=
  let x := collComm s c
  let w := collWidth c.ctl
  let (bs, bad, s) := readSend s c sx
  let own := ownPost c (commRank x) (bytesElems w bs (bs.length / w))
  match allPosts (commSize x) own c.posts with
  | none => s
  | some ps =>
    if bad || !postsAgree own ps then endColl s c .failed
    else
      let s := modColl s c.id (fun c => { c with ran := true })
      let s := writeRecv s c (elemBytes w (collResult c.ctl (commRank x) c.count ps)) rx
      let (d, s) := contend s
      match collOf s c.id with
      | some c => if c.outs.isEmpty then schedule s (s.now + d) (.collComplete c.id) else s
      | none => s

/-- The device ids of the ranks, read from the communicator's table when a COLL is matched (R318). -/
def readTable (s : State) (c : Coll) : List (Xl × Nat) → List Byte × State
  | [] => ([], s)
  | x :: r =>
    let y := unitRead s x.1.pa x.2
    let z := readTable y.2 c r
    (y.1 ++ z.1, z.2)

def tableIds (bs : List Byte) : Nat → List Nat
  | 0 => []
  | n + 1 => leNat (bs.take 2) % 512 :: tableIds (bs.drop 2) n

/-- Fetches the lines of a send buffer that other devices hold; answers whether any is still to come. -/
def fetchSend (s : State) (c : Coll) (sx : List (Xl × Nat)) : Bool × State :=
  (sx.filter (fun y => isFar s y.1.pa && (tget c.remote (y.1.pa / 128)).isNone)).foldl (fun r y =>
    let s := r.2
    let line := y.1.pa / 128
    if s.reqs.any (fun e => e.2.copy == some (c.id, 0) && e.2.line == line) then (true, s)
    else
      let (id, s) := newId s
      (true, launch s { id := id, kind := .uc, core := c.core, ctx := collCtx s c, line := line, parts := [], due := 0
                        copy := some (c.id, 0) })) (false, s)

/-- The course of a matched collective (R321): the table of its communicator, its translations, its send buffer, its results. It looks
again while a page is moved, a span is recalled, or a line of another device is to come. -/
def matchedColl (s : State) (c : Coll) : State :=
  let again := Instr.collMatch c.id []
  let x := collComm s c
  match collPieces s c false (cutLines (bits x.tab 0 56) (2 * commSize x)) with
  | .held s => schedule s (s.now + nsTicks) again
  | .fault f s => collFault s c f
  | .ok tx s =>
    let t := readTable s c tx
    let s := modColl t.2 c.id (fun c => { c with devs := tableIds t.1 (commSize x) })
    match collPieces s c false (cutLines c.send.toNat (collSendBytes s c)) with
    | .held s => schedule s (s.now + nsTicks) again
    | .fault f s => collFault s c f
    | .ok sx s =>
      match collPieces s c true (cutLines c.recv.toNat (collRecvBytes s c)) with
      | .held s => schedule s (s.now + nsTicks) again
      | .fault f s => collFault s c f
      | .ok rx s =>
        match fetchSend s c sx with
        | (true, s) => s
        | (false, s) =>
          if (sx ++ rx).any (fun y => !(backsOut s c.core (y.1.pa / 128)).isEmpty) then waitFor s again
          else match (sx ++ rx).findSome? (fun y => recallRemote s (y.1.pa / 128) (pieceWords y) again) with
          | some s => s
          | none => match collOf s c.id with
            | some c => afterServe (runColl s c sx rx)
            | none => s

/-- COLL_MATCH: every rank has posted. `posts` are those of the other ranks, which their devices send; from then on the collective
is matched (R321), and the same event, without posts, has it look again. -/
def execCollMatch (id : Nat) (posts : List RankPost) (s : State) : Out :=
  match collOf s id with
  | none => .next s
  | some c =>
    let x := collComm s c
    let others := (List.range (commSize x)).filter (· != commRank x)
    if c.state = .matched ∧ !c.ran then .next (matchedColl s c)
    else if c.state != .posted || !others.all (fun r => posts.any (fun p => p.rank == r)) || others.length + 1 ≠ commSize x then .next s
    else
      let c := { c with state := .matched, posts := posts }
      .next (matchedColl (modColl s id (fun _ => c)) c)

/-- COLL_COMPLETE: the acquire over the buffers, then the arrival (R244). -/
def execCollComplete (id : Nat) (s : State) : Out :=
  match collOf s id with
  | none => .next s
  | some c =>
    if !collDone s c then .next s
    else
      let held := (coreOf s c.core).l1.map (·.1)
      let ivs := rangeLines s (collCtx s c) c.send.toNat (collSendBytes s c)
        ++ rangeLines s (collCtx s c) c.recv.toNat (collRecvBytes s c)
      let s := (held.filter (fun l => (l1Of s c.core l).own == 0#32 && ivs.any (fun iv => decide (iv.1 ≤ l ∧ l ≤ iv.2)))).foldl
        (fun s l => flushWords s c.core l 0xFFFFFFFF#32)
        (spoilCopies s c.core (fun r => ivs.any (fun iv => decide (iv.1 ≤ r.line ∧ r.line ≤ iv.2))))
      .next (endColl s c .done)

/-- COLL_WATCHDOG (R376): a collective posted without a match for the period that was in force when it was posted (R363) fails. -/
def execCollWatchdog (id : Nat) (s : State) : Out :=
  match collOf s id with
  | none => .next s
  | some c =>
    if c.state != .posted || c.wdog = 0 || decide (s.now < c.postedAt + c.wdog * 1000 * nsTicks) then .next s
    else .next (endColl s c .failed)

/-- FRES.RETRY on a collective (R314, R385): it stands matched, and goes on. -/
def retryColl (s : State) (c : Coll) : State :=
  let s := setEntries s c.team [c.entry] jRunning
  let s := modColl s c.id (fun c => { c with state := .matched, token := 0#64 })
  schedule s s.now (.collMatch c.id [])

end Sys2Proof.Machine
end

