-- ==== Sys2Proof/Machine/Place.lean ====
section
/-! DEFINITION. Kernel headers and node records as the device captures them (R322, R323, R326, R327), the refusal checks (R334),
the resources of a core, Place and affinity (R331, R332), and the teams, groups and threads that placement creates (R126, R167,
R324, R325). -/

namespace Sys2Proof.Machine

/-! ## Reading a context's memory -/

/-- Bytes of a context read with R permission from device memory; none where that fails. `f` bounds the pages. -/
def devRead (ctx : Nat) : Nat → Nat → Nat → State → Option (List Byte × State)
  | 0, _, _, _ => none
  | f + 1, va, n, s =>
    if n = 0 then some ([], s)
    else match virtPa s ctx va false with
      | (none, _) => none
      | (some pa, s) =>
        if rangeOf pa != .hbm && rangeOf pa != .pinned then none
        else
          let k := min n (65536 - va % 65536)
          let (bs, s) := unitRead s pa k
          (devRead ctx f (va + k) (n - k) s).map (fun x => (bs ++ x.1, x.2))

def devBytes (s : State) (ctx va n : Nat) : Option (List Byte × State) := devRead ctx (n / 65536 + 2) va n s

/-- Bits of a record or header read as one number. -/
def fld (h lo n : Nat) : Nat := h / 2 ^ lo % 2 ^ n

/-! ## The kernel header (R322, R323) -/

/-- The reserved fields of a header: low bit and width. -/
def headerReserved : List (Nat × Nat) :=
  [(768, 1280), (352, 160), (310, 10), (301, 3), (294, 2), (283, 5), (268, 4), (241, 15), (226, 6), (214, 2), (32, 32), (160, 32)]

def headerOf (va h : Nat) : Header :=
  { addr := BitVec.ofNat 64 va
    entry := fld h 0 64
    traph := BitVec.ofNat 64 (fld h 64 64)
    sptab := fld h 128 64
    regs := fld h 192 11
    groups := fld h 203 5 + 1
    clw := fld h 208 3 + 1
    clh := fld h 211 3 + 1
    ramp := fld h 216 8
    pinned := fld h 224 1 == 1
    useStep := fld h 225 1 == 1
    nsp := fld h 232 9
    abuf := fld h 256 12 * 128
    wbuf := fld h 272 11 * 128
    cbuf := fld h 288 6
    bars := fld h 296 5
    rsvn := fld h 304 6
    load := fld h 320 16
    seedm := BitVec.ofNat 8 (fld h 336 8)
    seeds := (List.range 8).map (fun k => BitVec.ofNat 32 (fld h (512 + 32 * k) 32)) }

def headerOk (x : Header) (h : Nat) : Bool :=
  x.addr.toNat % 256 == 0 && fld h 344 8 == 1 && headerReserved.all (fun r => fld h r.1 r.2 == 0)
    && x.entry % 32 == 0 && decide (256 ≤ x.entry) && x.traph.toNat % 4 == 0 && x.sptab % 16 == 0
    && decide (1 ≤ x.regs ∧ x.regs ≤ 1024) && decide (x.clw ≤ 6 ∧ x.clh ≤ 6 ∧ x.clw * x.clh ≤ 12)
    && decide (1 ≤ x.nsp ∧ x.nsp ≤ 256) && decide (x.abuf ≤ 262144 ∧ x.wbuf ≤ 131072 ∧ x.cbuf ≤ 32 ∧ x.bars ≤ 16 ∧ x.rsvn ≤ 32)
    && decide (x.addr.toNat + x.entry < 2 ^ 56 ∧ x.addr.toNat + x.traph.toNat < 2 ^ 56)
    && (List.range 8).all (fun k => x.seedm.getLsbD k || x.seeds.getD k 0#32 == 0#32)

/-- An entry of the safe-point table from its 16 bytes. -/
def safePtOf (e : Nat) : SafePt := { pc := fld e 0 32, save := fld e 32 32, rest := fld e 64 32 }

def safePtUsed (p : SafePt) : Bool := p.pc != 0 || p.save != 0 || p.rest != 0

def safePtOk (base i e : Nat) : Bool :=
  let p := safePtOf e
  fld e 96 32 == 0
    && (!safePtUsed p || (p.save != 0 && p.rest != 0 && p.save % 4 == 0 && p.rest % 4 == 0
        && decide (base + p.pc < 2 ^ 56 ∧ base + p.save < 2 ^ 56 ∧ base + p.rest < 2 ^ 56)))
    && (i != 0 || (safePtUsed p && p.pc == 0))

/-- Captures a header and its table: causes 1 and 2 of R334. -/
def captureHeader (s : State) (ctx va : Nat) : Except Nat Header × State :=
  match devBytes s ctx va 256 with
  | none => (.error 1, s)
  | some (bs, s) =>
    let h := leNat bs
    let x := headerOf va h
    if x.nsp = 0 ∨ 256 < x.nsp then (.error 2, s)
    else match devBytes s ctx (va + x.sptab) (16 * x.nsp) with
      | none => (.error 1, s)
      | some (ts, s) =>
        let es := (List.range x.nsp).map (fun i => (i, leNat ((ts.drop (16 * i)).take 16)))
        if !headerOk x h || !es.all (fun e => safePtOk va e.1 e.2) || decide (2 ^ 56 < va + x.sptab + 16 * x.nsp) then (.error 2, s)
        else
          let used := es.filter (fun e => safePtUsed (safePtOf e.2))
          (.ok { x with safepts := used.map (fun e => (e.1, safePtOf e.2)) }, s)

/-! ## The node record (R326) -/

def nodeReserved : List (Nat × Nat) := [(493, 19), (355, 29), (308, 12), (283, 5), (248, 8)]

/-- The record's fields for a launch. -/
def runFrom (ctx node stamp r : Nat) (hdr : Header) : NodeRun :=
  { ctx := ctx, node := node, hdr := hdr, stamp := stamp
    args := BitVec.ofNat 64 (fld r 64 64)
    stkw := fld r 128 32
    privhi := fld r 160 32
    succA := fld r 192 56
    ncl := fld r 256 16
    w := hdr.clw
    h := hdr.clh
    prio := fld r 280 2
    persistent := fld r 282 1 == 1
    ramp := fld r 288 8
    nsucc := fld r 296 8
    record := r
    cq := if fld r 460 1 = 1 then some (fld r 448 12) else none }

/-- Causes 3 and 4 of R334. -/
def nodeRecOk (r : Nat) : Bool :=
  fld r 256 16 != 0 && fld r 128 32 % 16 == 0 && decide (fld r 128 32 ≤ 4194304)
    && nodeReserved.all (fun x => fld r x.1 x.2 == 0) && decide (fld r 304 4 ≤ 8) && fld r 192 56 % 4 == 0

def shapeOk (r : Nat) (x : Header) : Bool :=
  (fld r 272 4 == 0 || fld r 272 4 == x.clw) && (fld r 276 4 == 0 || fld r 276 4 == x.clh)

/-- The declared seeds agree with the context's (R70). -/
def seedsOk (s : State) (ctx : Nat) (x : Header) : Bool :=
  (List.range 8).all (fun k => !x.seedm.getLsbD k || x.seeds.getD k 0#32 == tgetD (ctxOf s ctx).seeds k 0#32)

/-! ## Resources of a core (R331) -/

/-- Whether the dispatcher may use a quad: it is ungated, its tower is online and not leaving. -/
def quadUsable (s : State) (q : Nat) : Bool :=
  let t := towerOf s (quadTower q)
  !(quadOf s q).gated && t.tstate == 0#2 && t.offlining.isNone

/-- The quads of a context's partition, in ascending order. -/
def partQuads (x : Ctx) : List Nat :=
  (List.range 16).flatMap (fun k =>
    let w := tgetD x.part k 0#64
    ((List.range 64).filter (fun i => w.getLsbD i)).map (fun i => 64 * k + i))

def partCores (s : State) (ctx : Nat) : List Nat :=
  (((partQuads (ctxOf s ctx)).filter (quadUsable s)).flatMap quadCores).mergeSort (fun a b => decide (a ≤ b))

/-- The teams that hold buffers on a core. One that exited before its cluster was saved holds none until the cluster is
restored. -/
def placedOn (s : State) (core : Nat) : List (Nat × Team) :=
  s.teams.filter (fun e => e.2.core == core && !e.2.freed && e.2.state != .saved
    && !(e.2.state == .exited && ((ctxOf s e.2.ctx).state == .saved || (ctxOf s e.2.ctx).state == .migrating)))

def sumBy {α : Type} (f : α → Nat) (l : List α) : Nat := l.foldl (fun n x => n + f x) 0

def freeGroups (s : State) (core : Nat) : Nat :=
  64 - (s.groups.filter (fun e => (teamOf s (e.1 / 32)).core == core && (teamOf s (e.1 / 32)).state != .saved)).length

/-- The free A-buffer, W-buffer and C tiles of a core (R197). -/
def freeA (s : State) (core : Nat) : Nat :=
  262144 - sumBy (fun e => e.2.hdr.abuf) ((placedOn s core).filter (fun e => abufHeld s e.2))
def freeW (s : State) (core : Nat) : Nat :=
  131072 - sumBy (fun e => e.2.hdr.wbuf) ((placedOn s core).filter (fun e => wbufHeld s e.1 e.2))
def freeC (s : State) (core : Nat) : Nat :=
  32 - sumBy (fun e => e.2.hdr.cbuf) ((placedOn s core).filter (fun e => cbufHeld s e.1 e.2))

def coreFits (s : State) (x : Header) (core : Nat) : Bool :=
  decide (x.groups ≤ freeGroups s core ∧ x.abuf ≤ freeA s core ∧ x.wbuf ≤ freeW s core ∧ x.cbuf ≤ freeC s core)
    && blocksFit s core x.groups ((x.regs + 31) / 32)

def coreScore (s : State) (core : Nat) : Nat :=
  4 * freeGroups s core + (blockCapacity s core - blocksUsed s core) / 256 + freeA s core / 4096 + freeW s core / 4096 + freeC s core

/-- The lowest team slots of the context area that no team occupies (R368). -/
def freeSlots (s : State) (ctx : Nat) : List Nat :=
  let used := (s.teams.filter (fun e => e.2.ctx == ctx && !e.2.freed)).map (fun e => e.2.slot)
  (List.range (ctxOf s ctx).slots).filter (fun i => !used.contains i)

/-! ## Place (R331) -/

/-- The cores of the rectangle of w × h cores at an origin, in cluster index order, if it lies inside a tower. -/
def rectCores (w h c : Nat) : Option (List Nat) :=
  if 16 < coreX c + w ∨ 32 < coreY c + h then none
  else some ((List.range h).flatMap (fun j => (List.range w).map (fun i => coreAt (coreTower c) (coreX c + i) (coreY c + j))))

/-- The best of a list of places with their scores: the largest, the first of equals. -/
def bestPlace : List (Nat × List Nat) → Option (Nat × List Nat)
  | [] => none
  | x :: r => match bestPlace r with
    | none => some x
    | some y => some (if x.1 < y.1 then y else x)

/-- Place over the cores that fit. -/
def placeRect (s : State) (ctx : Nat) (x : Header) (w h : Nat) (affinity : Option Nat) : Option (List Nat) :=
  let fit := (partCores s ctx).filter (coreFits s x)
  let cand := fit.filterMap (fun c => match rectCores w h c with
    | some cs => if cs.all (fun d => fit.contains d) then some (sumBy (coreScore s) cs, cs) else none
    | none => none)
  let near := match affinity with
    | some t => cand.filter (fun y => y.2.all (fun c => coreTower c == t))
    | none => []
  (bestPlace (if near.isEmpty then cand else near)).map (·.2)

/-- Place: the cores of a cluster, for which team slots are free (R368). -/
def place (s : State) (ctx : Nat) (x : Header) (w h : Nat) (affinity : Option Nat) : Option (List Nat) :=
  if (freeSlots s ctx).length < w * h then none else placeRect s ctx x w h affinity

/-- The operand pages of a node that affinity counts (R332). -/
def affinityPages (r : Nat) : List Nat :=
  (List.range (min 8 (fld r 304 4))).flatMap (fun k =>
    (List.range (min 64 (fld r (512 + 64 * k) 16))).map (fun i => fld r (528 + 64 * k) 40 + i))

/-- Their entries are read at their homes (R389). -/
def touchAffinity (s : State) (ctx r : Nat) : State :=
  (affinityPages r).foldl (fun s vpn => if 2 ^ 40 ≤ vpn then s else walkTouch s ctx (vpn * 65536) 4) s

/-- The affinity tower of a node's operands (R332). -/
def affinityOf (s : State) (ctx r : Nat) : Option Nat :=
  let pages := affinityPages r
  let towers := pages.filterMap (fun vpn =>
    if 2 ^ 40 ≤ vpn then none
    else match walk s ctx (vpn * 65536) with
      | .leaf e level _ =>
        let pa := leafPa e level (vpn * 65536)
        if rangeOf pa = .pinned then some (pinnedTower pa) else none
      | .absent _ _ => none)
  let count := fun (t : Nat) => (towers.filter (· == t)).length
  if towers.isEmpty then none
  else some ((List.range 8).foldl (fun b t => if count b < count t then t else b) 0)

/-! ## Threads, groups and teams -/

/-- A thread that placement or FORK creates (R126): its registers go to its bank, or to backing (R132). -/
def startThread (s : State) (t : ThrRef) (pc : Word64) : State :=
  let r := tget s.nodes (nodeKey (thrTeam s t).ctx (thrTeam s t).node)
  let stkw := match r with | some r => r.stkw | none => 0
  let res : Residence := if bankHasRoom s t then .resident else .backed
  let th : Thread := { pc := pc, idleSince := thrClock s t, res := res }
  setThr s t (putReg th 1 (BitVec.ofNat 32 ((tid t + 1) * stkw)))

/-- The lowest free group slot of a core. -/
def groupSlot (s : State) (core : Nat) : Nat :=
  let used := (s.groups.filter (fun e => (teamOf s (e.1 / 32)).core == core && (teamOf s (e.1 / 32)).state != .saved)).map
    (fun e => e.2.slot)
  ((List.range 64).find? (fun i => !used.contains i)).getD 0

/-- A new group of 32 threads with the s registers given. -/
def startGroup (s : State) (k gid : Nat) (regs : Tab Word64) (join : Option Nat) (pc : Word64) : State :=
  let g : Group := { s := regs, join := join, slot := groupSlot s (teamOf s k).core }
  let s := setGrp s k gid g
  groupLanes.foldl (fun s l => startThread s { team := k, gid := gid, lane := l } pc) s

/-- The s registers of a group at placement (R325). -/
def startSregs (r : NodeRun) (index : Nat) : Tab Word64 :=
  let g : Group := {}
  let g := setSreg g 0 r.args
  let g := setSreg g 1 (BitVec.ofNat 64 (r.node + r.ncl * r.w * r.h * 2 ^ 32))
  (setSreg g 255 (BitVec.ofNat 64 ((r.privhi + index) % 2 ^ 32))).s

/-- The pages that the code of a kernel touches, from ENTRY to SPTAB. -/
def codePagesOf (x : Header) : List Nat :=
  let lo := (x.addr.toNat + x.entry) / 65536
  List.range' lo ((x.addr.toNat + x.sptab + 65535) / 65536 - lo)

/-- The code of a kernel as it stands at placement (R30): its whole blocks, by virtual address, and its frames. A page that is absent then
has no such copy. -/
def captureCode (s : State) (ctx : Nat) (x : Header) : List (Nat × Nat × Mem) :=
  (codePagesOf x).filterMap (fun p =>
    let lo := max (p * 65536) ((x.addr.toNat + x.entry) / 32 * 32)
    let k := min ((p + 1) * 65536) ((x.addr.toNat + x.sptab + 31) / 32 * 32) - lo
    match walk s ctx lo with
    | .leaf e level _ =>
      let pa := leafPa e level lo
      if isFar s pa then none
      else some (p, pa / 65536, ((List.range k).zip (physRead s pa k) |>.map (fun y => (lo + y.1, y.2))).filter (fun c => c.2 != 0#8))
    | .absent _ _ => none)

/-- A team takes the code of its kernel as it stands; what blocks of code were before earlier writes is forgotten when no other team is
resident. -/
def takeCode (s : State) (k : Nat) : State :=
  let tm := teamOf s k
  let c := captureCode s tm.ctx tm.hdr
  let others := s.teams.any (fun e => e.1 != k && !e.2.freed)
  let (n, s) := newId s
  let s := { s with
    codeFrames := c.foldl (fun l e => addSorted e.2.1 l) (if others then s.codeFrames else [])
    codePast := if others then s.codePast else [] }
  modTeam s k (fun tm => { tm with code := c.flatMap (·.2.2), codePages := c.map (·.1), codeFrom := n })

/-- A team of a cluster is placed on a core. The journal in its slot is cleared (R305). -/
def startTeam (s : State) (r : NodeRun) (n c core pass : Nat) : State :=
  let (k, s) := newId s
  let index := n * r.w * r.h + c
  let tm : Team :=
    { state := .admitting, ctx := r.ctx, node := r.node, index := index, core := core, cluster := n, clx := c % r.w, cly := c / r.w
      w := r.w, h := r.h, prio := r.prio, slot := (freeSlots s r.ctx).headD 0, placed := s.now, hdr := r.hdr
      pass := pass }
  let s := takeCode { s with teams := tput k tm s.teams } k
  let s := if (ctxOf s r.ctx).slots = 0 then s else unitWrite s (slotAt s r.ctx tm.slot) (List.replicate 4096 0#8)
  (List.range r.hdr.groups).foldl (fun s g =>
    startGroup s k g (startSregs r index) none (r.hdr.addr + BitVec.ofNat 64 r.hdr.entry)) s

/-- The teams of a cluster that are placed and not yet admitted. -/
def admitting (s : State) (ctx node cluster : Nat) : List (Nat × Team) :=
  s.teams.filter (fun e => e.2.ctx == ctx && e.2.node == node && e.2.cluster == cluster && e.2.state == .admitting)

/-- One admission for a cluster (R196, R448). -/
def requestAdmission (s : State) (ctx node cluster : Nat) : State :=
  match admitting s ctx node cluster with
  | [] => s
  | x :: r =>
    let core := (x :: r).foldl (fun a e => min a e.2.core) x.2.core
    putRequest s (.admission x.1) x.1 (sumBy (fun e => e.2.hdr.load) (x :: r)) core false

/-- One cluster of a node is placed on the cores given (R327, R328). -/
def placeCluster (s : State) (r : NodeRun) (cores : List Nat) (pass : Nat) : State :=
  let n := r.next
  let s := ((List.range cores.length).zip cores).foldl (fun s x => startTeam s r n x.1 x.2 pass) s
  let s := modNodeWord s r.ctx r.node 7 (fun x => putBits x 13 16 (n + 1))
  let s := if n = 0 then modNodeWord s r.ctx r.node 5 (fun x => putBits x 32 3 3) else s
  let s := modRun s r.ctx r.node (fun x =>
    { x with next := n + 1, pooled := decide (n + 1 < r.ncl), blocking := false, since := s.now
             tstart := if n = 0 then timeNs s else x.tstart })
  requestAdmission s r.ctx r.node n

/-- Places every remaining cluster of a node in one step, or none (R333). -/
def placeWhole (pass : Nat) : Nat → State → Nat → Nat → Option State
  | 0, s, _, _ => some s
  | m + 1, s, ctx, node =>
    match runOf s ctx node with
    | none => none
    | some r => match place s ctx r.hdr r.w r.h r.affinity with
      | none => none
      | some cs => placeWhole pass m (placeCluster s r cs pass) ctx node

/-- A state in which nothing is resident: the partition as if it were empty (R334, cause 6). -/
def emptied (s : State) : State :=
  { s with teams := [], groups := [], threads := [], copies := [], colls := []
           damper := { s.damper with reqs := [] }
           quads := (tmap (fun (q : Quad) => { q with me := [] }) s.quads) }

def wholeGrid (r : NodeRun) : Bool := r.hdr.useStep || r.persistent

/-- Cause 6 of R334. -/
def fitsEmpty (s : State) (r : NodeRun) : Bool :=
  let e := emptied s
  let e := { e with nodes := tput (nodeKey r.ctx r.node) { r with next := 0 } e.nodes }
  if wholeGrid r then (placeWhole 0 r.ncl e r.ctx r.node).isSome
  else (partCores e r.ctx).any (coreFits e r.hdr)

end Sys2Proof.Machine
end

