-- ==== Sys2Proof/Machine/Kernel.lean ====
section
/-! DEFINITION. The course of a node: signals, launch, the ready pool, placement passes and admission (R194, R327 to R334, R451);
EXIT (R165), FORK (R192), SAFEPT (R339) and NSIG (R341). -/

namespace Sys2Proof.Machine

/-! ## The ready pool (R330, R332) -/

def poolSize : Nat := 1024

def runsOf (s : State) : List NodeRun := s.nodes.map (·.2)

def poolCount (s : State) : Nat := ((runsOf s).filter (·.pooled)).length

/-- A node that waits for a pool entry. -/
def isPending (r : NodeRun) : Bool := !r.pooled && !r.refused && decide (r.next < r.ncl)

def nodeState (s : State) (ctx node v : Nat) : State := modNodeWord s ctx node 5 (fun x => putBits x 32 3 v)

/-- A node enters the pool: its affinity is computed, and a placement pass follows (R332, R333). -/
def enterPool (s : State) (ctx node : Nat) : State :=
  match runOf s ctx node with
  | none => s
  | some r =>
    let s := touchAffinity s ctx r.record
    let s := modRun s ctx node (fun r => { r with pooled := true, since := s.now, affinity := affinityOf s ctx r.record })
    let s := if r.next = 0 then nodeState s ctx node 2 else s
    let s := schedule s s.now .placementPass
    schedule s (s.now + 100000 * nsTicks) (.placementBlockTimeout ctx node)

/-- Free pool entries are taken in stamp order. -/
def fillPool : Nat → State → State
  | 0, s => s
  | n + 1, s =>
    if poolSize ≤ poolCount s then s
    else match ((runsOf s).filter isPending).foldl (fun (b : Option NodeRun) r =>
        match b with
        | some x => if r.stamp < x.stamp then some r else b
        | none => some r) none with
      | some r => fillPool n (enterPool s r.ctx r.node)
      | none => s

/-- A node is refused (R334): no further cluster is placed, and a record goes to the fault queue. -/
def refuseNode (s : State) (ctx node cause : Nat) : State :=
  let s := sendRecord s ctx (BitVec.ofNat 64 node) 0#64 0 0#64 0 noTeam 3 6 cause fLAUNCH_REFUSED false
  let s := modRun s ctx node (fun r => { r with refused := true, pooled := false })
  let s := nodeSettle s ctx node
  fillPool s.nodes.length s

/-! ## Signals and launch (R327 to R330) -/

/-- What the device reads when PRED reaches 0, and the first check of R334 that fails. -/
def captureNode (s : State) (ctx node stamp : Nat) : NodeRun × Option Nat × State :=
  let bare : NodeRun := { ctx := ctx, node := node, hdr := {}, stamp := stamp }
  match devBytes s ctx (nodeVa s ctx node) 128 with
  | none => (bare, some 1, s)
  | some (bs, s) =>
    let r := leNat bs
    let succ := fld r 296 8 == 0 || (devBytes s ctx (fld r 192 56) (4 * fld r 296 8)).isSome
    match captureHeader s ctx (fld r 0 64) with
    | (.error c, s) => (bare, some (if succ then c else 1), s)
    | (.ok x, s) =>
      let run := runFrom ctx node stamp r x
      let cause :=
        if !succ then some 1
        else if !nodeRecOk r then some 3
        else if !shapeOk r x then some 4
        else if !seedsOk s ctx x then some 5
        else if !fitsEmpty s run then some 6
        else if 2 ^ 24 < run.privhi + run.ncl * run.w * run.h then some 7
        else none
      (run, cause, s)

/-- PRED has reached 0: the stamp is taken, the record read, and the node is READY, PENDING or refused. -/
def launchNode (s : State) (ctx node : Nat) : State :=
  let s := modNodeWord s ctx node 7 (fun x => putBits x 13 32 0)
  let stamp := s.stamp
  let s := { s with stamp := stamp + 1 }
  let full := decide (poolSize ≤ poolCount s)
  let s := nodeState s ctx node (if full then 1 else 2)
  let (run, cause, s) := captureNode s ctx node stamp
  let s := { s with nodes := tput (nodeKey ctx node) run s.nodes }
  match cause with
  | some c => refuseNode s ctx node c
  | none => if full then s else enterPool s ctx node

/-- NODE_SIGNAL (R328, R329): one atomic event on the counting word. -/
def execNodeSignal (ctx node : Nat) (s : State) : Out :=
  if (ctxOf s ctx).gtsize ≤ node then .next (signalIgnored s ctx node)
  else match virtPa s ctx (nodeVa s ctx node + 40) true with
    | (none, s) => .next (signalIgnored s ctx node)
    | (some pa, s) =>
      match recallRemote s (pa / 128) (wordMask (pa % 128) 8) (.nodeSignal ctx node) with
      | some s => .next s
      | none =>
        let s := unitTouch s pa 8
        let x := BitVec.ofNat 64 (leNat (physRead s pa 8))
        if wordState x ≠ 0 ∨ wordPred x = 0 then .next (afterServe (signalIgnored s ctx node))
        else
          let s := devWrite s pa (leBytes (putBits x 0 16 (wordPred x - 1)).toNat 8)
          .next (afterServe (if wordPred x = 1 then launchNode s ctx node else s))

/-! ## Placement passes (R333, R334) -/

/-- Places clusters of one entry while there is room; answers whether any was placed. The seeds are checked again at each attempt,
whether or not there is room (R334; DESIGN CHOICE, log entry 72). -/
def placeEntry (pass : Nat) : Nat → State → Nat → Nat → Bool → Bool × State
  | 0, s, _, _, any => (any, s)
  | m + 1, s, ctx, node, any =>
    match runOf s ctx node with
    | none => (any, s)
    | some r =>
      if !r.pooled then (any, s)
      else if !seedsOk s ctx r.hdr then (any, refuseNode s ctx node 5)
      else if wholeGrid r then
        match placeWhole pass (r.ncl - r.next) s ctx node with
        | some s => (true, s)
        | none => (any, s)
      else match place s ctx r.hdr r.w r.h r.affinity with
        | some cs => placeEntry pass m (placeCluster s r cs pass) ctx node true
        | none => (any, s)

def poolBefore (a b : NodeRun) : Bool := if a.prio ≠ b.prio then decide (b.prio < a.prio) else decide (a.stamp ≤ b.stamp)

/-- One walk through the pool. `seen` are the partitions whose first entry has been looked at and stays, `shut` those it blocks.
Each node's clusters of the walk have a number of their own, from which their ramp slots count (R451). -/
def walkPool : List NodeRun → List Nat → List Nat → State → State
  | [], _, _, s => s
  | r :: rest, seen, shut, s =>
    if (ctxOf s r.ctx).state != .running || shut.contains r.ctx then walkPool rest seen shut s
    else
      let (pass, s) := newId s
      let (any, s) := placeEntry pass (r.ncl - r.next) s r.ctx r.node false
      let s := if any then schedule s (s.now + 100000 * nsTicks) (.placementBlockTimeout r.ctx r.node) else s
      let shut := if !any && r.blocking && !seen.contains r.ctx then r.ctx :: shut else shut
      let stays := match runOf s r.ctx r.node with | some x => x.pooled | none => false
      walkPool rest (if stays then r.ctx :: seen else seen) shut s

def execPlacementPass (s : State) : Out :=
  let s := walkPool (((runsOf s).filter (·.pooled)).mergeSort poolBefore) [] [] s
  .next (fillPool s.nodes.length s)

/-- PLACEMENT_BLOCK_TIMEOUT: an entry that has placed nothing for 100 µs blocks later ones while it stands first. -/
def execPlacementBlockTimeout (ctx node : Nat) (s : State) : Out :=
  match runOf s ctx node with
  | none => .next s
  | some r =>
    if r.pooled && decide (r.since + 100000 * nsTicks ≤ s.now) then
      .next (modRun s ctx node (fun r => { r with blocking := true }))
    else .next s

/-! ## Admission (R194, R449, R451, R325) -/

/-- The window of the first admission granted among the clusters of a node placed in one placement pass, or under one RUN. -/
def firstGrant (s : State) (pass w : Nat) : Nat :=
  s.teams.foldl (fun a e => match e.2.granted with | some g => if e.2.pass = pass then min a g else a | none => a) w

/-- The grant of an admission: the teams of the cluster run and are counted; each acquires at SYSTEM scope. -/
def grantAdmission (s : State) (lead : Nat) : State :=
  let tm := teamOf s lead
  let ts := admitting s tm.ctx tm.node tm.cluster
  let w := s.now / windowTicks
  let slot := min 255 (w - firstGrant s tm.pass w)
  ts.foldl (fun s e =>
    let s := modTeam s e.1 (fun x => { x with state := .running, counted := true, granted := some w, rampslot := slot })
    let s := acquire s { team := e.1, gid := 0, lane := 0 } scSystem none
    let s := (teamThreads s e.1).foldl (fun s t => modThr s t (fun th => { th with idleSince := thrClock s t })) s
    if s.copies.any (fun c => c.2.team == e.1 && c.2.state == .replay) then schedule s s.now (.copyReplayStart e.1) else s) s

/-! ## EXIT (R165) -/

def execExit (b : Base) (s : State) : Out :=
  perThread { g := b.g } noIll (fun _ t s => .left (exitThread s t)) s

/-- A group's slot and `%gid` are freed; its arrival records go with it (R167, R169, R285). -/
def freeGroup (s : State) (k gid : Nat) : State :=
  { s with
    groups := tdel (grpKey k gid) s.groups
    teams := tmod k (fun tm => { tm with arrs := tm.arrs.filter (fun e => e.1 / 16 != gid) }) s.teams }

/-- THREAD_SLOT_FREE: the blocks of the thread are free again, which the dispatcher looks at (R333); with its last thread's slot a group's slot and `%gid` are freed (R167, R169). -/
def execThreadSlotFree (t : ThrRef) (s : State) : Out :=
  if (thrOf s t).stat != .exited || returnsOut s t || s.asyncs.any (fun e => e.2.thr == t) then .next s
  else
    let s := { s with threads := tdel (thrKey t) s.threads }
    let s :=
      if (grpOf s t.team t.gid).state == .exited && !s.threads.any (fun e => e.1 / 32 == grpKey t.team t.gid) then
        freeGroup s t.team t.gid
      else s
    .next (scheduleOnce s s.now .placementPass)

/-! ## FORK (R192, R245) -/

/-- The lowest free group indices of a team. -/
def freeGids (s : State) (k : Nat) : List Nat := (List.range 32).filter (fun i => (tget s.groups (grpKey k i)).isNone)

/-- CapacityFor (R192): the register capacity of R132, whatever THRESH is. -/
def capacityFor (s : State) (k n : Nat) : Bool :=
  let tm := teamOf s k
  decide (n ≤ (freeGids s k).length ∧ n ≤ freeGroups s tm.core ∧
    blocksUsed s tm.core + 32 * n * blocksOf tm ≤ blockCapacity s tm.core)

/-- The creation of `n` groups that arrive on register `j`. -/
def forkGroups (s : State) (k gid j n : Nat) (entry : Word64) : State :=
  let regs := (grpOf s k gid).s
  let s := ((freeGids s k).take n).foldl (fun s i => startGroup s k i regs (some j) entry) s
  barExpectEngine s k j n

def execFork (b : Base) (e1 : Word32) (s : State) : Out :=
  rendezvous { g := b.g } noIll false 0xFFFFFFFF#32 (fun p gid present s =>
    match present with
    | [] => .done s
    | l :: _ =>
      let tm := teamOf s p.team
      let j := b.md.toNat
      let entry := p.pc + e1.signExtend 64
      if tm.hdr.bars ≤ j || !barTakes (barOf tm j) then .fault [(l, flt fBAR_INVALID)]
      else if entry.toNat % 4 ≠ 0 then .fault [(l, flt fMISALIGN)]
      else
        let n := (sregOf (grpOf s p.team gid) b.sa.toNat).toNat
        let put := fun (s : State) (v : Nat) => modGrp s p.team gid (fun g => setSreg g b.dst.toNat (BitVec.ofNat 64 v))
        if n < 1 || 31 < n || !capacityFor s p.team n then .done (put s 0)
        else releaseLanes p gid scCore none (arrivedLanes s p gid) s (fun s => .done (put (forkGroups s p.team gid j n entry) n))) s

/-! ## SAFEPT (R339) -/

/-- Whether the team's commands have drained (R272, R292): none of the matrix engine is outstanding, and none is held. -/
def drained (s : State) (k : Nat) : Bool :=
  !meOutstanding s k && !s.copies.any (fun e => e.2.team == k && e.2.state == .held)
    && !s.colls.any (fun e => e.2.team == k && e.2.state == .held)

def execSafept (b : Base) (e1 : Word32) (s : State) : Out :=
  perThread { g := b.g } noIll (fun p t s =>
    let tm := teamOf s t.team
    let i := e1.toNat
    if tm.state != .saving || (thrOf s t).mode != .normal then .done s p.next
    else
      let e := tgetD tm.hdr.safepts i { pc := 0, save := 0, rest := 0 }
      if tm.hdr.nsp ≤ i || tm.hdr.addr + BitVec.ofNat 64 e.pc != p.pc then .fault (flt fILLOP)
      else if regsFull (thrOf s t) && drained s t.team then .left (enterSave s t i)
      else .left (makeWait s t .drain)) s

/-! ## NSIG (R341) -/

def execNsig (b : Base) (s : State) : Out :=
  perThread (baseOpnds b (if b.md = 0#4 then 1 else 0) 0 0) noIll (fun p t s =>
    let c := thrCtx s t
    let i := if b.md = 0#4 then (regVal (thrOf s t) b.sa.toNat).toNat else (lo32 (thrSreg s t b.sa.toNat)).toNat
    if (ctxOf s c).gtsize ≤ i then .fault (flt fLAUNCH_REFUSED)
    else
      withGlobal p t s (BitVec.ofNat 64 (nodeVa s c i + 40)) 8 { write := true, kind := 2 } (fun _ s =>
        afterRelease s t scPackage none (fun s => .done (schedule s s.now (.nodeSignal c i)) p.next))) s

end Sys2Proof.Machine
end

