-- ==== Sys2Proof/Machine/Queue.lean ====
section
/-! DEFINITION. The queue (R342 to R359): ring slots, enqueues and assignments at the queue unit, ENQ, DEQ, DEQT and QCTL, the
host's enqueues, the items that the device produces, and the launch queue (R329). -/

namespace Sys2Proof.Machine

/-! ## Ring slots (R343, R359) -/

def queueCap (x : Queue) : Nat := 2 ^ x.c

/-- A ring slot: its physical address; the queue unit, which stands at the queue's home slice, waits for a page move, a recall, a module on
its way, or for another die's home of the line; or the line cannot be translated or written. -/
inductive SlotOut where
  | ok (x : Xl) (s : State)
  | held (s : State)
  | bad

/-- The event by which every queue unit looks again after a move or a recall. -/
def lookAgain : Instr := .deviceItemEnqueue 0

def ringSlot (s : State) (q seq : Nat) (write : Bool) : SlotOut :=
  let x := queueAt s q
  let va := x.base + seq % queueCap x * 64
  match translate s none x.owner va { read := !write, write := write, full := !write } with
  | .fault _ _ => .bad
  | .held _ s => .held s
  | .ok y s =>
    if linkDown s y.pa then .bad
    else if isFar s y.pa then
      (if write || (farRead s (y.pa / 128)).isSome then .ok y s else .held (askFar s none (y.pa / 128)))
    else if !pathActive s (pathOf s (sliceTower x.home) y.pa y.leaf) then .held s
    else match recallRemote s (y.pa / 128) (wordMask (y.pa % 128) 64) lookAgain with
      | some s => .held s
      | none => .ok y s

/-- The item in a slot, with whether a word of it is poisoned, read at the home of its line. -/
def slotItem (s : State) (y : Xl) : Nat × Bool × State :=
  let r := unitNat s y.pa 64
  if isFar s y.pa then
    (r.1, (farRead s (y.pa / 128)).any (fun f => f.bad), dropFarReads r.2 [y.pa / 128])
  else (r.1, poisoned r.2 (y.pa / 128) (wordMask (y.pa % 128) 64), touchHome r.2 y.pa y.leaf false)

/-- An item is written to its slot at the home of the line. -/
def putItem (s : State) (y : Xl) (bs : List Byte) : State :=
  let t := unitWrite s y.pa bs
  if isFar s y.pa then t else touchHome t y.pa y.leaf true

/-- The queue is the launch queue that its owner's SYSQ names (R349). -/
def isLaunch (s : State) (q : Nat) : Bool :=
  let x := queueAt s q
  let c := ctxOf s x.owner
  x.state != .free && sysqEn c 12 && sysqNum c 0 == q

/-! ## Items that wait (R349) -/

def itemsOf (s : State) (q : Nat) : List DevItem := s.items.filter (fun i => i.queue == q)

/-- The items that wait at the queue are looked at again, in order. -/
def stirQueue (s : State) (q : Nat) : State :=
  (itemsOf s q).foldl (fun s i => scheduleOnce s s.now (.deviceItemEnqueue i.id)) s

/-- Whether an item waits behind an earlier one: an item of the device behind those of its context, a host enqueue behind those of
its function (R344, R349). -/
def itemBehind (s : State) (i : DevItem) : Bool :=
  ((itemsOf s i.queue).takeWhile (fun j => j.id != i.id)).any (fun j => j.ctx == i.ctx && (j.kind == .host) == (i.kind == .host))

def dropItem (s : State) (id : Nat) : State := { s with items := s.items.filter (fun i => i.id != id) }

/-- Steps 3 and 4 of R335 for the node of a completion record. -/
def finishRun (s : State) (key : Nat) : State :=
  match tget s.nodes key with
  | some r => nodeFinish s r
  | none => s

/-- What follows an item that is enqueued. -/
def itemEnqueued (s : State) (i : DevItem) : State :=
  match i.kind with
  | .completion key => finishRun s key
  | _ => s

/-- What follows an item whose queue takes none (R349). -/
def itemDropped (s : State) (i : DevItem) : State :=
  match i.kind with
  | .completion key =>
    let node := match tget s.nodes key with | some r => r.node | none => 0
    finishRun (faultLog s i.ctx 9 fQUEUE_FAULT noTeam node) key
  | .record waits code => if waits then faultCtx s i.ctx code.toNat else s
  | .frame pa => faultLog s i.ctx 8 fQUEUE_FAULT noTeam pa
  | .host => s

/-- A host enqueue is discarded (R347). -/
def hostDiscard (s : State) (fn q : Nat) : State :=
  let x := queueAt s q
  let s := if x.owner = fn ∧ x.state ≠ .free then modQueue s q (fun x => { x with drop := x.drop + 1 }) else s
  faultLog s fn 6 fQUEUE_FAULT noTeam q

/-- Every item of the device that waits at a queue ends, when the queue leaves ACTIVE and FROZEN. A host enqueue that has not reached the
unit is looked at in its turn (R246, R347). -/
def endItems (s : State) (q : Nat) : State :=
  stirQueue ((itemsOf s q).foldl (fun s i => if i.kind = .host then s else itemDropped (dropItem s i.id) i) s) q

/-! ## Errors (R359) -/

def queueFlt (q : Nat) : Flt := { code := fQUEUE_FAULT, addr := BitVec.ofNat 64 q }

/-- Waiting consumers raise QUEUE_FAULT at their instructions. -/
def faultWaiters (s : State) (q : Nat) (ts : List ThrRef) : State :=
  ((ts.map (·.team)).eraseDups).foldl (fun s k =>
    let here := ts.filter (fun t => t.team == k
      && (match (thrOf s t).stat with | .waiting (.queue _ _ _) => true | _ => false))
    deliverLater (teamOf s k).core (here.map (fun t => (t, queueFlt q))) s) s

def queueError (s : State) (q : Nat) : State :=
  let x := queueAt s q
  let s := modQueue s q (fun x => { x with state := .error, waiters := [] })
  let s := faultLog s x.owner 3 fQUEUE_FAULT noTeam q
  endItems (faultWaiters s q x.waiters) q

/-! ## The order of enqueues (R344)

Enqueues of one packet reach the queue unit in ascending home lane, and what it holds goes on in the order in which it came. `Queue.turn`
lists the threads whose enqueue or QCTL has begun and has not reached the unit, while they stand at it. -/

def standsAt (s : State) (x : Turn) : Bool :=
  let th := thrOf s x.thr
  th.pc == x.pc && (th.stat == .ready || th.stat == .waiting .release || th.stat == .waiting .event) && (tget s.threads (thrKey x.thr)).isSome

def turnsAt (s : State) (q : Nat) : List Turn := (queueAt s q).turn.filter (standsAt s)

def joinTurn (s : State) (q : Nat) (t : ThrRef) : State :=
  modQueue s q (fun x =>
    let l := x.turn.filter (standsAt s)
    { x with turn := if l.any (fun y => y.thr == t) then l else l ++ [{ thr := t, pc := (thrOf s t).pc, stamp := s.nextId }] })

def leaveTurn (s : State) (q : Nat) (t : ThrRef) : State :=
  if (queueAt s q).turn.isEmpty then s
  else scheduleOnce (modQueue s q (fun x => { x with turn := x.turn.filter (fun y => y.thr != t) })) s.now lookAgain

/-- A host write through BAR4 waits, or has gone out to another device and is not performed: a later enqueue waits behind it
(R246). -/
def bar4Waits (s : State) : Bool :=
  let isWrite := fun (e : Instr) => match e with | .hostBar4Write .. => true | _ => false
  s.waiting.any isWrite || s.timers.any (fun e => e.2.any isWrite) || s.reqs.any (fun e => e.2.bar4.isSome && e.2.kind == .write)

/-- An item that the queue unit holds though its queue has room: it waits for a page move, a recall or a module. -/
def itemHeld (s : State) (i : DevItem) : Bool :=
  let x := queueAt s i.queue
  x.state == .active && decide (x.tail - x.head < queueCap x) && !(i.kind == .host && bar4Waits s)

/-- Whether what came to the queue unit under a stamp stands behind an enqueue of another thread or an item that came before it. -/
def unitBehind (s : State) (q stamp : Nat) (t : Option ThrRef) : Bool :=
  ((turnsAt s q).takeWhile (fun x => some x.thr != t)).any (fun x => decide (x.stamp ≤ stamp))
    || (itemsOf s q).any (fun i => decide (i.id < stamp) && itemHeld s i)

/-- The stamp of a thread's turn: that under which it waits, or one of its own as it comes. -/
def turnStamp (s : State) (q : Nat) (t : ThrRef) : Nat :=
  match (turnsAt s q).find? (fun x => x.thr == t) with
  | some x => x.stamp
  | none => s.nextId

/-! ## Assignment (R355, R356) -/

/-- The regions that an enqueue or dequeue of a thread covers (R350). -/
def queueCover (s : State) (t : ThrRef) (q : Nat) : Option (List (Nat × Nat)) :=
  some (boundTo (teamOf s t.team) objQueue (BitVec.ofNat 64 q))

/-- Length of the queue instructions (R351). -/
def queueLen : Word64 := 12

/-- A return without an item that is held (R133, R135): it is written when the registers have come to rest or the stop ends, and the thread
goes on with it. -/
def statusHeld (s : State) (t : ThrRef) (dst code : Nat) : State :=
  let (id, s) := newId s
  let parts : List Part :=
    [{ thr := some t, off := 0, width := 64, dst := dst, got := some (0, false) },
     { thr := some t, off := 0, width := 8, dst := dst + 16, got := some (code + 0x8000000000000000, false) }]
  let r : Req :=
    { id := id, kind := .uc, core := thrCore s t, ctx := thrCtx s t, line := 0, parts := parts, due := s.now, performed := true }
  holdReturn (waitAcq { s with reqs := tput id r s.reqs } t ((thrOf s t).pc + queueLen) id scCore (some [])) t id

/-- A return without an item (R356). -/
def statusReturn (s : State) (t : ThrRef) (dst code : Nat) : State :=
  if returnHeld s t then statusHeld s t dst code
  else
    let regs := List.replicate 16 0#32 ++ [BitVec.ofNat 32 code, 0x80000000#32]
    let s := modThr s t (fun th => putRegs th dst regs)
    advance s t ((thrOf s t).pc + queueLen)

/-- The item at HEAD leaves for a thread: its registers become empty, and its return follows, with the acquire of R350. -/
def assignItem (s : State) (q : Nat) (t : ThrRef) (dst : Nat) (y : Xl) : State :=
  let x := queueAt s q
  let (item, bad, s) := slotItem s y
  let s := modQueue s q (fun x => { x with head := x.head + 1 })
  let (id, s) := newId s
  let (d, s) := contend s
  let core := thrCore s t
  let due := s.now + sliceNs s (coreTower core) x.home 0 * nsTicks + d
  let parts : List Part :=
    [{ thr := some t, off := y.pa % 128, width := 64, dst := dst, got := some (item, bad) },
     { thr := some t, off := y.pa % 128, width := 8, dst := dst + 16, got := some (x.head % 2 ^ 64, false) }]
  let r : Req :=
    { id := id, kind := .uc, core := core, ctx := thrCtx s t, line := y.pa / 128, vls := [(x.owner, (x.base + x.head % queueCap x * 64) / 128)], parts := parts,
      due := due, performed := true, leaf := y.leaf }
  let s := { s with reqs := tput id r s.reqs }
  let s := modThr s t (fun th => dropRegs th ((List.range 18).map (fun i => dst + i)))
  let s := waitAcq s t ((thrOf s t).pc + queueLen) id scSystem (queueCover s t q)
  schedule s due (.loadReturn id)

def waitDst (s : State) (t : ThrRef) : Nat :=
  match (thrOf s t).stat with
  | .waiting (.queue _ _ d) => d
  | _ => 0

/-- Serves waiting consumers in the order of their registration (R355). A draining queue that is empty answers code 2. -/
def serveWaiters : Nat → State → Nat → State
  | 0, s, _ => s
  | n + 1, s, q =>
    let x := queueAt s q
    match x.waiters with
    | [] => s
    | t :: ws =>
      if x.state = .draining && x.tail ≤ x.head then
        serveWaiters n (statusReturn (modQueue s q (fun x => { x with waiters := ws })) t (waitDst s t) 2) q
      else if (x.state = .active || x.state = .draining) && decide (x.head < x.tail) then
        match ringSlot s q x.head false with
        | .held s => s
        | .bad => queueError s q
        | .ok y s => serveWaiters n (assignItem (modQueue s q (fun x => { x with waiters := ws })) q t (waitDst s t) y) q
      else s

/-- After a change at a queue: consumers are served, items that wait look again, and the device takes from a launch queue. -/
def serveQueue (s : State) (q : Nat) : State :=
  let s := serveWaiters (queueAt s q).waiters.length s q
  let s := stirQueue s q
  if isLaunch s q && decide ((queueAt s q).head < (queueAt s q).tail) then
    schedule s s.now (.launchQueueItem (queueAt s q).owner)
  else s

/-! ## Enqueues (R345, R354) -/

/-- What an enqueue event answers. -/
inductive EnqOut where
  | ok (s : State)
  | full
  | held (s : State)
  | error (s : State)

def enqueue (s : State) (q : Nat) (bs : List Byte) : EnqOut :=
  let x := queueAt s q
  if x.state = .active && decide (x.tail - x.head < queueCap x) then
    match ringSlot s q x.tail true with
    | .held s => .held s
    | .bad => .error (queueError s q)
    | .ok y s =>
      let s := putItem s y bs
      .ok (serveQueue (modQueue s q (fun x => { x with tail := x.tail + 1 })) q)
  else .full

/-! ## ENQ, DEQ and DEQT (R351 to R356) -/

/-- The queue that E1 names. -/
def queueNo (s : State) (t : ThrRef) (w : QueueWord) : Nat :=
  if w.qs then (thrSreg s t w.qr.toNat).toNat % 4096 else w.qn.toNat

/-- The checks of R353. -/
def queueCheck (s : State) (t : ThrRef) (q : Nat) (deq : Bool) : Bool :=
  let x := queueAt s q
  (!isUser (teamOf s t.team) || x.owner == (teamOf s t.team).ctx) && x.state != .free && x.state != .error
    && !(deq && isLaunch s q) && !(!deq && x.state == .draining)

/-- Registers past the kernel's count (R127, R352). -/
def queueRegs (n k : Nat) (tm : Team) : Bool := decide (tm.hdr.regs < n + k)

/-- A thread waits for those before it, and looks again when they go and every nanosecond. -/
def waitTurn (s : State) (q : Nat) (t : ThrRef) : State :=
  scheduleOnce (makeWait (joinTurn s q t) t .event) (s.now + nsTicks) lookAgain

def enqThread (try' : Bool) (b : Base) (w : QueueWord) (p : Packet) (t : ThrRef) (s : State) : ThrOut :=
  let q := queueNo s t w
  if !queueCheck s t q false then .failed (leaveTurn s q t) (queueFlt q)
  else
    let item := leBytes (regsNat (thrOf s t) b.sa.toNat 16) 64
    let ok := fun (s : State) (v : Bool) =>
      if try' then
        let d := b.dst.toNat % 32
        modThr s t (fun th => putReg th d (putField (regVal th d) (b.dst.toNat / 32) 1 (BitVec.ofNat 32 (b2n v))))
      else s
    match release s t scPackage (queueCover s t q) with
    | .fault => .failed (leaveTurn s q t) { code := fLINK_DOWN, lost := true }
    | .wait s => .left (makeWait (joinTurn s q t) t .release)
    | .done s =>
      if unitBehind s q (turnStamp s q t) (some t) then .left (waitTurn s q t)
      else match enqueue s q item with
        | .ok s => .done (ok (leaveTurn s q t) true) p.next
        | .held s => .left (waitTurn s q t)
        | .error s => .failed (leaveTurn s q t) (queueFlt q)
        | .full => if try' then .done (ok (leaveTurn s q t) false) p.next else .failed (leaveTurn s q t) (queueFlt q)

def enqOpnds (try' : Bool) (b : Base) : Opnds where
  g := b.g
  srcs := (List.range 16).map (fun i => (b.sa.toNat + i, b.ta))
  dsts := if try' && b.dst.toNat % 32 ≠ 0 then [b.dst.toNat % 32] else []

def execEnq (b : Base) (w : QueueWord) (s : State) : Out :=
  perThread (enqOpnds false b) (queueRegs b.sa.toNat 16) (enqThread false b w) s

def execEnqTry (b : Base) (w : QueueWord) (s : State) : Out :=
  perThread (enqOpnds true b) (queueRegs b.sa.toNat 16) (enqThread true b w) s

/-- The consumer's event (R355): an item at once, a status, or registration. -/
def deqThread (b : Base) (w : QueueWord) (timeout : Option Nat) (t : ThrRef) (s : State) : ThrOut :=
  let q := queueNo s t w
  let dst := b.dst.toNat
  if waitBarred s t then .fault (flt fILLOP)
  else if !queueCheck s t q true then .fault (queueFlt q)
  else
    let x := queueAt s q
    let deadline := timeout.map (fun n => s.now + n * nsTicks)
    let register := fun (s : State) =>
      let s := modQueue (makeWait s t (.queue q deadline dst)) q (fun x => { x with waiters := x.waiters ++ [t] })
      match deadline with
      | some d => schedule s d (.deqtTimeout t)
      | none => s
    let none' := fun (s : State) =>
      if x.state = .draining && x.tail ≤ x.head then statusReturn s t dst 2
      else if timeout.isSome && (teamOf s t.team).state == .saving then statusReturn s t dst 3
      else if timeout = some 0 then statusReturn s t dst 1
      else register s
    if x.waiters.isEmpty && (x.state == .active || x.state == .draining) && decide (x.head < x.tail) then
      match ringSlot s q x.head false with
      | .ok y s => .left (serveQueue (assignItem s q t dst y) q)
      | .held s => .left (register s)
      | .bad => .failed (queueError s q) (queueFlt q)
    else .left (none' s)

def deqDsts (b : Base) : List Nat := (List.range 18).map (fun i => b.dst.toNat + i)

def execDeq (b : Base) (w : QueueWord) (s : State) : Out :=
  perThread { g := b.g, dsts := deqDsts b } (queueRegs b.dst.toNat 18) (fun _ t s => deqThread b w none t s) s

def execDeqt (b : Base) (w : QueueWord) (s : State) : Out :=
  let o : Opnds := { g := b.g, srcs := if b.md = 0#4 then [(b.sb.toNat, b.tb)] else [], dsts := deqDsts b }
  perThread o (queueRegs b.dst.toNat 18) (fun _ t s =>
    let n := if b.md = 0#4 then (regVal (thrOf s t) b.sb.toNat).toNat else (lo32 (thrSreg s t b.sb.toNat)).toNat
    deqThread b w (some n) t s) s

/-- A registration is withdrawn, and the thread returns with a code. -/
def withdraw (s : State) (t : ThrRef) (q dst code : Nat) : State :=
  statusReturn (modQueue s q (fun x => { x with waiters := x.waiters.filter (· != t) })) t dst code

/-- DEQT_TIMEOUT: the deadline passes without an assignment; in a ratio stop it is taken when the stop ends (R19). -/
def execDeqtTimeout (t : ThrRef) (s : State) : Out :=
  match (thrOf s t).stat with
  | .waiting (.queue q (some d) dst) =>
    if s.now < d then .next s
    else match (quadOf s (coreQuad (thrCore s t))).stopUntil with
      | some u => .next (schedule s (max u (s.now + 1)) (.deqtTimeout t))
      | none => .next (withdraw s t q dst 1)
  | _ => .next s

/-! ## QCTL (R345, R346, R357, R358) -/

def queueCode (x : QState) : Nat :=
  match x with
  | .free => 0
  | .active => 1
  | .frozen => 2
  | .draining => 3
  | .error => 4

/-- The values of R346. -/
def queueValue (x : Queue) (sel : Nat) : Word64 :=
  match sel with
  | 0 => BitVec.ofNat 64 (min x.waiters.length (2 ^ 18 - 1) * 2 ^ 46 + (x.tail - x.head) * 2 ^ 25 + x.home * 2 ^ 14
      + x.owner * 2 ^ 8 + x.c * 2 ^ 3 + queueCode x.state)
  | 1 => BitVec.ofNat 64 x.head
  | 2 => BitVec.ofNat 64 x.tail
  | _ => x.drop

/-- The lowest home lane that takes part, which gives a form its operands (R358). -/
def leadOf (o : Opnds) (s : State) : Option ThrRef :=
  match s.cur with
  | some p => p.refs.find? (takesPart o s)
  | none => none

def execQctlQuery (b : Base) (w : QueueWord) (s : State) : Out :=
  let o := baseOpnds b 0 0 2
  let v := match leadOf o s with
    | some t => queueValue (queueAt s (queueNo s t w)) w.sel.toNat
    | none => 0#64
  oncePerPacket o noIll (fun _ t s =>
    let q := queueNo s t w
    if isUser (teamOf s t.team) && ((queueAt s q).state == .free || (queueAt s q).owner != (teamOf s t.team).ctx) then
      .fault (queueFlt q)
    else .done s) (fun t s => modThr s t (fun th => putPair th b.dst.toNat v)) s

/-- A form that changes a queue in one of the states named, behind what came to the queue unit before it (R344). -/
def qctl (b : Base) (w : QueueWord) (states : List QState) (act : ThrRef → Nat → State → OnceOut) (s : State) : Out :=
  oncePerPacket { g := b.g, priv := true } noIll (fun _ t s =>
    let q := queueNo s t w
    if unitBehind s q (turnStamp s q t) (some t) then
      .wait (scheduleOnce (joinTurn s q t) (s.now + nsTicks) lookAgain) .event
    else if states.contains (queueAt s q).state then act t q (leaveTurn s q t) else .fault (queueFlt q)) (fun _ s => s) s

/-- The first bytes of the pages of a ring. -/
def ringPages (base c : Nat) : List Nat :=
  (List.range ((base + 2 ^ c * 64 - 1) / 65536 - base / 65536 + 1)).map (fun i => (base / 65536 + i) * 65536)

/-- Whether every ring page of the owner translates as R358 asks. -/
def ringPagesOk (s : State) (ctx base c : Nat) : Bool :=
  decide (base + 2 ^ c * 64 ≤ 2 ^ 56) && (ringPages base c).all (fun va =>
    match walk s ctx va with
    | .leaf e _ _ => leafR e && leafW e && !leafCow e && decide (leafTier e ≤ 1)
    | .absent _ _ => false)

def pointersOk (head tail c : Nat) : Bool := decide (head ≤ tail ∧ tail - head ≤ 2 ^ c)

/-- The home slice of a ring: that of its first line (R342). -/
def ringHome (s : State) (ctx base : Nat) : Nat :=
  match walk s ctx base with
  | .leaf e level _ => homeSlice s (leafPa e level base) e
  | .absent _ _ => 0

def execQctlCreate (b : Base) (w : QueueWord) (s : State) : Out :=
  qctl b w [.free] (fun t q s =>
    let r := fun (i : Nat) => thrSreg s t (b.sb.toNat + i)
    let base := (r 0).toNat
    let c := bits (r 1) 0 5
    let owner := bits (r 1) 8 6
    let head := (r 2).toNat
    let tail := (r 3).toNat
    let s := if c ≤ 20 then (ringPages base c).foldl (fun s va => walkTouch s owner va 4) s else s
    if c < 6 || 20 < c || base % 4096 ≠ 0 || !pointersOk head tail c || !ringPagesOk s owner base c then .fault (queueFlt q)
    else
      let x : Queue :=
        { state := .active, owner := owner, c := c, home := ringHome s owner base, base := base, head := head, tail := tail }
      .done (serveQueue (modQueue s q (fun _ => x)) q)) s

def execQctlFreeze (b : Base) (w : QueueWord) (s : State) : Out :=
  qctl b w [.active] (fun _ q s => .done (modQueue s q (fun x => { x with state := .frozen }))) s

def execQctlThaw (b : Base) (w : QueueWord) (s : State) : Out :=
  qctl b w [.frozen] (fun _ q s => .done (serveQueue (modQueue s q (fun x => { x with state := .active })) q)) s

def execQctlDrain (b : Base) (w : QueueWord) (s : State) : Out :=
  qctl b w [.active, .frozen] (fun _ q s =>
    .done (serveQueue (endItems (modQueue s q (fun x => { x with state := .draining })) q) q)) s

/-- The queue becomes FREE: items are dropped, waiters raise QUEUE_FAULT, DROP is cleared. -/
def destroyQueue (s : State) (q : Nat) : State :=
  let ws := (queueAt s q).waiters
  let s := endItems s q
  faultWaiters (modQueue s q (fun _ => {})) q ws

def execQctlDestroy (b : Base) (w : QueueWord) (s : State) : Out :=
  qctl b w [.active, .frozen, .draining, .error] (fun _ q s => .done (destroyQueue s q)) s

def execQctlSetptr (b : Base) (w : QueueWord) (s : State) : Out :=
  qctl b w [.frozen] (fun t q s =>
    let head := (thrSreg s t (b.sb.toNat + 2)).toNat
    let tail := (thrSreg s t (b.sb.toNat + 3)).toNat
    if !pointersOk head tail (queueAt s q).c then .fault (queueFlt q)
    else .done (modQueue s q (fun x => { x with head := head, tail := tail }))) s

/-! ## The host (R246, R347) -/

/-- Whether accesses of the host reach the BARs of a function: the data link is up, boot has come to its last step
(R464), and the function is in D0 (R442). -/
def hostReaches (s : State) (fn : Nat) : Bool := s.pcieUp && !s.kiln.stopped && decide (fn < 64) && !s.d3hot.contains fn

/-- A host enqueue reaches the queue unit, or waits there as an item. One of another size or offset comes without bytes, and is
discarded in its turn (R246, R347). -/
def hostPut (s : State) (fn q : Nat) (bs : List Byte) (wait : State → State) : State :=
  let x := queueAt s q
  if bar4Waits s then wait s
  else if bs.length ≠ 64 ∨ x.owner ≠ fn ∨ x.state ≠ .active then hostDiscard s fn q
  else match enqueue s q bs with
    | .ok s => s
    | .full => hostDiscard s fn q
    | .held s => wait s
    | .error s => s

/-- HOST_ENQUEUE: a write of function `fn` at an offset of its BAR2. -/
def execHostEnqueue (fn off : Nat) (bytes : List Byte) (s : State) : Out :=
  let q := off / 4096
  if !hostReaches s fn || 4096 ≤ q then .next s
  else
    let bytes := if off % 4096 ≠ 0 || bytes.length ≠ 64 then [] else bytes
    let wait := fun (s : State) =>
      let (id, s) := newId s
      { s with items := s.items ++ [{ id := id, ctx := fn, queue := q, kind := .host, bytes := bytes }] }
    if (itemsOf s q).any (fun i => i.kind == .host && i.ctx == fn) || unitBehind s q s.nextId none then .next (wait s) else .next (hostPut s fn q bytes wait)

/-! ## Items of the device (R349) -/

/-- One item at its queue: enqueued, waiting, or ended. -/
def tryItem (s : State) (i : DevItem) : State :=
  let x := queueAt s i.queue
  if i.kind = .host then
    if itemBehind s i || bar4Waits s || unitBehind s i.queue i.id none then s
    else
      let s' := dropItem s i.id
      stirQueue (hostPut s' i.ctx i.queue i.bytes (fun x => { x with items := i :: x.items })) i.queue
  else if (x.state = .active || x.state = .frozen) && x.owner == i.ctx then
    if itemBehind s i || unitBehind s i.queue i.id none then s
    else match enqueue s i.queue i.bytes with
    | .ok s => stirQueue (itemEnqueued (dropItem s i.id) i) i.queue
    | .full => s
    | .held s => s
    | .error s => s
  else stirQueue (itemDropped (dropItem s i.id) i) i.queue

/-- DEVICE_ITEM_ENQUEUE: the item looks at its queue, behind those that came before it. With an id that names no item, every
queue unit looks again. -/
def execDeviceItemEnqueue (id : Nat) (s : State) : Out :=
  match s.items.find? (fun i => i.id == id) with
  | some i => .next (afterServe (tryItem s i))
  | none =>
    if id ≠ 0 then .next s
    else
      let s := s.queues.foldl (fun s e => serveQueue s e.1) s
      .next (afterServe (wakeWhere s (fun w => w == .event)))

/-! ## The launch queue (R329) -/

/-- LAUNCH_QUEUE_ITEM: the device takes the oldest item and signals the node it names. -/
def execLaunchQueueItem (ctx : Nat) (s : State) : Out :=
  let c := ctxOf s ctx
  let q := sysqNum c 0
  let x := queueAt s q
  if c.state = .free || c.state = .building || !sysqEn c 12 || x.owner != ctx || !(x.state == .active || x.state == .draining)
      || decide (x.tail ≤ x.head) then .next s
  else match ringSlot s q x.head false with
    | .held s => .next s
    | .bad => .next (queueError s q)
    | .ok y s =>
      let (item, _, s) := slotItem s y
      let s := modQueue s q (fun x => { x with head := x.head + 1 })
      .next (serveQueue (schedule s s.now (.nodeSignal ctx (item % 2 ^ 32))) q)

end Sys2Proof.Machine
end

