-- ==== Sys2Proof/Machine/Saved.lean ====
section
/-! DEFINITION. The team slots of the context area (R368): what a save writes there (R377), and how RUN and ADOPT take a team up
from there (R316, R378, R379). -/

namespace Sys2Proof.Machine

/-! ## The image of a slot (R368) -/

/-- Codes of guard slots and of group states in a slot (log entry 15). -/
def slotCode (x : SlotState) : Nat :=
  match x with
  | .isTrue => 0
  | .isFalse => 1
  | .isOpen => 2

def slotOfCode (n : Nat) : SlotState := if n = 1 then .isFalse else if n = 2 then .isOpen else .isTrue

def groupCode (x : GroupState) : Nat :=
  match x with
  | .active => 1
  | .held => 2
  | .exited => 3

/-- The resume word of a thread: index, saved at a safe point, exited, LINKLOST. -/
def resumeWord (th : Thread) : Nat :=
  if th.stat = .exited then 2 ^ 9
  else th.resume.toNat + b2n th.savedAtSp * 2 ^ 8 + b2n th.linklost * 2 ^ 10

def resumeArea (s : State) (k : Nat) (zero : Bool) : List Byte :=
  (List.range 32).flatMap (fun g => groupLanes.flatMap (fun l =>
    let t : ThrRef := { team := k, gid := g, lane := l }
    leBytes (if zero || (tget s.groups (grpKey k g)).isNone then 0 else resumeWord (thrOf s t)) 2))

def barArea (tm : Team) : List Byte :=
  (List.range 16).flatMap (fun b => leBytes (barImage (barOf tm b)).toNat 8)
    ++ ((List.range 7).map (fun i => BitVec.ofNat 8 (slotCode (tgetD tm.gslots (i + 1) .isTrue)))) ++ List.replicate 121 0#8
    ++ (List.range 16).flatMap (fun b => leBytes (heldWord (barOf tm b)) 8) ++ List.replicate 128 0#8

def bindArea (tm : Team) : List Byte :=
  (List.range 16).flatMap (fun i =>
    match tget tm.binds i with
    | some b => leBytes b.base 8 ++ leBytes b.len 8 ++ leBytes b.kind.toNat 8 ++ leBytes b.obj.toNat 8
    | none => List.replicate 32 0#8)

def arrWord (a : Arrival) : Nat :=
  a.mask.toNat + (match a.last with | some p => p.toNat * 2 ^ 32 + 2 ^ 48 | none => 0)

def arrArea (tm : Team) : List Byte :=
  (List.range 32).flatMap (fun g => (List.range 16).flatMap (fun b => leBytes (arrWord (arrOf tm g b)) 8))

/-- The team record: version, kernel header, node, `%team`, cluster shape and index, then the groups. -/
def teamArea (s : State) (k : Nat) : List Byte :=
  let tm := teamOf s k
  leBytes 1 8 ++ leBytes tm.hdr.addr.toNat 8 ++ leBytes tm.node 4 ++ leBytes tm.index 4
    ++ leBytes (tm.w + tm.h * 2 ^ 8 + (tm.cly * tm.w + tm.clx) * 2 ^ 16) 4 ++ leBytes tm.cluster 4 ++ List.replicate 32 0#8
    ++ (List.range 32).flatMap (fun g =>
      match tget s.groups (grpKey k g) with
      | some x => leBytes (groupCode x.state + g * 2 ^ 8 + (match x.join with | some j => j + 1 | none => 0) * 2 ^ 16) 4
          ++ leBytes x.live.toNat 4 ++ leBytes x.exm.toNat 4 ++ leBytes 0 4
      | none => List.replicate 16 0#8)
    ++ List.replicate 448 0#8

/-- Writes the slot of a team; its journal stands there already. -/
def writeSlot (s : State) (k : Nat) (zero : Bool) : State :=
  let tm := teamOf s k
  if (ctxOf s tm.ctx).slots = 0 then s
  else
    let a := slotAt s tm.ctx tm.slot
    let put := fun (s : State) (o : Nat) (bs : List Byte) => unitWrite s (a + o) bs
    let s1 := put s 0x1000 ((List.range 32).flatMap (fun i => leBytes (tgetD tm.recs i 0#256).toNat 32))
    let s1 := put s1 0x1400 (resumeArea s k zero)
    let s1 := put s1 0x1C00 (barArea tm)
    let s1 := put s1 0x1E00 (bindArea tm)
    let s1 := put s1 0x2000 (arrArea tm)
    put (put s1 0x3000 (teamArea s k)) 0x3400 (List.replicate 0xC00 0#8)

/-! ## Saving a team (R377) -/

/-- What a request to the Damper concerns. -/
def requestOf (s : State) (k : Nat) (r : DamperReq) : Bool :=
  match r.what with
  | .admission l => l == k || (teamOf s l).ctx == (teamOf s k).ctx && (teamOf s l).node == (teamOf s k).node
      && (teamOf s l).cluster == (teamOf s k).cluster
  | .bar t _ => t == k
  | .wake ts => ts.any (fun t => t.team == k)
  | .gridStep _ _ t => t == k

/-- Whether a team in SAVING is to be SAVED: its live threads are saved, its matrix engine commands and held commands have
drained (R272, R292), started CPYRs have read its buffers (R316), and its exited forked groups have arrived. -/
def saveReady (s : State) (k : Nat) : Bool :=
  (teamOf s k).state == .saving
    && (teamThreads s k).all (fun t => (thrOf s t).stat == .saved || (thrOf s t).stat == .exited)
    && (teamThreads s k).any (fun t => (thrOf s t).stat == .saved)
    && drained s k && !readsBuffers s k
    && !s.joins.any (fun x => x.team == k)

/-- Removes the threads and groups of a team, with the watchers of their monitors. -/
def clearTeam (s : State) (k : Nat) : State :=
  let s := (teamThreads s k).foldl dropWatcher s
  { s with
    threads := s.threads.filter (fun e => e.1 / 1024 != k)
    groups := s.groups.filter (fun e => e.1 / 32 != k)
    acqs := s.acqs.filter (fun a => a.thr.team != k) }

/-- The team becomes SAVED: copies are discarded for replay, the slot is written, and the resources of its core are freed. A
team in ADMITTING has every resume word 0. -/
def saveTeam (s : State) (k : Nat) : State :=
  let tm := teamOf s k
  let s := if tm.state = .admitting then s else discardCopies s k
  let s := { s with damper := { s.damper with reqs := s.damper.reqs.filter (fun r => !requestOf s k r) } }
  let s := writeSlot s k (tm.state == .admitting)
  let s := clearTeam s k
  let s := { s with copies := s.copies.filter (fun e => !(e.2.team == k && e.2.state == .replay)) }
  let s := modTeam s k (fun tm =>
    { tm with
      state := .saved, counted := false, granted := none, stepDone := false, restored := false
      abuf := [], wbuf := [], cbuf := [], crows := [], apoison := [], wpoison := [], cpoison := []
      arrs := [], gslots := [], recs := [], binds := [], cslots := [] })
  schedule s s.now .placementPass

/-! ## Reading a slot -/

/-- The device is about to read a slot: a UC access at its homes, for which the spans on it are recalled (R213, R368). -/
def touchSlot (s : State) (ctx slot : Nat) : State := unitTouch s (slotAt s ctx slot) 0x4000

def slotRead (s : State) (ctx slot off n : Nat) : List Byte := physRead s (slotAt s ctx slot + off) n
def slotNat (s : State) (ctx slot off n : Nat) : Nat := leNat (slotRead s ctx slot off n)

def journalFrom (e : Nat) : Journal where
  srca := BitVec.ofNat 64 (fld e 0 64)
  dsta := BitVec.ofNat 64 (fld e 64 64)
  shape := BitVec.ofNat 64 (fld e 128 64)
  pitch := BitVec.ofNat 64 (fld e 192 64)
  ctl := BitVec.ofNat 32 (fld e 256 32)
  xctl := BitVec.ofNat 32 (fld e 288 32)
  opc := fld e 320 9
  gid := fld e 329 5
  st := BitVec.ofNat 3 (fld e 336 3)
  prog := fld e 384 40
  seq := BitVec.ofNat 64 (fld e 448 64)

def journalOf (s : State) (ctx slot : Nat) : Tab Journal :=
  (List.range 64).filterMap (fun i =>
    let e := slotNat s ctx slot (64 * i) 64
    if e = 0 then none else some (i, journalFrom e))

/-- Entries of a state in the order of their sequence numbers. -/
def entriesIn (j : Tab Journal) (st : Nat) : List (Nat × Journal) :=
  (j.filter (fun e => e.2.st.toNat == st)).mergeSort (fun a b => decide (a.2.seq.toNat ≤ b.2.seq.toNat))

/-- Unfinished assemblies: the entries of each copy slot that are in PART. -/
def assembliesOf (j : Tab Journal) : Tab CopySlot :=
  (entriesIn j jPart).foldl (fun t e =>
    let n := e.2.ctl.toNat % 8
    let old := tgetD t n { op := e.2.opc, e1 := e.2.ctl, e2 := e.2.xctl, gids := [], entries := [] }
    tput n { old with gids := old.gids ++ [e.2.gid], entries := old.entries ++ [e.1] } t) []

def partOfEntry (e : Nat × Journal) : CopyPart :=
  { entry := e.1, src := e.2.srca, dst := e.2.dsta, rows := bits e.2.shape 32 32, rb := bits e.2.shape 0 32
    dp := bits e.2.pitch 32 32, sp := bits e.2.pitch 0 32 }

/-- The commands to replay: the parts of one command stand together, because a slot assembles one command at a time. -/
def commandsOf : Nat → List (Nat × Journal) → List (Nat × CopyCtl × List CopyPart)
  | 0, _ => []
  | _, [] => []
  | n + 1, e :: r =>
    match copyOf e.2.ctl e.2.xctl with
    | none => commandsOf n r
    | some c =>
      let same := (e :: r).filter (fun x => x.2.opc == e.2.opc && x.2.ctl == e.2.ctl && x.2.xctl == e.2.xctl)
      let mine := same.take (c.np.toNat + 1)
      (e.2.opc, c, mine.map partOfEntry) :: commandsOf n (r.filter (fun x => !mine.any (fun y => y.1 == x.1)))

def addReplays (s : State) (k core : Nat) : List (Nat × CopyCtl × List CopyPart) → State
  | [] => s
  | (op, c, ps) :: r =>
    let (id, s) := newId s
    let x : CopyCmd := { id := id, team := k, op := op, ctl := c, core := core, parts := ps, state := .replay }
    addReplays { s with copies := tput id x s.copies } k core r

/-- Collectives that a migration withdrew are posted again with the same sequence number (R316). -/
def addColls (s : State) (k core : Nat) : List (Nat × Journal) → State
  | [] => s
  | e :: r =>
    match Sys2Proof.collOf e.2.ctl e.2.xctl with
    | none => addColls s k core r
    | some c =>
      let (id, s) := newId s
      let x : Coll :=
        { id := id, team := k, gid := e.2.gid, entry := e.1, ctl := c, send := e.2.srca, recv := e.2.dsta
          count := bits e.2.shape 0 32, seq := bits e.2.pitch 0 32, core := core, state := .held, postedAt := s.now }
      addColls (postColl (setEntries { s with colls := tput id x s.colls } k [e.1] jRunning) id) k core r

/-! ## Restoring a team (R316, R378, R379) -/

/-- The groups that the team record of a slot lists: index, held, join register, `%live`, `%exm`. -/
def slotGroups (s : State) (ctx slot : Nat) : List (Nat × Bool × Option Nat × LaneMask × LaneMask) :=
  (List.range 32).filterMap (fun g =>
    let e := slotNat s ctx slot (0x3040 + 16 * g) 16
    let st := fld e 0 8
    if st = 1 ∨ st = 2 then
      some (g, st == 2, (if fld e 16 8 = 0 then none else some (fld e 16 8 - 1)), BitVec.ofNat 32 (fld e 32 32),
        BitVec.ofNat 32 (fld e 64 32))
    else none)

/-- A thread of a restored team, by its resume word (R378). -/
def restoreThread (s : State) (t : ThrRef) (word : Nat) : State :=
  let h := (teamOf s t.team).hdr
  let saved := fld word 8 1 == 1
  let e := tgetD h.safepts (word % 256) { pc := 0, save := 0, rest := 0 }
  let pc := h.addr + BitVec.ofNat 64 (if saved then e.rest else h.entry)
  modThr (startThread s t pc) t (fun th =>
    { th with
      mode := if saved then .rest else .normal, resume := BitVec.ofNat 8 word, savedAtSp := saved
      linklost := fld word 10 1 == 1 })

/-- A group of a restored team: its threads that are live and had not exited. -/
def restoreGroup (s : State) (k : Nat) (regs : Tab Word64) (g : Nat × Bool × Option Nat × LaneMask × LaneMask) : State :=
  let tm := teamOf s k
  let (gid, held, join, live, exm) := g
  let word := fun (l : Nat) => slotNat s tm.ctx tm.slot (0x1400 + 2 * (gid * 32 + l)) 2
  let lanes := (lanesOf live).filter (fun l => fld (word l) 9 1 == 0)
  let x : Group :=
    { state := if held then .held else .active, s := regs, exm := exm
      live := lanes.foldl (fun m l => m ||| (1#32 <<< l)) 0#32, slot := groupSlot s tm.core, join := join }
  lanes.foldl (fun s l => restoreThread s { team := k, gid := gid, lane := l } (word l)) (setGrp s k gid x)

/-- A release that the team had pending at its save is submitted again (R290). -/
def resubmit (s : State) (k b : Nat) : State :=
  if (barOf (teamOf s k) b).rp then
    let load := if quietTeam s k then (teamOf s k).hdr.load else 0
    if load = 0 then barChanged (grantBar s k b) k b else putRequest s (.bar k b) k load (teamOf s k).core true
  else s

def takeSlotState (s : State) (k : Nat) : State :=
  let tm := teamOf s k
  let a := fun (o n : Nat) => slotNat s tm.ctx tm.slot o n
  let bars : Tab Bar := (List.range 16).filterMap (fun b =>
    let x := barSaved (a (0x1C00 + 8 * b) 8) (a (0x1D00 + 8 * b) 8)
    if x = {} then none else some (b, x))
  let gs : Tab SlotState := (List.range 7).filterMap (fun i =>
    let x := slotOfCode (a (0x1C80 + i) 1)
    if x = .isTrue then none else some (i + 1, x))
  let recs : Tab (BitVec 256) := (List.range 32).filterMap (fun i =>
    let x := BitVec.ofNat 256 (a (0x1000 + 32 * i) 32)
    if x = 0#256 then none else some (i, x))
  let binds : Tab Binding := (List.range 16).filterMap (fun i =>
    let e := a (0x1E00 + 32 * i) 32
    if fld e 64 64 = 0 then none
    else some (i, { base := fld e 0 64, len := fld e 64 64, kind := BitVec.ofNat 3 (fld e 128 3), obj := BitVec.ofNat 64 (fld e 192 64) }))
  let arrs : Tab Arrival := (List.range 512).filterMap (fun i =>
    let e := a (0x2000 + 8 * i) 8
    if e = 0 then none
    else some (arrKey (i / 16) (i % 16),
      { mask := BitVec.ofNat 32 (fld e 0 32), last := if fld e 48 1 = 1 then some (BitVec.ofNat 16 (fld e 32 16)) else none }))
  let j := journalOf s tm.ctx tm.slot
  let jseq := j.foldl (fun m e => max m (e.2.seq.toNat + 1)) tm.jseq.toNat
  modTeam s k (fun tm =>
    { tm with bars := bars, gslots := gs, recs := recs, binds := binds, arrs := arrs, journal := j
              jseq := BitVec.ofNat 64 jseq, cslots := assembliesOf j })

/-- A saved team is placed on a core and waits for its ramp slot. -/
def restoreTeam (s : State) (k core pass : Nat) : State :=
  let tm := teamOf s k
  let s := modTeam s k (fun tm =>
    { tm with state := .admitting, core := core, placed := s.now, pass := pass, restored := true, granted := none
              prio := match runOf s tm.ctx tm.node with | some r => r.prio | none => tm.prio })
  let s := takeSlotState (takeCode s k) k
  let s := { s with
    copies := tmap (fun c => if c.team == k then { c with core := core } else c) s.copies
    colls := tmap (fun c => if c.team == k then { c with core := core } else c) s.colls }
  let regs := match runOf s tm.ctx tm.node with | some r => startSregs r tm.index | none => []
  let s := (slotGroups s tm.ctx tm.slot).foldl (fun s g => restoreGroup s k regs g) s
  let replay := entriesIn (teamOf s k).journal jReplay
  let s := addReplays s k core (commandsOf 64 (replay.filter (fun e => e.2.opc != opCOLL)))
  let s := addColls s k core (replay.filter (fun e => e.2.opc == opCOLL))
  (List.range 16).foldl (fun s b => resubmit s k b) s

/-- A member of a cluster that had exited before its fellows were saved stands in the new rectangle, with an A-buffer of zeros
(DESIGN CHOICE, log entry 73). -/
def moveExited (s : State) (k core : Nat) : State := modTeam s k (fun tm => { tm with core := core, abuf := [], apoison := [] })

/-- The teams of a saved cluster on a rectangle of its shape (R196). -/
def restoreCluster (s : State) (ctx node cluster pass : Nat) (cores : List Nat) : State :=
  let mine := s.teams.filter (fun e => e.2.ctx == ctx && e.2.node == node && e.2.cluster == cluster && !e.2.freed)
  let s := mine.foldl (fun s e =>
    let core := cores.getD (e.2.cly * e.2.w + e.2.clx) 0
    if e.2.state = .saved then restoreTeam s e.1 core pass else moveExited s e.1 core) s
  requestAdmission s ctx node cluster

/-- The saved clusters of a context, in ascending order of stamp and `%team`, with the most groups of a team. -/
def savedClusters (s : State) (ctx : Nat) : List (Nat × Nat) :=
  let stamp := fun (tm : Team) => match runOf s ctx tm.node with | some r => r.stamp | none => 0
  let ts := ((s.teams.filter (fun e => e.2.ctx == ctx && e.2.state == .saved)).map (·.2)).mergeSort (fun a b =>
    if stamp a ≠ stamp b then decide (stamp a < stamp b)
    else if a.node ≠ b.node then decide (a.node < b.node) else decide (a.index ≤ b.index))
  (ts.map (fun tm => (tm.node, tm.cluster))).eraseDups

/-- What a saved cluster needs of a core: its header, with as many groups as a team of it has. -/
def clusterNeed (s : State) (ctx : Nat) (x : Nat × Nat) : Option (Header × Nat × Nat) :=
  let mine := (s.teams.filter (fun e => e.2.ctx == ctx && e.2.node == x.1 && e.2.cluster == x.2 && e.2.state == .saved)).map (·.2)
  match mine with
  | [] => none
  | tm :: _ =>
    let n := mine.foldl (fun m y => max m (slotGroups s ctx y.slot).length) tm.hdr.groups
    some ({ tm.hdr with groups := n }, tm.w, tm.h)

/-- Every saved cluster is placed, or none (R379). -/
def restoreAll (ctx pass : Nat) : List (Nat × Nat) → State → Option State
  | [], s => some s
  | x :: r, s =>
    match clusterNeed s ctx x with
    | none => restoreAll ctx pass r s
    | some (h, w, hh) =>
      match placeRect s ctx h w hh none with
      | none => none
      | some cores => restoreAll ctx pass r (restoreCluster s ctx x.1 x.2 pass cores)

/-! ## Adoption (R366, R379) -/

/-- A slot whose team record is not 0 is used. -/
def slotUsed (s : State) (ctx slot : Nat) : Bool := slotNat s ctx slot 0x3000 64 != 0

/-- The kernel header of an adopted team, which need only translate (R366), with its safe points where the table does. -/
def headerAt (s : State) (ctx va : Nat) : Option (Header × State) :=
  match devBytes s ctx va 256 with
  | none => none
  | some (bs, s) =>
    let x := headerOf va (leNat bs)
    match devBytes s ctx (va + x.sptab) (16 * x.nsp) with
    | none => some (x, s)
    | some (ts, s) =>
      let es := (List.range x.nsp).map (fun i => (i, safePtOf (leNat ((ts.drop (16 * i)).take 16))))
      some ({ x with safepts := es.filter (fun e => safePtUsed e.2) }, s)

/-- Check 5 of R366 on a used slot: the version, the kernel header, the states of the journal. -/
def slotTeam (s : State) (ctx slot : Nat) : Option (Team × State) :=
  let e := slotNat s ctx slot 0x3000 64
  let sts := (List.range 64).map (fun i => fld (slotNat s ctx slot (64 * i) 64) 336 3)
  if fld e 0 8 ≠ 1 || !sts.all (fun x => x == 0 || x == 1 || x == 3) then none
  else match headerAt s ctx (fld e 64 64) with
    | none => none
    | some (h, s) =>
      let w := max 1 (fld e 192 8)
      let c := fld e 208 8
      some ({ state := .saved, ctx := ctx, node := fld e 128 32, index := fld e 160 32, cluster := fld e 224 32
              clx := c % w, cly := c / w, w := w, h := max 1 (fld e 200 8), slot := slot, hdr := h }, s)

def adoptSlots (ctx : Nat) : List Nat → State → Option State
  | [], s => some s
  | i :: r, s =>
    let s := touchSlot s ctx i
    if !slotUsed s ctx i then adoptSlots ctx r s
    else match slotTeam s ctx i with
      | none => none
      | some (tm, s) =>
        let (k, s) := newId s
        adoptSlots ctx r { s with teams := tput k tm s.teams }

/-- The graph table's nodes taken up at the RUN that follows an ADOPT, in ascending index with new stamps: those with adopted
teams, and those whose STATE and PLACED say that clusters are still to be placed. -/
def takeUp (ctx : Nat) : List Nat → State → State
  | [], s => s
  | i :: r, s =>
    let (x5, s) := nodeWord s ctx i 5
    let (x7, s) := nodeWord s ctx i 7
    let (x4, s) := nodeWord s ctx i 4
    match x5, x7, x4 with
    | some w5, some w7, some w4 =>
      let st := wordState w5
      let placed := bits w7 13 16
      let todo := st == 1 || st == 2 || (st == 3 && decide (placed < bits w4 0 16))
      let team := (s.teams.find? (fun e => e.2.ctx == ctx && e.2.node == i && !e.2.freed)).map (·.2)
      if !todo && team.isNone then takeUp ctx r s
      else
        let stamp := s.stamp
        let (run, cause, s) := captureNode { s with stamp := stamp + 1 } ctx i stamp
        let run := match team with | some tm => { run with hdr := tm.hdr, w := tm.w, h := tm.h } | none => run
        let run := { run with next := if st = 3 then placed else 0, ended := if st = 3 then bits w7 29 16 else 0, tstart := timeNs s }
        let s := { s with nodes := tput (nodeKey ctx i) run s.nodes }
        takeUp ctx r (match cause with | some c => if todo then refuseNode s ctx i c else s | none => s)
    | _, _, _ => takeUp ctx r s

end Sys2Proof.Machine
end

