-- ==== Sys2Proof/Machine/Context.lean ====
section
/-! DEFINITION. Contexts (R360 to R379): commands, pre-emption and its deadline, migration, teardown, the watchdog; TRAP, SYSCALL,
RFT, CTXCTL and FRES (R381, R382, R384, R385). -/

namespace Sys2Proof.Machine

/-! ## The end of a pre-emption (R364, R316) -/

def ctxTeams (s : State) (c : Nat) : List (Nat × Team) := s.teams.filter (fun e => e.2.ctx == c && !e.2.freed)

/-- Every started CPYR and every matched COLL of the context has completed (R316). -/
def stopReady (s : State) (c : Nat) : Bool :=
  !s.copies.any (fun e => (teamOf s e.2.team).ctx == c && e.2.op == opCPYR && (e.2.state == .running || e.2.state == .faultWait))
    && !s.colls.any (fun e => collCtx s e.2 == c && (e.2.state == .matched || e.2.state == .faultWait))

/-- A posted COLL is withdrawn: its entry says that it is to be posted again. -/
def withdrawColls (s : State) (c : Nat) : State :=
  (s.colls.filter (fun e => collCtx s e.2 == c && e.2.state == .posted)).foldl (fun s e =>
    setEntries { s with colls := tdel e.1 s.colls } e.2.team [e.2.entry] jReplay) s

/-- A context whose teams are all saved is SAVED, or MIGRATING once its copies have stopped. -/
def ctxSettle (s : State) (c : Nat) : State :=
  let x := ctxOf s c
  if x.state ≠ .preempting ∧ x.state ≠ .saved then s
  else if !(ctxTeams s c).all (fun e => e.2.state == .saved || e.2.state == .exited) then s
  else if x.migrate then
    if stopReady s c then
      interrupt (modCtx (withdrawColls s c) c (fun x => { x with state := .migrating, migrate := false, countSince := none })) c 0
    else s
  else if x.state = .preempting then interrupt (modCtx s c (fun x => { x with state := .saved, countSince := none })) c 0
  else s

/-- TEAM_SAVED (R377): a team that has reached the end of its save is SAVED, and its context with it. -/
def execTeamSaved (k : Nat) (s : State) : Out :=
  let s := if saveReady s k then saveTeam s k else s
  .next (ctxSettle s (teamOf s k).ctx)

/-! ## Pre-emption (R356, R377) -/

/-- A pre-emption request for one team: one still in ADMITTING is saved at once, and DEQT waiters return code 3. -/
def preemptTeam (s : State) (k : Nat) : State :=
  match (teamOf s k).state with
  | .admitting => saveTeam s k
  | .running =>
    let s := modTeam s k (fun tm => { tm with state := .saving })
    (teamThreads s k).foldl (fun s t =>
      match (thrOf s t).stat with
      | .waiting (.queue q (some _) dst) => withdraw s t q dst 3
      | _ => s) (scheduleOnce s s.now (.teamSaved k))
  | _ => s

/-- PREEMPT and MIGRATE, or a tower that leaves (R461). -/
def preemptCtx (s : State) (c : Nat) (migrate : Bool) : State :=
  let x := ctxOf s c
  let s := modCtx s c (fun x =>
    { x with state := .preempting, migrate := migrate, counted := 0, countSince := none, limit := x.predl.toNat * 1000 * nsTicks })
  let s := (ctxTeams s c).foldl (fun s e => preemptTeam s e.1) s
  ctxSettle (if x.state = .running then resumeCount s c else s) c

/-- A fault of the context class: the state of R364 and a record with SRC 6. -/
def ctxFault (s : State) (c code : Nat) : State :=
  sendRecord (faultCtx s c code) c 0#64 0#64 0 0#64 0 noTeam 6 6 0 code false

/-- PREEMPT_DEADLINE: the counted time has run out. -/
def execPreemptDeadline (c : Nat) (s : State) : Out :=
  let x := ctxOf s c
  match x.countSince with
  | some t =>
    if x.state = .preempting && decide (x.limit ≤ x.counted + (s.now - t))
        && !(ctxTeams s c).all (fun e => e.2.state == .saved || e.2.state == .exited) then .next (ctxFault s c fPREEMPT_TIMEOUT)
    else .next s
  | none => .next s

/-! ## COMMIT, ADOPT and RUN (R366, R379) -/

/-- A range lies in backed memory of HBM or of the pinned window. -/
def areaBacked (s : State) (a len : Nat) : Bool :=
  decide (a + len ≤ hbmSize)
    || (decide (pinBase ≤ a ∧ a + len ≤ pinBase + pinSize)
      && (List.range ((a + len - 1) / 0x4000000 - a / 0x4000000 + 1)).all (fun i => pinnedBacked s ((a / 0x4000000 + i) * 0x4000000)))

def queueNamed (s : State) (c : Nat) (x : Ctx) (en lo : Nat) : Bool :=
  !sysqEn x en || ((queueAt s (sysqNum x lo)).state == .active && (queueAt s (sysqNum x lo)).owner == c)

/-- Checks 1 to 4 of R366. -/
def commitOk (s : State) (c : Nat) : Bool :=
  let x := ctxOf s c
  let qs := partQuads x
  !qs.isEmpty && qs.all (fun q => !(quadOf s q).gated && (towerOf s (quadTower q)).tstate == 0#2)
    && decide (1 ≤ x.gtsize ∧ x.gtsize ≤ 65536) && x.gtbase.toNat % 128 == 0
    && queueNamed s c x 12 0 && queueNamed s c x 28 16 && queueNamed s c x 44 32
    && x.area % 65536 == 0 && x.slots != 0 && areaBacked s x.area (0x8000 + 0x4000 * x.slots)

/-- Items that stand in the launch queue are taken once the context exists (R329). -/
def kickLaunch (s : State) (c : Nat) : State :=
  let x := ctxOf s c
  if sysqEn x 12 then scheduleOnce s s.now (.launchQueueItem c) else s

/-- ADOPT (R366, R379): the saved teams of the area are taken up. The area has no place for the context's seeds, which R106 says that migration
saves: they stay at the 0 that BUILD has given them (DESIGN CHOICE, log entry 85). -/
def adopt (s : State) (c : Nat) : Option State :=
  (adoptSlots c (List.range (ctxOf s c).slots) s).map (fun s => modCtx s c (fun x => { x with adopted := true }))

/-- RUN of a context that was saved or adopted: none where a team does not fit. -/
def restoreCtx (s : State) (c : Nat) : Option State :=
  let s := if (ctxOf s c).adopted then takeUp c (List.range (ctxOf s c).gtsize) s else s
  let (pass, s) := newId s
  let s := modCtx s c (fun x => { x with state := .running, migrate := false, adopted := false })
  let s := (ctxTeams s c).foldl (fun s e => if e.2.state = .saved then touchSlot s c e.2.slot else s) s
  (restoreAll c pass (savedClusters s c) s).map (fun s => schedule (fillPool s.nodes.length s) s.now .placementPass)

/-! ## Teardown (R367) -/

/-- The lines of a core's L1 that the context used. -/
def ctxLines (s : State) (core c : Nat) : List Nat :=
  ((coreOf s core).l1.filter (fun e => e.2.vls.any (fun v => v.1 == c))).map (·.1)

/-- Write-backs of what the context stored, the return of its spans, and the wipe of its lines. -/
def flushCtx (s : State) (c : Nat) : State :=
  s.cores.foldl (fun s e => (ctxLines s e.1 c).foldl (fun s line => dropLine s e.1 line) s) s

/-- TEARDOWN: the teams stop without routines; commands, copies and waiters are discarded, a host enqueue under way apart, which is looked at in
its turn (R347). Pool entries that this frees are taken (R328). -/
def teardown (s : State) (c : Nat) : State :=
  let ks := (s.teams.filter (fun e => e.2.ctx == c)).map (·.1)
  let mine := fun (t : ThrRef) => ks.contains t.team
  let s := modCtx s c (fun x => { x with state := .teardown, busy := true, migrate := false, countSince := none, queued := [] })
  let s := { s with
    queues := tmap (fun q => { q with waiters := q.waiters.filter (fun t => !mine t) }) s.queues
    damper := { s.damper with reqs := s.damper.reqs.filter (fun r => !ks.any (fun k => requestOf s k r)) }
    quads := (tmap (fun (q : Quad) => { q with me := q.me.filter (fun e => !ks.contains e.team) }) s.quads).filter (fun e => e.2 != {})
    copies := s.copies.filter (fun e => !ks.contains e.2.team)
    colls := s.colls.filter (fun e => !ks.contains e.2.team)
    asyncs := s.asyncs.filter (fun e => !mine e.2.thr)
    items := s.items.filter (fun i => i.ctx != c || i.kind == .host)
    nodes := s.nodes.filter (fun e => e.2.ctx != c) }
  let s := ks.foldl (fun s k => clearTeam s k) s
  let s := flushCtx s c
  let s := { s with teams := s.teams.filter (fun e => e.2.ctx != c) }
  schedule (fillPool s.nodes.length s) s.now (.teardownComplete c)

/-- Whether a write of the context is still on its way to its home; a write-back is one of every context that has used its line. -/
def ctxWrites (s : State) (c : Nat) : Bool :=
  s.reqs.any (fun e => (e.2.ctx == c || e.2.vls.any (fun v => v.1 == c)) && (!e.2.performed || (isFar s (e.2.line * 128) && e.2.kind != .read && e.2.kind != .uc)))

/-- TEARDOWN_COMPLETE: the write-backs have been performed; the queues of the context are destroyed, and it is FREE. -/
def execTeardownComplete (c : Nat) (s : State) : Out :=
  if (ctxOf s c).state != .teardown || ctxWrites s c then .next s
  else
    let s := (s.queues.filter (fun e => e.2.state != .free && e.2.owner == c)).foldl (fun s e => destroyQueue s e.1) s
    let s := tlbDrop s c (fun _ => true)
    let s := modCtx s c (fun x => { x with state := .free, busy := false })
    .next (schedule (interrupt s c 0) s.now .placementPass)

/-! ## Commands (R364, R365) -/

def cmdBUILD : Nat := 1
def cmdCOMMIT : Nat := 2
def cmdRUN : Nat := 3
def cmdPREEMPT : Nat := 4
def cmdMIGRATE : Nat := 5
def cmdADOPT : Nat := 6
def cmdTEARDOWN : Nat := 7

/-- The effect of a command in the state of its context, and CMDST. -/
def actCommand (s : State) (c cmd : Nat) : Nat × State :=
  let x := ctxOf s c
  let wrong := (1, s)
  if cmd = cmdTEARDOWN then (if x.state = .free ∨ x.state = .teardown then wrong else (0, teardown s c))
  else match x.state with
    | .free => if cmd = cmdBUILD then (0, modCtx s c (fun x => { state := .building, bar4base := x.bar4base })) else wrong
    | .building =>
      if cmd = cmdCOMMIT then
        (if commitOk s c then (0, kickLaunch (modCtx s c (fun x => { x with state := .ready })) c) else (3, s))
      else if cmd = cmdADOPT then
        (if !commitOk s c then (3, s)
         else match adopt s c with
          | some s => (0, kickLaunch (modCtx s c (fun x => { x with state := .saved })) c)
          | none => (3, s))
      else wrong
    | .ready =>
      if cmd = cmdRUN then (0, schedule (modCtx s c (fun x => { x with state := .running })) s.now .placementPass) else wrong
    | .running => if cmd = cmdPREEMPT ∨ cmd = cmdMIGRATE then (0, preemptCtx s c (cmd == cmdMIGRATE)) else wrong
    | .preempting => if cmd = cmdMIGRATE then (0, ctxSettle (modCtx s c (fun x => { x with migrate := true })) c) else wrong
    | .saved | .migrating =>
      if cmd = cmdRUN then
        match restoreCtx s c with
        | some s => (0, s)
        | none =>
          let s := modCtx s c (fun x => { x with state := .saved, cause := BitVec.ofNat 8 fRESTORE_CAPACITY })
          (3, sendRecord s c 0#64 0#64 0 0#64 0 noTeam 6 6 0 fRESTORE_CAPACITY false)
      else if cmd = cmdMIGRATE ∧ x.state = .saved then (0, ctxSettle (modCtx s c (fun x => { x with migrate := true })) c)
      else wrong
    | .faulted => wrong
    | .teardown => wrong

/-- Whether a quad of the context's partition is in a ratio stop, which queues commands (R460). -/
def ctxStopped (s : State) (c : Nat) : Bool := (partQuads (ctxOf s c)).any (fun q => (quadOf s q).stopUntil.isSome)

/-- The permissions of R365: CMDST 4 where the source may not give the command. -/
def mayCommand (src : CmdSource) (c cmd : Nat) : Bool :=
  match src with
  | .pf => true
  | .vf n => n == c && (cmd == cmdRUN || cmd == cmdPREEMPT)
  | .supervisor => c != 0

/-- Records CMDST and sends the interrupt of a command that has completed or been refused. -/
def closeCommand (s : State) (c st : Nat) : State :=
  interrupt (modCtx s c (fun x => { x with cmdst := BitVec.ofNat 8 st })) c 0

/-- A command that has reached the context controller. -/
def runCommand (s : State) (c cmd : Nat) : Nat × State :=
  if (ctxOf s c).busy then (2, closeCommand s c 2)
  else if cmd = 0 ∨ 8 ≤ cmd then (3, closeCommand s c 3)
  else
    let r := actCommand s c cmd
    if cmd = cmdTEARDOWN ∧ r.1 = 0 then (0, modCtx r.2 c (fun x => { x with cmdst := 0#8 })) else (r.1, closeCommand r.2 c r.1)

/-- A command: permission, the queue of a ratio stop, then its effect. Answers its status. In a boot that has stopped none arrives (R464). -/
def command (s : State) (src : CmdSource) (c cmd : Nat) : Nat × State :=
  if 64 ≤ c ∨ s.kiln.stopped then (3, s)
  else if !mayCommand src c cmd then (4, closeCommand s c 4)
  else if ctxStopped s c then (0, modCtx s c (fun x => { x with queued := x.queued ++ [(src, cmd)] }))
  else runCommand s c cmd

/-- Commands that a ratio stop held act when the last stop of the context's quads ends. -/
def releaseCommands (s : State) : State :=
  s.ctxs.foldl (fun s e =>
    if e.2.queued.isEmpty || ctxStopped s e.1 then s
    else e.2.queued.foldl (fun s x => (runCommand s e.1 x.2).2) (modCtx s e.1 (fun x => { x with queued := [] }))) s

def execCtxBuild (src : CmdSource) (c : Nat) (s : State) : Out := .next (command s src c cmdBUILD).2
def execCtxCommit (src : CmdSource) (c : Nat) (s : State) : Out := .next (command s src c cmdCOMMIT).2
def execCtxRun (src : CmdSource) (c : Nat) (s : State) : Out := .next (command s src c cmdRUN).2
def execCtxPreempt (src : CmdSource) (c : Nat) (s : State) : Out := .next (command s src c cmdPREEMPT).2
def execCtxMigrate (src : CmdSource) (c : Nat) (s : State) : Out := .next (command s src c cmdMIGRATE).2
def execCtxAdopt (src : CmdSource) (c : Nat) (s : State) : Out := .next (command s src c cmdADOPT).2
def execCtxTeardown (src : CmdSource) (c : Nat) (s : State) : Out := .next (command s src c cmdTEARDOWN).2

/-! ## The watchdog (R376) -/

/-- A rendezvous at which a thread waits, all of whose participants have waited for the period at more than one PC. -/
def stuckAt (s : State) (team gid l : Nat) : Option (List Nat) :=
  let ref := fun (l : Nat) => ({ team := team, gid := gid, lane := l } : ThrRef)
  let th := thrOf s (ref l)
  match th.stat with
  | .waiting (.rendezvous _ all mm _) =>
    let parts := lanesOf (participants (grpOf s team gid) th.mode all mm)
    let late := parts.all (fun i => match (thrOf s (ref i)).stat with
      | .waiting (.rendezvous _ _ _ (some d)) => decide (d ≤ s.now)
      | _ => false)
    if late && parts.any (fun i => (thrOf s (ref i)).pc != th.pc) then some parts else none
  | _ => none

/-- RENDEZVOUS_WATCHDOG: each participant raises WATCHDOG at its own instruction. -/
def execRendezvousWatchdog (team gid : Nat) (s : State) : Out :=
  match groupLanes.findSome? (stuckAt s team gid) with
  | none => .next s
  | some ls =>
    .next (deliverLater (teamOf s team).core (ls.map (fun l => ({ team := team, gid := gid, lane := l }, flt fWATCHDOG))) s)

/-! ## TRAP and SYSCALL (R381) -/

/-- A TRAP raises SOFTWARE, with the address after it in `%trappc`. -/
def execTrap (b : Base) (s : State) : Out :=
  perThread { g := b.g } noIll (fun _ _ _ => .fault { code := fSOFTWARE, info := b.sa.toNat, after := true }) s

/-- One record for the thread, which waits with its PC at the address after the SYSCALL. -/
def syscallThread (n : Nat) (p : Packet) (t : ThrRef) (s : State) : ThrOut :=
  let th := thrOf s t
  let tm := teamOf s t.team
  let tok := tokenOf 0 tm.ctx (ctxOf s tm.ctx).cseq (grpOf s t.team t.gid).slot p.core
  let s := pauseCount s tm.ctx
  let s := modThr s t (fun th => { th with stat := .faultWait tok true, pc := p.next, idleSince := thrClock s t, rel := none })
  .left (sendRecord s tm.ctx (pairVal th 4) p.pc (pairVal th 6).toNat tok (2 ^ t.lane) tm.index 1 6 n fSOFTWARE true)

def execSyscall (b : Base) (s : State) : Out :=
  perThread { g := b.g, srcs := [(4, false), (5, false), (6, false), (7, false)] } (fun tm => decide (tm.hdr.regs < 8))
    (syscallThread b.sa.toNat) s

/-! ## RFT (R382) -/

/-- A form of RFT is legal in one mode. -/
def inMode (m : Mode) (s : State) (t : ThrRef) (k : ThrOut) : ThrOut := if (thrOf s t).mode = m then k else .fault (flt fILLOP)

def execRft (b : Base) (s : State) : Out :=
  perThread { g := b.g } noIll (fun _ t s => inMode .trap s t (.left (modThr s t (fun th =>
    { leaveHandler th.trappc th with idleSince := thrClock s t })))) s

def execRftTarget (b : Base) (s : State) : Out :=
  perThread (baseOpnds b 2 0 0) noIll (fun _ t s => inMode .trap s t (
    let pc := pairVal (thrOf s t) b.sa.toNat
    if pc.toNat % 4 ≠ 0 then .fault (fltAt fMISALIGN pc)
    else .left (modThr s t (fun th => { leaveHandler pc th with idleSince := thrClock s t })))) s

/-- The registers of a thread that await a return. -/
def emptyRegs (th : Thread) : List Nat := (th.v.filter (fun e => !e.2.full)).map (·.1)

/-- RFT.SAVE: the thread's registers have filled, its accesses are released at SYSTEM scope (R245), and it is saved. LINKLOST
goes into its resume word (R368). -/
def execRftSave (b : Base) (s : State) : Out :=
  perThread { g := b.g } noIll (fun _ t s => inMode .save s t (
    let saved := fun (s : State) =>
      let s := modThr s t (fun th => { th with stat := .saved, rel := none, idleSince := thrClock s t })
      ThrOut.left (scheduleOnce s s.now (.teamSaved t.team))
    match emptyRegs (thrOf s t) with
    | n :: ns => .left (park s t (n :: ns))
    | [] =>
      match release s t scSystem none with
      | .done s => saved s
      | .fault => saved s
      | .wait s => .left (makeWait s t .release))) s

/-- The teams of the cluster of a team with copies to replay look again (R316). -/
def kickReplays (s : State) (k : Nat) : State :=
  let tm := teamOf s k
  (ctxTeams s tm.ctx).foldl (fun s e =>
    if e.2.node == tm.node && e.2.cluster == tm.cluster && s.copies.any (fun c => c.2.team == e.1 && c.2.state == .replay) then
      scheduleOnce s s.now (.copyReplayStart e.1)
    else s) s

def execRftRest (b : Base) (s : State) : Out :=
  perThread (baseOpnds b 2 0 0) noIll (fun _ t s => inMode .rest s t (
    let pc := pairVal (thrOf s t) b.sa.toNat
    if pc.toNat % 4 ≠ 0 then .fault (fltAt fMISALIGN pc)
    else .left (kickReplays (modThr s t (fun th =>
      { leaveHandler pc th with idleSince := thrClock s t })) t.team))) s

/-! ## CTXCTL (R384) -/

/-- The status of a form that acts once, which every thread with guard 1 receives. -/
def statusForm (b : Base) (f : ThrRef → State → Nat × State) (s : State) : Out :=
  let o := baseOpnds b 0 0 1 true
  let v := match leadOf o s with | some t => (f t s).1 | none => 0
  oncePerPacket o noIll (fun _ t s => .done (f t s).2)
    (fun t s => modThr s t (fun th => putReg th b.dst.toNat (BitVec.ofNat 32 v))) s

/-- The status of CTXCTL.CMD for a CMDST: a command refused under R364 is in the wrong state, unless the controller is busy. -/
def cmdStatus (st : Nat) : Nat := if st = 0 ∨ st = 2 then st else 1

def execCtxctlCmd (b : Base) (e1 : Word32) (s : State) : Out :=
  statusForm b (fun t s =>
    let c := bits (thrSreg s t b.sa.toNat) 0 6
    if c = 0 then (3, s)
    else
      let r := command s .supervisor c (e1.toNat % 16)
      (cmdStatus r.1, r.2)) s

/-- The group that a handle names: core, group slot, context. -/
def groupNamed (s : State) (h : Word64) : Option (Nat × Nat) :=
  (s.groups.find? (fun e =>
    let tm := teamOf s (e.1 / 32)
    tm.core == bits h 0 12 && e.2.slot == bits h 12 6 && tm.ctx == bits h 24 6 && tm.state != .saved)).map
    (fun e => (e.1 / 32, e.1 % 32))

/-- A nonzero mask makes a held group active, and the tests that depend on `%exm` run (R169, R285). -/
def releaseGroup (s : State) (k gid : Nat) (m : LaneMask) : State :=
  if m = 0#32 then s
  else
    let s := modGrp s k gid (fun g => { g with state := .active, exm := m })
    groupTest s k gid

def execCtxctlExm (b : Base) (_e1 : Word32) (s : State) : Out :=
  statusForm b (fun t s =>
    let h := thrSreg s t b.sa.toNat
    if bits h 24 6 = 0 then (3, s)
    else match groupNamed s h with
      | none => (3, s)
      | some (k, gid) =>
        if (grpOf s k gid).state != .held then (1, s) else (0, releaseGroup s k gid (lo32 (thrSreg s t b.sb.toNat)))) s

/-! ## FRES (R385) -/

/-- The fields of a token that name its target. -/
def tokenMask : Word64 := 0xF03FFFFFFFFFFFFF#64

def faultWaiters' (s : State) (tok : Word64) : List (ThrRef × Bool) :=
  s.threads.filterMap (fun e =>
    match e.2.stat with
    | .faultWait k y => if k &&& tokenMask = tok &&& tokenMask && tok != 0#64 then some (refOf e.1, y) else none
    | _ => none)

/-- What `FRES` does to its target. -/
inductive FresKind where
  | retry
  | data
  | kill
  deriving DecidableEq, Repr

/-- A retried thread acquires and is READY; a killed one exits, and its node is marked (R336). -/
def fresThread (kind : FresKind) (v : Word64) (s : State) (x : ThrRef × Bool) : State :=
  let t := x.1
  match kind with
  | .kill =>
    let tm := teamOf s t.team
    exitThread (modRun s tm.ctx tm.node (fun r => { r with killed := true })) t
  | .data =>
    let s := if x.2 then modThr s t (fun th => putPair th 4 v) else s
    makeReady (acquire s t scSystem none) t
  | .retry => makeReady (acquire s t scSystem none) t

def fresCopy (kind : FresKind) (s : State) (c : CopyCmd) : State :=
  if kind = .kill then endCopy s c .failed else retryCopy s c

def fresColl (kind : FresKind) (s : State) (c : Coll) : State :=
  if kind = .kill then endColl s c .failed else retryColl s c

/-- The target of a token waits: the threads, the copy or the collective. -/
def fresTarget (s : State) (tok : Word64) : Bool :=
  !(faultWaiters' s tok).isEmpty
    || s.copies.any (fun e => e.2.state == .faultWait && e.2.token &&& tokenMask == tok &&& tokenMask)
    || s.colls.any (fun e => e.2.state == .faultWait && e.2.token &&& tokenMask == tok &&& tokenMask)

/-- The action on the target of a token. -/
def fresAct (kind : FresKind) (v : Word64) (s : State) (tok : Word64) : State :=
  let ts := faultWaiters' s tok
  let c := bits tok 48 6
  if !ts.isEmpty then resumeCount (ts.foldl (fresThread kind v) s) c
  else match s.copies.find? (fun e => e.2.state == .faultWait && e.2.token &&& tokenMask == tok &&& tokenMask) with
    | some e => fresCopy kind s e.2
    | none => match s.colls.find? (fun e => e.2.state == .faultWait && e.2.token &&& tokenMask == tok &&& tokenMask) with
      | some e => fresColl kind s e.2
      | none => s

def fresForm (kind : FresKind) (b : Base) (s : State) : Out :=
  perThread (baseOpnds b 0 0 1 true) noIll (fun p t s =>
    let tok := thrSreg s t b.sa.toNat
    let put := fun (s : State) (v : Nat) => modThr s t (fun th => putReg th b.dst.toNat (BitVec.ofNat 32 v))
    if !fresTarget s tok then .done (put s 1) p.next
    else afterRelease s t scSystem none (fun s =>
      .done (put (fresAct kind (thrSreg s t b.sb.toNat) s tok) 0) p.next)) s

def execFresRetry (b : Base) (s : State) : Out := fresForm .retry b s
def execFresRetryD (b : Base) (s : State) : Out := fresForm .data b s
def execFresKill (b : Base) (s : State) : Out := fresForm .kill b s

end Sys2Proof.Machine
end

