-- ==== Sys2Proof/Machine/Page.lean ====
section
/-! DEFINITION. Page preparation (R394 to R411): table entries, frame records and share counts, the shootdown, the page
instructions, the move of a page, the return of a frame, and a home's uncorrectable error (R222, R401). -/

namespace Sys2Proof.Machine

/-! ## Entries (R386 to R388, R406) -/

/-- The address of the entry for `va` in the table at level `L`, if the tables above it stand. -/
def entryWalk (s : State) (va L : Nat) : Nat → Nat → Nat → Option Nat
  | 0, _, _ => none
  | n + 1, lvl, tab =>
    if !tableOk tab then none
    else
      let a := tab + va / 2 ^ (46 - 10 * lvl) % 1024 * 8
      let e := tableWord s a
      if lvl = L then some a
      else if !leafV e || leafLeaf e || !tableEntryOk e then none
      else entryWalk s va L n (lvl + 1) (bits e 13 39 * 8192)

def entryAddr (s : State) (ctx va L : Nat) : Option Nat :=
  let root := (ctxOf s ctx).ptroot
  if bits root 52 12 ≠ 0 ∨ bits root 0 13 ≠ 0 then none else entryWalk s va L 4 0 root.toNat

/-- An entry of a table at its home. -/
def entryWord (s : State) (a : Nat) : Word64 := tableWord s a

/-- A valid leaf of a page: the entry, its level and its address. -/
def leafAt (s : State) (ctx va : Nat) : Option (Word64 × Nat × Nat) :=
  let try' := fun (L : Nat) => (entryAddr s ctx va L).bind (fun a =>
    if leafV (entryWord s a) && leafLeaf (entryWord s a) then some (entryWord s a, L, a) else none)
  try' 2 <|> try' 3

/-- The frames that a leaf names; an ABSENT page has none (R398). -/
def leafFrames (e : Word64) (level : Nat) : List Nat :=
  if leafTier e = 3 then []
  else if level = 2 then (List.range 1024).map (fun i => bits e 38 26 * 1024 + i) else [bits e 28 36]

/-- Those of them that have a record (R394). -/
def counted (e : Word64) (level : Nat) : List Nat :=
  (leafFrames e level).filter (fun f => decide (leafTier e ≤ 1) && (frameIndex (f * 65536)).isSome)

def isValidLeaf (e : Word64) : Bool := leafV e && leafLeaf e

/-- Whether a new leaf would pass the checks of a walk at a level; TIER 3 ends them (R406). -/
def newLeafOk (s : State) (e : Word64) (level va : Nat) : Bool :=
  leafForm e level && (leafTier e == 3 || (frameCause s e (leafPa e level (va / 65536 * 65536))).isNone)

/-! ## Frame records (R395, R396) -/

def recOf (s : State) (f : Nat) : Word64 :=
  match frameIndex (f * 65536) with
  | some i => frameRec s i
  | none => 0#64

def modFrame (s : State) (f : Nat) (g : Word64 → Word64) : State :=
  match frameIndex (f * 65536) with
  | some i => modRec s i g
  | none => s

/-- The records of frames are read at their homes (R213). -/
def touchFrames (s : State) (fs : List Nat) : State := fs.foldl (fun s f => touchRec s (f * 65536)) s

/-- The frames of a unit's part of the pinned window (R207). -/
def unitFrames (t u : Nat) : List Nat := List.range' ((pinBase + t * pinTower + u * 0x4000000) / 65536) 1024

/-- Raises the counts of frames; a rise from 0 sets OWNER. -/
def raiseFrames (s : State) (ctx : Nat) (fs : List Nat) : State :=
  fs.foldl (fun s f => modFrame s f (fun r =>
    let r := if recShare r = 0 then putBits r 32 6 ctx else r
    putBits r 0 16 (recShare r + 1))) s

/-- Lowers the counts of frames; answers those that fell to 0, with the page. -/
def lowerFrames (va : Nat) (fs : List Nat) (s : State) (acc : List (Nat × Nat)) : State × List (Nat × Nat) :=
  fs.foldl (fun (x : State × List (Nat × Nat)) f =>
    let s := touchRec x.1 (f * 65536)
    let n := recShare (recOf s f)
    if n = 0 then (s, x.2)
    else (modFrame s f (fun r => putBits r 0 16 (n - 1)), if n = 1 then x.2 ++ [(f, va)] else x.2)) (s, acc)

def overflows (s : State) (fs : List Nat) : Bool := fs.any (fun f => recShare (recOf s f) == 65535)

/-- The frames of the frame table itself, which only context 0 may map. -/
def inFrameTable (s : State) (fs : List Nat) : Bool :=
  fs.any (fun f => decide (recordAt s 0 / 65536 ≤ f ∧ f < recordAt s 0 / 65536 + 1072))

def without (a b : List Nat) : List Nat := a.filter (fun f => !b.contains f)

/-- The first page of the entry that maps `va` at a level. -/
def pageBase (va level : Nat) : Nat := if level = 2 then va / 2 ^ 26 * 2 ^ 26 else va / 65536 * 65536

def pagesAt (va level : Nat) : List Nat :=
  if level = 2 then (List.range 1024).map (fun i => va / 2 ^ 26 * 1024 + i) else [va / 65536]

/-- Writes one leaf entry: the new frames rise, the entry is written, the old frames fall (R406). The record of the operation
gains the pages and frames that a shootdown covers. -/
def swapLeaf (s : State) (m : Move) (ctx va level a : Nat) (new : Word64) : State × Move :=
  let old := entryWord s a
  let up := if isValidLeaf new then counted new level else []
  let down := if isValidLeaf old then counted old level else []
  let s := raiseFrames s ctx (without up down)
  let s := unitPutNat s a 8 new.toNat
  let r := lowerFrames (pageBase va level) (without down up) s m.zeroed
  if isValidLeaf old then
    (r.1, { m with pages := m.pages ++ pagesAt va level, frames := m.frames ++ leafFrames old level, zeroed := r.2 })
  else (r.1, m)

/-! ## What the instructions do to the tables -/

/-- What the tables make of an instruction: a status, and the state and record after it. -/
structure Acted where
  status : Nat
  s : State
  m : Move

def refused (s : State) (m : Move) (status : Nat) : Acted := { status := status, s := s, m := m }

/-- PGMAP.LEAF (R406). -/
def actLeaf (s : State) (m : Move) (level : Nat) : Acted :=
  match entryAddr s m.ctx m.va level with
  | none => refused s m 1
  | some a =>
    let old := entryWord s a
    let up := if isValidLeaf m.entry then counted m.entry level else []
    let s := touchFrames s up
    if leafV m.entry && (!leafLeaf m.entry || !newLeafOk s m.entry level m.va) then refused s m 5
    else if !leafV m.entry && m.entry != 0#64 then refused s m 5
    else if leafV old && !leafLeaf old then refused s m 2
    else if m.ctx != 0 && inFrameTable s up then refused s m 4
    else if overflows s (without up (if isValidLeaf old then counted old level else [])) then refused s m 3
    else
      let r := swapLeaf s m m.ctx m.va level a m.entry
      { status := 0, s := r.1, m := r.2 }

/-- PGMAP.TABLE (R406). -/
def actTable (s : State) (m : Move) (level : Nat) : Acted :=
  match entryAddr s m.ctx m.va level with
  | none => refused s m 1
  | some a =>
    if m.entry != 0#64 && (leafLeaf m.entry || !tableEntryOk m.entry) then refused s m 5
    else { status := 0, s := unitPutNat s a 8 m.entry.toNat, m := m }

/-- PGSHARE (R407): `ctx`, `va` name the destination, `ctx2`, `va2` the source. -/
def actShare (s : State) (m : Move) (cow : Bool) : Acted :=
  match leafAt s m.ctx2 m.va2 with
  | none => refused s m 2
  | some (e, level, a) =>
    if level != 3 || !leafForm e 3 || (counted e 3).isEmpty then refused s m 2
    else if m.user && !leafR e then refused s m 4
    else match entryAddr s m.ctx m.va 3 with
      | none => refused s m 1
      | some d =>
        if leafV (entryWord s d) then refused s m 2
        else if m.ctx != 0 && inFrameTable s (counted e 3) then refused s m 4
        else if overflows (touchFrames s (counted e 3)) (counted e 3) then refused (touchFrames s (counted e 3)) m 3
        else
          let s := raiseFrames s m.ctx (counted e 3)
          let new := (e &&& ~~~(0xE0000#64)) ||| (if leafCow e || cow then 1#64 <<< 19 else 0#64)
          let s := unitPutNat s d 8 new.toNat
          if cow then
            { status := 0, s := unitPutNat s a 8 (entryWord s a ||| (1#64 <<< 19)).toNat,
              m := { m with pages := [m.va2 / 65536], frames := leafFrames e 3 } }
          else { status := 0, s := s, m := m }

/-- PGUNSHARE (R408). -/
def actUnshare (s : State) (m : Move) : Acted :=
  match leafAt s m.ctx m.va with
  | some (e, 3, a) =>
    if !leafForm e 3 || (counted e 3).isEmpty then refused s m 2
    else
      let r := swapLeaf s m m.ctx m.va 3 a 0#64
      { status := 0, s := r.1, m := r.2 }
  | _ => refused s m 2

/-- PGINV and PGINV.ABS over the pages from `v` on (R410). -/
def invPages (absent : Bool) (ctx : Nat) : Nat → Nat → State → Move → State × Move
  | 0, _, s, m => (s, m)
  | n + 1, v, s, m =>
    let va := v * 65536
    if 2 ^ 56 ≤ va then (s, m)
    else
      let s := walkTouch s ctx va 4
      match leafAt s ctx va with
      | none => invPages absent ctx n (v + 1) s m
      | some (e, level, a) =>
        let new := if absent then putBits (putBits e 28 36 0) 12 2 3 else 0#64
        let r := swapLeaf s m ctx va level a new
        invPages absent ctx n (v + 1) r.1 r.2

/-- Drops the TLB entries of a range of pages, and those of large pages that it touches (R410, R411). -/
def tlbDropRange (s : State) (ctx first count : Nat) : State :=
  let keep := fun (e : TlbEntry) =>
    let lo := if e.level = 2 then first / 1024 * 1024 else first
    let hi := if e.level = 2 then (first + count - 1) / 1024 * 1024 + 1023 else first + count - 1
    !(e.ctx == ctx && decide (lo ≤ e.vpn ∧ e.vpn ≤ hi))
  { s with
    cores := (tmap (fun (c : Core) => { c with tlb := c.tlb.filter keep }) s.cores).filter (fun e => e.2 != {})
    quads := (tmap (fun (q : Quad) => { q with tlb := q.tlb.filter keep }) s.quads).filter (fun e => e.2 != {}) }

def actInv (s : State) (m : Move) (mode : Nat) : Acted :=
  if m.count = 0 ∨ 65536 < m.count then refused s m 5
  else if mode = 2 then { status := 0, s := tlbDropRange s m.ctx (m.va / 65536) m.count, m := m }
  else
    let r := invPages (mode == 1) m.ctx m.count (m.va / 65536) s m
    { status := 0, s := r.1, m := r.2 }

/-- PGDIRTY over the pages of a chunk (R411): the D bits, which it clears one entry at a time unless it only looks. -/
def dirtyPages (peek : Bool) : List Nat → State → Move → State × Move
  | [], s, m => (s, m)
  | i :: r, s, m =>
    let va := m.va + i * 65536
    let s := walkTouch s m.ctx va 4
    match leafAt s m.ctx va with
    | none => dirtyPages peek r s m
    | some (e, level, _) =>
      let f := leafPa e level va / 65536
      let fs := if leafTier e = 3 then [] else [f]
      let m := { m with result := if leafD e then m.result ||| (1#64 <<< i) else m.result, pages := m.pages ++ [va / 65536],
                        frames := m.frames ++ fs }
      dirtyPages peek r s m

def clearDirty : List Nat → Move → State → State
  | [], _, s => s
  | i :: r, m, s =>
    match leafAt s m.ctx (m.va + i * 65536) with
    | some (e, _, a) => clearDirty r m (if leafD e then unitPutNat s a 8 (e &&& ~~~(0x40000#64)).toNat else s)
    | none => clearDirty r m s

def actDirty (s : State) (m : Move) (peek : Bool) : Acted :=
  let r := dirtyPages peek (List.range 64) s m
  if peek then { status := 0, s := r.1, m := { r.2 with pages := [], frames := [] } }
  else { status := 0, s := clearDirty (List.range 64) m r.1, m := r.2 }

/-- PGMOVE (R409): the checks, MOVE in each record; the page is then MIGRATING. -/
def actMove (s : State) (m : Move) : Acted :=
  match leafAt s m.ctx m.va with
  | some (old, 3, a) =>
    if !leafForm old 3 || leafTier old == 3 then refused s m 2
    else if !isValidLeaf m.entry || !newLeafOk s m.entry 3 m.va || leafTier m.entry == 3 then refused s m 5
    else
      let src := counted old 3
      let dst := counted m.entry 3
      let s := touchFrames s (src ++ dst)
      if src.any (fun f => recShare (recOf s f) != 1)
          || dst.any (fun f => recShare (recOf s f) != 0 || recMove (recOf s f))
          || (m.ctx != 0 && inFrameTable s dst) then refused s m 4
      else
        let s := (src ++ dst).foldl (fun s f => modFrame s f (fun r => r ||| (1#64 <<< 17))) s
        { status := 0, s := s,
          m := { m with pages := [m.va / 65536], frames := leafFrames old 3, old := old, entryAt := a } }
  | _ => refused s m 2

/-- The walks of an instruction read their entries at the homes (R389). -/
def touchTables (s : State) (m : Move) : State :=
  let s := walkTouch s m.ctx m.va 4
  match m.kind with
  | .share _ => walkTouch s m.ctx2 m.va2 4
  | _ => s

def actPage (s : State) (m : Move) : Acted :=
  let s := touchTables s m
  let free := (ctxOf s m.ctx).state == .free || (match m.kind with | .share _ => (ctxOf s m.ctx2).state == .free | _ => false)
  match m.kind with
  | .dirty peek => if free then refused s m 0 else actDirty s m peek
  | .inv mode => if m.count = 0 ∨ 65536 < m.count then refused s m 5 else if free then refused s m 4 else actInv s m mode
  | .leaf level => if free then refused s m 4 else actLeaf s m level
  | .table level => if free then refused s m 4 else actTable s m level
  | .share cow => if free then refused s m 4 else actShare s m cow
  | .unshare => if free then refused s m 4 else actUnshare s m
  | .move => if free then refused s m 4 else actMove s m
  | .frame => refused s m 0

/-! ## Waiting (R400, R403) -/

/-- The pages that an instruction names: context, first page, count. -/
def named (m : Move) : List (Nat × Nat × Nat) :=
  match m.kind with
  | .leaf level => [(m.ctx, pageBase m.va level / 65536, if level = 2 then 1024 else 1)]
  | .share _ => [(m.ctx, m.va / 65536, 1), (m.ctx2, m.va2 / 65536, 1)]
  | .inv _ => [(m.ctx, m.va / 65536, m.count)]
  | .dirty _ => [(m.ctx, m.va / 65536, 64)]
  | .frame => []
  | _ => [(m.ctx, m.va / 65536, 1)]

/-- A page that it names is being moved. -/
def onMovingPage (s : State) (id : Nat) (m : Move) : Bool :=
  s.moves.any (fun e => e.1 != id && e.2.kind == .move && decide (1 ≤ e.2.stage)
    && (named m).any (fun x => x.1 == e.2.ctx && decide (x.2.1 ≤ e.2.va / 65536 ∧ e.2.va / 65536 < x.2.1 + x.2.2)))

/-- PGMAP waits while a PGMOVE holds the new frame (R406). -/
def onMovingFrame (s : State) (m : Move) : Bool :=
  match m.kind with
  | .leaf level => isValidLeaf m.entry && (counted m.entry level).any (fun f => recMove (recOf s f))
  | _ => false

def isStore (r : Req) : Bool := r.kind == .write || r.kind == .writeBack || r.kind == .reduce

/-- Whether a request that a shootdown waits for is over: performed and, for a load or an atomic, returned. -/
def reqOver (s : State) (i : Nat) : Bool :=
  match tget s.reqs i with
  | some r => isStore r && r.performed
  | none => true

/-- The accesses of a context that used the entries dropped; those of a collective and of a command, which name no virtual line, are found by
their frames. PGDIRTY waits for writes alone. -/
def usedBy (s : State) (ctx : Nat) (m : Move) : Move :=
  let wr := match m.kind with | .dirty _ => true | _ => false
  let reqs := (s.reqs.filter (fun e =>
    (e.2.vls.any (fun v => v.1 == ctx && m.pages.contains (v.2 / 512)) && (!wr || isStore e.2 || e.2.kind == .own || e.2.kind == .atomic))
      || ((e.2.kind == .writeBack || (e.2.vls.isEmpty && (isStore e.2 || (!wr && e.2.kind == .uc)))) && m.frames.contains (lineFrame e.2.line)))).map (·.1)
  let beats := s.copies.flatMap (fun c =>
    (c.2.beats.filter (fun b => !b.unread && b.member.isNone && m.frames.contains (b.pa / 65536))).map (fun b => (c.1, b.id)))
  let cmds := if wr then [] else s.quads.flatMap (fun q =>
    (q.2.me.filter (fun c => c.need.any (fun l => m.frames.contains (lineFrame l)))).map (fun c => (q.1, c.id)))
  { m with reqs := reqs, beats := beats, cmds := cmds }

def stillUsed (s : State) (m : Move) : Bool :=
  m.reqs.any (fun i => !reqOver s i)
    || m.beats.any (fun x => match tget s.copies x.1 with | some c => c.beats.any (fun b => b.id == x.2) | none => false)
    || m.cmds.any (fun x => (quadOf s x.1).me.any (fun c => c.id == x.2 && c.need.any (fun l => m.frames.contains (lineFrame l))))
    || s.threads.any (fun e => match e.2.mon with | .arming l => m.frames.contains (lineFrame l) | _ => false)

/-- The lines of the frames that a core's L1 holds. -/
def heldLines (s : State) (core : Nat) (fs : List Nat) : List Nat :=
  ((coreOf s core).l1.map (·.1)).filter (fun l => fs.contains (lineFrame l))

/-- The L1 part of a shootdown (R400), on every core: dirty bytes are written back, valid words dropped and spans returned;
PGDIRTY drops nothing (R411). The write-backs are what the instruction waits for next. -/
def flushFrames (s : State) (m : Move) : State × Move :=
  let keep := match m.kind with | .dirty _ => true | _ => false
  let s := (s.cores.map (·.1)).foldl (fun s c =>
    (heldLines s c m.frames).foldl (fun s l =>
      if keep then startWriteBack s c l (BitVec.allOnes 128) else dropLine s c l) s) s
  let ids := (s.reqs.filter (fun e => e.2.kind == .writeBack && !e.2.performed && m.frames.contains (lineFrame e.2.line))).map (·.1)
  (s, { m with reqs := ids, beats := [], cmds := [] })

/-! ## Moving a page (R409) -/

def moveFrom (m : Move) : Nat := leafPa m.old 3 0 / 65536
def moveTo (m : Move) : Nat := leafPa m.entry 3 0 / 65536

/-- The lines of another device that the copy still lacks. -/
def lacking (s : State) (m : Move) : List Nat :=
  if !isFar s (moveFrom m * 65536) then []
  else (List.range' (moveFrom m * 512) 512).filter (fun l => (tget m.remote l).isNone && !m.bad.contains l)

def moveCore (s : State) (m : Move) : Nat := match m.thrs with | t :: _ => thrCore s t | [] => 0

/-- Asks another device for the lines that the copy lacks. -/
def askLines (s : State) (id : Nat) (m : Move) : State :=
  (lacking s m).foldl (fun s l =>
    if s.reqs.any (fun e => e.2.copy == some (id, l)) then s
    else
      let (rid, s) := newId s
      launch s { id := rid, kind := .uc, core := moveCore s m, ctx := m.ctx, line := l, parts := [], due := 0,
                 copy := some (id, l) }) s

/-- Writes to another device that the move waits for. -/
def sendLines (s : State) (id : Nat) (m : Move) (bytes : List Byte) : State :=
  (List.range 512).foldl (fun s i =>
    let (rid, s) := newId s
    launch s { id := rid, kind := .write, core := moveCore s m, ctx := m.ctx, line := moveTo m * 512 + i, parts := [],
               mask := BitVec.allOnes 128, data := bufWriteN [] 0 ((bytes.drop (128 * i)).take 128), due := 0, leaf := m.entry,
               copy := some (id, moveTo m * 512 + i) }) s

/-- The earlier versions of the page's code that a fetch may still return (R30) are those of its blocks at the new place. -/
def carryCode (s t : State) (f g : Nat) : State :=
  let here := s.codePast.filter (fun e => e.block / 2048 != g)
  { t with codePast := here ++ (here.filter (fun e => e.block / 2048 == f)).map (fun e => { e with block := e.block % 2048 + g * 2048 }) }

/-- The copy, line by line; a poisoned word is copied poisoned. -/
def copyFrame (s : State) (id : Nat) (m : Move) : State :=
  let f := moveFrom m
  let g := moveTo m
  let s := dropFrame s f
  let bytes := if isFar s (f * 65536) then
      (List.range' (f * 512) 512).flatMap (fun l => bufReadN (tgetD m.remote l []) 0 128)
    else physRead s (f * 65536) 65536
  let lost := m.bad.flatMap (fun l => (List.range 32).map (fun i => l * 32 + i))
  let bad := (s.poison ++ lost).filter (fun w => w / 16384 == f)
  if isFar s (g * 65536) then sendLines s id m bytes
  else
    let s := carryCode s (unitWrite s (g * 65536) bytes) f g
    { s with poison := bad.foldl (fun l w => addSorted (w % 16384 + g * 16384) l) s.poison }

/-- A BARW.WAIT on a word of the page goes on at its new place. -/
def rehome (s : State) (m : Move) : State :=
  s.threads.foldl (fun s e =>
    let t := refOf e.1
    match e.2.stat with
    | .waiting (.barw w) =>
      if w.ab.isNone && thrCtx s t == m.ctx && w.va / 65536 == m.va / 65536 then
        let w' := { w with loc := moveTo m * 65536 + w.loc % 65536, watched := false }
        let s := modThr (dropWatcher s t) t (fun th => { th with stat := .waiting (.barw w') })
        if w.watched then schedule s s.now (.barwPoll t) else s
      else s
    | _ => s) s

/-- The end of a move: the new record, the entry with A and D of the old one, the old record, the page's monitors; held
accesses then go on. -/
def remap (s : State) (m : Move) : State :=
  let f := moveFrom m
  let g := moveTo m
  let s := touchFrames s [f, g]
  let bad := match frameIndex (f * 65536) with | some i => recPoison (frameRec s i) | none => false
  let s := modFrame s g (fun r => putBits (putBits (putBits (putBits r 0 16 1) 32 6 m.ctx) 16 1 (b2n bad)) 17 1 0)
  let old := if isFar s m.entryAt then m.old else entryWord s m.entryAt
  let s := unitPutNat s m.entryAt 8 ((m.entry &&& ~~~(0x60000#64)) ||| (old &&& 0x60000#64)).toNat
  let s := modFrame s f (fun r => putBits (putBits r 0 16 0) 17 1 0)
  let s := (List.range' (f * 512) 512).foldl wakeLine s
  rehome s m

/-- What waited for a page that moved, or under 0 for a module: threads, copies, queues and host writes. -/
def releasePage (s : State) (id : Nat) : State :=
  let s := wakeWhere s (fun w => w == .page id)
  let s := unblockBeats s (fun _ => true)
  let s := (s.quads.map (·.1)).foldl slipGo s
  let s := schedule s s.now lookAgain
  s.waiting.foldl (fun s e => scheduleOnce s s.now e) { s with waiting := [] }

/-! ## The course of a page instruction -/

/-- The instruction ends: its threads receive the result and go on. -/
def finishPage (s : State) (id : Nat) (m : Move) (v : Word64) : State :=
  let s := { s with moves := tdel id s.moves }
  let pair := match m.kind with | .dirty _ => true | _ => false
  let s := m.thrs.foldl (fun s t =>
    match (thrOf s t).stat with
    | .waiting (.pageOp i) =>
      if i = id then
        let s := modThr s t (fun th => if pair then putPair th m.dst v else putReg th m.dst (lo32 v))
        advance s t ((thrOf s t).pc + BitVec.ofNat 64 m.len)
      else s
    | _ => s) s
  settleMoves s

def setMove (s : State) (id : Nat) (m : Move) : State := { s with moves := tput id m s.moves }

/-- Frames that fell to 0 are returned (R397). -/
def returnFrames (s : State) (m : Move) : State :=
  m.zeroed.foldl (fun s x =>
    let (id, s) := newId s
    let r : Move := { kind := .frame, ctx := m.ctx, va := x.2, frames := [x.1], stage := 1 }
    scheduleOnce (setMove s id r) s.now (.frameReturn x.1 (BitVec.ofNat 64 x.2))) s

/-- Whether an instruction in progress has to wait before its next part. -/
def pageBlocked (s : State) (id : Nat) (m : Move) : Bool :=
  match m.stage with
  | 0 => m.thrs.any (fun t => (reqsOf s t).any (fun r => !r.performed)) || onMovingPage s id m || onMovingFrame s m
  | 1 => stillUsed s m
  | 2 => m.reqs.any (fun i => match tget s.reqs i with | some r => !r.performed | none => false)
  | 3 => (pinnedLines s).any (fun l => lineFrame l == moveFrom m) || s.recalls.any (fun e => lineFrame e.2.line == moveFrom m)
      || s.reqs.any (fun e => match e.2.copy with | some x => x.1 == id | none => false)
  | _ => s.reqs.any (fun e => match e.2.copy with | some x => x.1 == id | none => false)

/-- The context whose translations a shootdown drops: that of the source for PGSHARE. -/
def shotCtx (m : Move) : Nat := match m.kind with | .share _ => m.ctx2 | _ => m.ctx

/-- A BARW.WAIT that reads its word through an entry dropped translates again: its threads execute it anew (R400). PGMOVE takes its waiters
with it, and PGDIRTY drops no entry for good. -/
def stirBarw (s : State) (ctx : Nat) (m : Move) : State :=
  match m.kind with
  | .move | .dirty _ => s
  | _ => s.threads.foldl (fun s e =>
    let t := refOf e.1
    match e.2.stat with
    | .waiting (.barw w) =>
      if w.ab.isNone && thrCtx s t == ctx && m.pages.contains (w.va / 65536) then makeReady (dropWatcher s t) t else s
    | _ => s) s

/-- The next part of an instruction in progress: it acts; the shootdown's accesses; its write-backs; the copy; the end. -/
def pageStage (s : State) (id : Nat) (m : Move) : State :=
  match m.stage with
  | 0 =>
    let a := actPage s m
    let a := { a with s := { a.s with farReads := [] } }
    if a.status ≠ 0 then finishPage a.s id m (BitVec.ofNat 64 a.status)
    else if a.m.pages.isEmpty then
      finishPage (if m.kind = .dirty false then tlbDropRange a.s (shotCtx a.m) (m.va / 65536) 64 else a.s) id a.m a.m.result
    else
      let c := shotCtx a.m
      let s := match m.kind with
        | .dirty _ => tlbDropRange a.s c (m.va / 65536) 64
        | _ => tlbDrop a.s c (fun v => a.m.pages.contains v)
      setMove (stirBarw s c a.m) id { usedBy s c a.m with stage := 1 }
  | 1 =>
    let r := flushFrames s m
    setMove r.1 id { r.2 with stage := 2 }
  | 2 =>
    if m.kind = .move then setMove s id { m with stage := 3 }
    else finishPage (returnFrames s m) id m m.result
  | 3 =>
    match (s.spans.filter (fun x => !localAgent x.agent && lineFrame x.line == moveFrom m)) with
    | x :: _ => (recallRemote s x.line 0xFFFFFFFF#32 (.pageMoveComplete id)).getD s
    | [] =>
      if (lacking s m).isEmpty then setMove (copyFrame s id m) id { m with stage := 4 } else askLines s id m
  | _ => releasePage (finishPage (remap s m) id m 0#64) id

/-- The first entry at another die's home that an instruction has still to read there; only a T1 has tables at such a die (R389, R433). -/
def farTables (s : State) (m : Move) : Option Nat :=
  if !s.t1 || m.stage != 0 then none
  else (named m).findSome? (fun x => (List.range x.2.2).findSome? (fun i => farEntry s x.1 ((x.2.1 + i) * 65536)))

/-- Carries an instruction on until it waits or ends. -/
def pageRun : Nat → State → Nat → State
  | 0, s, _ => s
  | n + 1, s, id =>
    match tget s.moves id with
    | none => s
    | some m =>
      let s := match m.kind, m.stage with | .leaf level, 0 => touchFrames s (counted m.entry level) | _, _ => s
      if m.kind == .frame || pageBlocked s id m then s
      else match farTables s m with
        | some a => askFar s (some (moveCore s m)) (a / 128)
        | none => pageRun n (pageStage s id m) id

/-- PAGE_MOVE_COMPLETE: an instruction in progress looks again at what it waits for. -/
def execPageMoveComplete (id : Nat) (s : State) : Out := .next (pageRun 16 s id)

/-! ## The page instructions (R403, R405) -/

/-- The context and address that an address register names. -/
def pageName (s : State) (t : ThrRef) (x : Word64) : Option (Nat × Nat) :=
  if isUser (teamOf s t.team) then
    (if bits x 56 8 = 0 then some ((teamOf s t.team).ctx, x.toNat) else none)
  else if bits x 56 2 = 0 then some (bits x 58 6, bits x 0 56) else none

/-- The unit to which the addresses of a form are aligned. -/
def pageUnit (k : PageKind) : Nat :=
  match k with
  | .leaf level => if level = 2 then 2 ^ 26 else 65536
  | .dirty _ => 2 ^ 22
  | _ => 65536

/-- The checks of the address registers in order, and the operation they name. -/
def pageOpen (k : PageKind) (b : Base) (p : Packet) (t : ThrRef) (s : State) : Except Flt Move :=
  let x := thrSreg s t b.sa.toNat
  let y := thrSreg s t b.sb.toNat
  let two := match k with | .share _ => true | _ => false
  match pageName s t x, (if two then pageName s t y else some (0, 0)) with
  | some (c, va), some (c2, va2) =>
    if va % pageUnit k ≠ 0 then .error (fltAt fMISALIGN x)
    else if va2 % pageUnit k ≠ 0 then .error (fltAt fMISALIGN y)
    else .ok
      { kind := k, ctx := c, va := va, ctx2 := c2, va2 := va2, user := isUser (teamOf s t.team), entry := y,
        count := bits y 0 17, dst := b.dst.toNat, len := p.len }
  | none, _ => .error (fltAt fPAGE_PERM x)
  | _, none => .error (fltAt fPAGE_PERM y)

/-- A page instruction acts once for each packet. Its threads wait until it has completed, its shootdown included. -/
def pageForm (k : PageKind) (kd : Nat) (priv : Bool) (b : Base) (s : State) : Out :=
  let o := baseOpnds b 0 0 kd priv
  let id := s.nextId
  let r := oncePerPacket o noIll (fun p t s =>
    match pageOpen k b p t s with
    | .error f => .fault f
    | .ok m =>
      let (i, s) := newId s
      .wait (setMove s i { m with thrs := p.refs.filter (takesPart o s) }) (.pageOp i)) (fun _ s => s) s
  match r with
  | .next s => .next (pageRun 16 s id)
  | x => x

def execPgmapLeaf (b : Base) (e1 : Word32) (s : State) : Out := pageForm (.leaf (e1.toNat % 4)) 1 true b s
def execPgmapTable (b : Base) (e1 : Word32) (s : State) : Out := pageForm (.table (e1.toNat % 4)) 1 true b s
def execPgshare (b : Base) (s : State) : Out := pageForm (.share false) 1 false b s
def execPgshareCow (b : Base) (s : State) : Out := pageForm (.share true) 1 false b s
def execPgunshare (b : Base) (s : State) : Out := pageForm .unshare 1 false b s
def execPgmove (b : Base) (s : State) : Out := pageForm .move 1 true b s
def execPginv (b : Base) (s : State) : Out := pageForm (.inv 0) 1 true b s
def execPginvAbs (b : Base) (s : State) : Out := pageForm (.inv 1) 1 true b s
def execPginvTlb (b : Base) (s : State) : Out := pageForm (.inv 2) 1 true b s
def execPgdirty (b : Base) (s : State) : Out := pageForm (.dirty false) 2 true b s
def execPgdirtyPeek (b : Base) (s : State) : Out := pageForm (.dirty true) 2 true b s

/-! ## The return of a frame (R397) -/

/-- The item of a frame return queue. -/
def frameItem (f : Nat) (bad : Bool) (va : Nat) : List Byte :=
  leBytes (b2n bad + f % 2 ^ 36 * 2 ^ 16) 8 ++ leBytes va 8 ++ List.replicate 48 0#8

/-- FRAME_RETURN: once Pug pins no line of the frame, the homes write back and drop its lines, and the owner receives it. -/
def execFrameReturn (frame : Nat) (va : Word64) (s : State) : Out :=
  match s.moves.find? (fun e => e.2.kind == .frame && e.2.frames == [frame] && e.2.va == va.toNat) with
  | none => .next s
  | some e =>
    if (pinnedLines s).any (fun l => lineFrame l == frame) then .next s
    else
      let s := touchFrames (dropFrame { s with moves := tdel e.1 s.moves } frame) [frame]
      let r := recOf s frame
      let x := ctxOf s (recOwner r)
      if sysqEn x 44 then
        .next (produce s (recOwner r) (sysqNum x 32) (.frame (frame * 65536)) (frameItem frame (recPoison r) va.toNat))
      else .next s

/-! ## An uncorrectable error (R222, R401, R470) -/

/-- `n` more in the high half of a saturating counter pair. -/
def bumpHigh (n : Nat) (x : Word64) : Word64 := putBits x 32 32 (min (2 ^ 32 - 1) (bits x 32 32 + n))

/-- `n` more in the low half of a saturating counter pair. -/
def bumpLow (n : Nat) (x : Word64) : Word64 := putBits x 0 32 (min (2 ^ 32 - 1) (bits x 0 32 + n))

/-- The counter pair of the tier in which a line stands (R470): SECNT of a slice's tower counts words, where Saggar holds the line as
memory, in the cache or in the KV reserve; HBMCNT of the stack's tower counts errors. -/
def countTier (s : State) (line words : Nat) (f : Nat → Word64 → Word64) : State :=
  match rangeOf (line * 128), tget s.cache line with
  | .pinned, _ => modTower s (pinnedTower (line * 128)) (fun x => { x with secnt := f words x.secnt })
  | .hbm, some c => modTower s (sliceTower c.slice) (fun x => { x with secnt := f words x.secnt })
  | .hbm, none => modTower s (line * 128 / 0x1000000000) (fun x => { x with hbmcnt := f 1 x.hbmcnt })
  | _, _ => s

/-- A word of a buffer is poisoned (R222, R468): space 0 is the A-buffer, 1 the W-buffer, 2 the C-buffer. -/
def poisonBuffer (s : State) (k space word : Nat) : State :=
  modTeam s k (fun tm => match space with
    | 0 => { tm with apoison := addSorted word tm.apoison }
    | 1 => { tm with wpoison := addSorted word tm.wpoison }
    | _ => { tm with cpoison := addSorted word tm.cpoison })

/-- A line that a core has changed is lost: the home that another device is poisons it, told by a beat that writes nothing (DESIGN
CHOICE, log entry 95). -/
def poisonFar (s : State) (core line : Nat) : State :=
  let (id, s) := newId s
  let tag := (freeTag s core).getD 0
  let r : Req := { id := id, kind := .write, core := core, ctx := 0, line := line, parts := [], due := s.now, serve := s.now, out := true, tag := tag }
  { s with
    reqs := tput id r s.reqs
    sent := s.sent ++ [.beat (farAgent s (line * 128)) core tag (farLine line) 0 0#128 [] (BitVec.allOnes 32)] }

/-- A parity error in L1 (R468): a clean line is refetched, which drops the copy; a dirty or owned line is poisoned at its home. -/
def l1Parity (s : State) (core line : Nat) : State :=
  let l := l1Of s core line
  let s := modL1 s core line (fun _ => {})
  if l.own = 0#32 ∧ l.dirty = 0#128 then s
  else if isFar s (line * 128) then poisonFar s core line
  else
    let s := { s with spans := s.spans.filter (fun x => !(x.line == line && x.agent == coreAgent core && x.sub == core)) }
    poisonWords s line 0xFFFFFFFF#32

/-- HOME_UNCORRECTABLE_ERROR: the line is poisoned in place, with its frame record and one fault record; and what the checks of the
other memories find (R131, R468), with the counters of R470. -/
def execHomeUncorrectableError (site : ErrSite) (s : State) : Out :=
  match site with
  | .tier line words => .next (poisonWords (countTier s line words bumpHigh) line 0xFFFFFFFF#32)
  | .tierFixed line words => .next (countTier s line words bumpLow)
  | .buffer k space word =>
    if (tget s.teams k).isNone then .next s
    else .next (poisonBuffer (modTower s (coreTower (teamOf s k).core) (fun x => { x with bufcnt := bumpHigh 1 x.bufcnt })) k space word)
  | .bufferFixed t => .next (modTower s t (fun x => { x with bufcnt := bumpLow 1 x.bufcnt }))
  | .reg t r =>
    if (tget s.threads (thrKey t)).isNone || r == 0 || !(regOf (thrOf s t) r).full then .next s
    else
      let s := modTower s (coreTower (thrCore s t)) (fun x => { x with parcnt := bumpHigh 1 x.parcnt })
      .next (modThr s t (fun th => putReg th r (regVal th r) true))
  | .l1 core line =>
    if 4096 ≤ core || (tget (coreOf s core).l1 line).isNone then .next s
    else .next (l1Parity (modTower s (coreTower core) (fun x => { x with parcnt := bumpLow 1 x.parcnt })) core line)

end Sys2Proof.Machine
end

