-- ==== Sys2Proof/Machine/Topology.lean ====
section
/-! DEFINITION. The topology table (R434, R435), requests that complete as unreachable (R420), agents that fail (R431), and
what a lost slice held (R438). -/

namespace Sys2Proof.Machine

def kilnUp (s : State) : Bool := s.kiln.down.isNone

/-! ## The topology table (R434, R435) -/

def agentCode (x : AgentState) : Nat :=
  match x with
  | .active => 0
  | .failed => 1
  | .refused => 2
  | .absent => 3

/-- The masks of towers online and lost. -/
def towerMask (s : State) (p : Tower → Bool) : Nat :=
  (List.range 8).foldl (fun a t => if p (towerOf s t) then a + 2 ^ t else a) 0

/-- Entry d of the fabric device table. -/
def fxEntry (s : State) (d : Nat) : Nat :=
  (match tget s.fx d with
   | some a => a.inc.toNat + agentCode a.state * 2 ^ 16
   | none => if d = s.fxself then 0 else 3 * 2 ^ 16) + (if d = s.fxself then 2 ^ 18 else 0)

/-- Byte `o` of the table, from offset 8 on. -/
def topoByte (s : State) (o : Nat) : Nat :=
  let lost := deadTowers s
  if o < 0x10 then
    (0x01 + towerMask s (fun t => t.tstate == 0#2) * 2 ^ 8 + towerMask s (fun t => t.tstate == 3#2) * 2 ^ 16
      + s.agents.length * 2 ^ 24) / 256 ^ (o - 8) % 256
  else if o < 0x40 then (if o < 0x18 then s.fxself / 256 ^ (o - 0x10) % 256 else 0)
  else if o < 0x80 then hops lost ((o - 0x40) / 8) ((o - 0x40) % 8)
  else if o < 0xC0 then nextTower lost ((o - 0x80) / 8) ((o - 0x80) % 8)
  else if o < 0x100 then 0
  else if o < 0x2100 then
    match s.agents[(o - 0x100) / 16]? with
    | some (id, a) =>
      agentEntry id a.kind a.inc.toNat (agentCode a.state) a.tower a.edge a.unit a.units / 256 ^ ((o - 0x100) % 16) % 256
    | none => 0
  else if o < 0x3100 then
    tgetD s.remap ((o - 0x2100) / 2) ((o - 0x2100) / 2) / 256 ^ ((o - 0x2100) % 2) % 256
  else fxEntry s ((o - 0x3100) / 8) / 256 ^ ((o - 0x3100) % 8) % 256

/-- Kiln republishes the table: GEN odd, the entries, GEN even. Routes and latencies follow it from then on (R11). While Kiln is down it
does not (R422), and has it to do when it is back. -/
def republish (s : State) : State :=
  if !kilnUp s then { s with kiln := { s.kiln with unpublished := true } }
  else
    let g := memNat s.mem (cellOf s s.topoBase) 4
    let s := unitWrite s s.topoBase (leBytes (g + 1) 4)
    let s := unitWrite s (s.topoBase + 8) ((List.range (0x4100 - 8)).map (fun i => BitVec.ofNat 8 (topoByte s (i + 8))))
    { unitWrite s s.topoBase (leBytes (g + 2) 4) with routed := deadTowers s }

/-! ## Unreachable (R420) -/

def loseWrite (s : State) (t : ThrRef) : State :=
  match (thrOf s t).stat with
  | .exited => s
  | _ => modThr s t (fun th => { th with linklost := true })

/-- A store, write-back or reduction is dropped: LINKLOST is set in its thread, for a write-back in the threads whose stores it carries
and those whose release waits for it, and a copy or collective fails. -/
def dropStore (s : State) (r : Req) : State :=
  let ts := r.parts.filterMap (·.thr) ++ r.writers
    ++ (s.threads.filter (fun e => match e.2.rel with | some l => l.ids.contains r.id | none => false)).map (fun e => refOf e.1)
  let s := ts.foldl loseWrite { s with reqs := tdel r.id s.reqs }
  let s := match r.copy with
    | some (c, _) => (match copyOfId s c with | some c => endCopy s c .failed | none => s)
    | none => s
  let s := match s.colls.find? (fun e => e.2.outs.contains r.id) with
    | some e => endColl s e.2 .failed
    | none => s
  afterServe (if r.bar4.isSome then scheduleOnce s s.now lookAgain else s)

/-- Another die's home has answered a walker, a fetch or a unit: what waited looks again. -/
def walkAnswer (s : State) (r : Req) (bytes : List Byte) (bad : Bool) : State :=
  let s := { s with reqs := tdel r.id s.reqs }
  let s := if r.kind = .uc then
      { dropFarReads s [r.line] with farReads := { line := r.line, bytes := bytes, bad := bad } :: (dropFarReads s [r.line]).farReads }
    else s
  settleMoves (releasePage s 0)

/-- The line of another device that a host read has asked for does not come: the read is looked at again, with the code that ends it. -/
def bar4Fails (s : State) (r : Req) (code : Nat) : State :=
  match r.bar4 with
  | some (fn, off, size) =>
    if r.performed then s
    else
      let r := { r with performed := true, parts := r.parts.map (fun p => { p with got := some (code, true) }) }
      schedule { s with reqs := tput r.id r s.reqs } s.now (.hostBar4Read fn { bar := 4, off := off } size)
  | none => s

/-- A request completes as unreachable. -/
def unreachable (s : State) (r : Req) : State :=
  match r.kind with
  | .write | .writeBack | .reduce => dropStore s r
  | .prefetch | .disarm => { s with reqs := tdel r.id s.reqs }
  | .arm => farTriggered s r
  | _ =>
    if r.kind = .own ∧ r.aop = 1 then dropStore s r
    else if r.walk then walkAnswer s r (List.replicate 128 0#8) true
    else if r.bar4.isSome then bar4Fails s r fLINK_DOWN
    else match r.copy with
      | some (c, l) =>
        let s := { s with reqs := tdel r.id s.reqs }
        (match tget s.moves c with
         | some m => schedule { s with moves := tput c { m with bad := l :: m.bad } s.moves } s.now (.pageMoveComplete c)
         | none => match copyOfId s c, collOf s c with
           | some c, _ => endCopy s c .failed
           | none, some c => endColl s c .failed
           | none, none => pugTake s l c r.line [] false true)
      | none => performed s { r with serve := 0, parts := r.parts.map (fun p => { p with got := some (0, true) }) }

/-- A request of this device that has not ended: it waits at its sender, is on its way, or has not come back. An atomic that its home
has performed is none, because the line of one that completes as unreachable is unchanged (R420). -/
def underWay (r : Req) : Bool := (r.serve != 0 || r.kind == .arm) && !((isStore r || r.kind == .atomic) && r.performed && !r.out)

/-- One that has gone out and not come back. -/
def inFlight (s : State) (r : Req) : Bool :=
  underWay r && !s.waiting.any (fun e => e == serveEvent r || e == .loadReturn r.id)

/-- Completes the requests in flight that `p` picks; where a request stands on its way is not known, so that each is or is not
among them (log entry 11). -/
def losePicked (s : State) (p : State → Req → Bool) : State :=
  (s.reqs.filter (fun e => inFlight s e.2 && p s e.2)).foldl (fun s e =>
    let (k, s) := newFresh s
    match tget s.reqs e.1 with
    | some r => if Config.freeBit k then unreachable s r else s
    | none => s) s

/-- And those that surely depend on what was lost, those that wait at their sender among them. -/
def loseAll (s : State) (p : State → Req → Bool) : State :=
  (s.reqs.filter (fun e => underWay e.2 && p s e.2)).foldl (fun s e =>
    match tget s.reqs e.1 with
    | some r => unreachable s r
    | none => s) s

/-- Lines that Pug fetches and beats that Slip writes over what was lost: the command fails (R270, R315). What is lost with its home
is `sure`; on a module, where it stands is not known. -/
def loseEngines (s : State) (sure : Bool) (p : State → Nat → Nat → Word64 → Bool) : State :=
  let s := s.quads.foldl (fun s q => q.2.me.foldl (fun s e =>
    e.need.foldl (fun s line =>
      let (k, s) := newFresh s
      if p s (quadTower q.1) (line * 128) (lineLeaf e line) && (sure || Config.freeBit k) then
        kickEngine (modCmd s q.1 e.id (fun c =>
          { c with need := c.need.filter (· != line), lines := tput line [] c.lines, lost := line :: c.lost })) q.1
      else s) s) s) s
  s.copies.foldl (fun s c =>
    let (k, s) := newFresh s
    if (sure || Config.freeBit k) && c.2.beats.any (fun b => !b.unread && b.member.isNone && p s (coreTower c.2.core) b.pa b.leaf) then
      (match copyOfId s c.1 with | some c => endCopy s c .failed | none => s)
    else s) s

/-! ## Agents (R426, R431) -/

/-- The record of an agent id: a die of the package, or a device of the fabric. -/
def agentOf (s : State) (a : Nat) : Option Agent := if 0xE00 ≤ a then tget s.fx (a - 0xE00) else tget s.agents a

def setAgent (s : State) (a : Nat) (x : Agent) : State :=
  if 0xE00 ≤ a then { s with fx := tput (a - 0xE00) x s.fx } else { s with agents := tput a x s.agents }

def modAgent (s : State) (a : Nat) (f : Agent → Agent) : State :=
  match agentOf s a with
  | some x => setAgent s a (f x)
  | none => s

/-- Whether an agent homes the line of a request: a remote device, or the tower of its home slice. -/
def homesAt (s : State) (a pa : Nat) (leaf : Word64) : Bool :=
  if isFar s pa then farAgent s pa == a else 0x10 + sliceTower (homeSlice s pa leaf) == a

def homedAt (s : State) (a : Nat) (r : Req) : Bool := homesAt s a (r.line * 128) r.leaf

/-- The message of an event, and the agent whose request it is when it looks again at this device. -/
def eventMsg : Instr → Option Msg
  | .readSiWt m | .readOwn m | .readUc m | .write m | .writeBack m | .atomic m | .reduce m | .armMonitor m | .dropMonitor m
  | .copyBeat m | .tierRead m | .tierWrite m | .data m | .response m | .recallMsg m => some m
  | _ => none

/-- An event that holds a message of an agent which this device has accepted: it stands at its home, or at the hub. -/
def eventOf (a : Nat) (i : Instr) : Bool :=
  match eventMsg i with
  | some m => m.src == a && (m.blk == 0 || m.blk == 0xFFF)
  | none => false

/-- The agent to which a message goes. -/
def sentTo (x : Sent) : Option Nat :=
  match x with
  | .response a _ _ _ _ => some a
  | .data a _ _ _ _ _ => some a
  | .recallOf a _ _ _ _ => some a
  | .request a _ _ _ _ _ _ _ => some a
  | .beat a _ _ _ _ _ _ _ => some a
  | .control a _ _ _ => some a
  | .hostData _ _ => none
  | .completerAbort _ => none
  | .managed _ => none
  | .configRetry _ => none

/-- The steps of R431 at the homes: the agent's spans are lost and their words poisoned in place, its requests are discarded, and
requests to lines that it homes complete as unreachable. -/
def agentGone (s : State) (a : Nat) : State :=
  let gone := s.spans.filter (fun x => x.agent == a)
  let s := { s with spans := s.spans.filter (fun x => x.agent != a) }
  let s := gone.foldl (fun s x => if isFar s (x.line * 128) then s else poisonWords s x.line x.words) s
  let s := { s with
    recalls := s.recalls.filter (fun e => e.2.agent != a)
    msgData := s.msgData.filter (fun e => e.2.src != a)
    outbox := s.outbox.filter (fun e => sentTo e.msg != some a)
    waiting := s.waiting.filter (fun e => !eventOf a e)
    timers := (s.timers.map (fun e => (e.1, e.2.filter (fun i => !eventOf a i)))).filter (fun e => !e.2.isEmpty)
    hubIn := s.hubIn.filter (fun e => e.2.src != a)
    watchers := (s.watchers.map (fun e => (e.1, e.2.filter (fun w => match w with | .agent b _ _ => b != a | _ => true)))).filter
      (fun e => !e.2.isEmpty) }
  let s := loseEngines (loseAll s (fun s r => homedAt s a r)) true (fun s _ pa leaf => homesAt s a pa leaf)
  modAgent s a (fun x => { x with state := .failed, hello := none })

/-- Kiln sends FAILED to every home: the compute dies, and integrator dies that home memory. -/
def sendFailed (s : State) (a : Nat) : State :=
  if !kilnUp s then s
  else (s.agents.filter (fun e => e.1 != a && e.2.state == .active && (e.2.kind == 0 || e.2.kind == 4))).foldl
    (fun s e => sendControl s e.1 6 (BitVec.ofNat 64 a)) s

/-- An agent fails: the homes are told and act, and the topology table shows it. -/
def failAgent (s : State) (a : Nat) : State := releasePage (interrupt (republish (agentGone (sendFailed s a) a)) 0 2) 0

/-- FAILED: Kiln tells the homes that an agent failed. -/
def execFailed (a : Nat) (s : State) : Out :=
  match agentOf s a with
  | some x => if x.state = .active ∧ kilnUp s then .next (failAgent s a) else .next s
  | none => .next s

def linkDead (s : State) (blk : Nat) : Bool :=
  let st := (linkAt s blk).state
  st == .error || st == .failed || st == .down

/-- Agents that no module reaches any more. -/
def cutOff (s : State) : List Nat :=
  let towers := (List.range 8).filter (fun t => [0, 1, 3].all (fun e => (List.range (edgeModules e)).all (fun m => linkDead s (towerBlk t e m))))
  let bridges := (List.range 8).filter (fun t => (List.range 8).all (fun m => linkDead s (towerBlk t 2 m)))
  let dies := (s.agents.filter (fun e => decide (0x100 ≤ e.1) && (List.range (edgeModules e.2.edge)).all (fun m =>
    linkDead s (towerBlk e.2.tower e.2.edge m)))).map (·.1)
  let ports := (List.range 32).all (fun p => linkDead s (portBlk p))
  towers.map (fun t => 0x10 + t) ++ bridges.map (fun t => 0x20 + t) ++ dies ++ (if ports then s.fx.map (fun e => 0xE00 + e.1) else [])

def failCutOff (s : State) : State :=
  (cutOff s).foldl (fun s a =>
    match agentOf s a with
    | some x => if x.state = .active then scheduleOnce s s.now (.failed a) else s
    | none => s) s

/-! ## Modules that leave service (R420) -/

/-- Both ends of a module take a change. -/
def modEnds (s : State) (blk : Nat) (f : LinkEnd → LinkEnd) : State := (ends s blk).foldl (fun s b => modLink s b f) s

def crosses (s : State) (p : List (Nat × Nat)) (blk : Nat) : Bool := p.any (fun x => (ends s blk).any (fun b => x.1 == b || x.2 == b))

/-- What waited at its sender for a module that has failed completes as unreachable too (R494), and messages that waited for it are gone. -/
def loseWaiting (s : State) (blk : Nat) : State :=
  let s := loseAll s (fun s r => !inFlight s r && crosses s (reqPath s r) blk)
  { s with outbox := s.outbox.filter (fun m => !crosses s m.path blk) }

/-- A module leaves service (R420): what was on it and not delivered completes as unreachable. -/
def outOfService (s : State) (blk : Nat) (st : LinkState) : State :=
  let s := losePicked s (fun s r => crosses s (reqPath s r) blk)
  let s := if st = .failed then loseWaiting s blk else s
  let s := loseEngines s false (fun s tower pa leaf => crosses s (pathOf s tower pa leaf) blk)
  failCutOff (modEnds s blk (fun x => { x with state := st }))

/-! ## What a slice held (R438, R462) -/

/-- The lines of a unit's part of the pinned window (R207), if the unit is pinned. -/
def unitLines (s : State) (t u : Nat) : List Nat :=
  let a := pinBase + t * pinTower + u * 0x4000000
  if pinnedBacked s a then List.range' (a / 128) 0x80000 else []

/-- The lines of the pinned window that slices of `p` home. -/
def pinnedOf (s : State) (p : Nat → Bool) : List Nat :=
  ((List.range 8).flatMap (fun t => (List.range 48).flatMap (unitLines s t))).filter (fun l => p (homeSlice s (l * 128) 0#64))

/-- Slices are lost: their virtual slices go where `dest` says, clean cached lines are dropped, and dirty lines, KV reserve lines
and pinned lines are poisoned at their new homes. -/
def loseSlices (s : State) (p : Nat → Bool) (dest : Nat → Nat) : State :=
  let held := s.cache.filter (fun e => p e.2.slice && decide (e.1 < 2 ^ 46))
  let bad := (held.filter (fun e => e.2.dirty || e.2.reserve)).map (·.1) ++ pinnedOf s p
  let s := { s with cache := s.cache.filter (fun e => !p e.2.slice) }
  let s := { s with remap := (List.range 2048).foldl (fun m v =>
    let x := tgetD m v v
    if p x then tset v v (dest v) m else m) s.remap }
  bad.foldl (fun s l => poisonWords s l 0xFFFFFFFF#32) s

/-- The first slice of a list from `x` on, around the list, that is in use. -/
def sliceAfter (s : State) (ss : List Nat) (x : Nat) : Nat :=
  let ok := ss.filter (fun y => !(tgetD s.slices y {}).retired)
  ((ok.filter (fun y => decide (x < y))) ++ ok).headD x

end Sys2Proof.Machine
end

