-- ==== Sys2Proof/Machine/Link.lean ====
section
/-! DEFINITION. Messages (R416 to R420, R426 to R430, R440): what a module end accepts, requests of other agents and of this
device served at the homes (R213, R229, R230, R293), responses, data, recalls and copy beats, and the memory bridges. -/

namespace Sys2Proof.Machine

/-! ## Arrival of a flit (R416 to R419, R426, R430) -/

def bumpSat (x : Word32) : Word32 := if x = 0xFFFFFFFF#32 then x else x + 1

/-- A sequence gap or a credit violation: the bit of LKERR is set, and the module goes to ERROR (R418, R419, R421). -/
def linkError (s : State) (blk : Nat) (bit : BitVec 4) : State :=
  let s := (ends s blk).foldl (fun s b => unschedule s (.pauseAcknowledged b)) s
  outOfService (modLink s blk (fun x => { x with err := x.err ||| bit })) blk .error

/-- Whether flits arrive at an end: its module is ACTIVE or PAUSING. -/
def flitsArrive (s : State) (blk : Nat) : Bool :=
  blkOk s blk && ((linkAt s blk).state == .active || (linkAt s blk).state == .pausing)

/-- A flit of a virtual channel arrives at an end: one whose SEQ is not RXNEXT is dropped, as is one that comes without a credit. In
the package the other end has sent it; what it returns of credits follows from the counts there. -/
def flitIn (s : State) (blk vc : Nat) (seq : Half) (cret : BitVec 24) : Bool × State :=
  let x := linkAt s blk
  if !flitsArrive s blk then (false, s)
  else if seq.toNat ≠ rxNext x vc then (false, linkError s blk 1#4)
  else if offered ≤ heldOf x vc then (false, linkError s blk 2#4)
  else match farEnd s blk with
    | some far => (true, countHop s far blk vc)
    | none => (true, drainOutbox (countRx s blk vc cret))

/-- Whether a DST names an agent that is assigned, or this device on the fabric (R426). -/
def dstKnown (s : State) (a : Nat) : Bool :=
  a == 0xE00 + s.fxself || (match agentOf s a with | some x => x.assigned && x.state != .absent | none => false)

def badId (s : State) (blk : Nat) : State := modLink s blk (fun x => { x with badid := bumpSat x.badid })

/-- Where a message of another device stands that has come through a port and not crossed from the hub to the tower that takes it. -/
def hubPlace : Nat := 0xFFF

/-- Whether the fields of a message fit its layout (R417). -/
def wireOk (m : Msg) : Bool := decide (m.tag < 1024 ∧ m.sub < 4096 ∧ m.line < 2 ^ 45)

/-- A message arrives at a module end: whether it is accepted. One whose block is 0 stands at its home already, and one at the hub has
been accepted before. What is dropped counts once for its flit. An id that comes from the wrong side, or of an absent agent, counts as
unassigned (DESIGN CHOICE, log entry 103). -/
def receive (s : State) (m : Msg) (vc : Nat) : Bool × State :=
  if m.blk = 0 ∨ m.blk = hubPlace then (true, s)
  else if !wireOk m || !flitsArrive s m.blk then (false, s)
  else
    let r := if m.later then (true, s) else flitIn s m.blk vc m.seq m.cret
    if !r.1 then r
    else
      let s := r.2
      let drop := fun (t : State) => (false, if m.later then s else t)
      match agentOf s m.src with
      | none => drop (badId s m.blk)
      | some a =>
        if isPort m.blk != decide (0xE00 ≤ m.src) || !a.assigned || a.state == .absent || !dstKnown s m.dst then drop (badId s m.blk)
        else if a.inc ≠ m.inc ∨ a.state = .refused then
          drop (modLink s m.blk (fun x => { x with stale := bumpSat x.stale, err := x.err ||| 4#4 }))
        else (true, s)

/-- The message as it stands at its home, and at the hub. -/
def atHome (m : Msg) : Msg := { m with blk := 0 }
def atHub (m : Msg) : Msg := { m with blk := hubPlace }

/-- A message from the fabric crosses from the hub to the tower that takes it, or waits at the hub (R414, R419). -/
def crossHub (s : State) (m : Msg) (vc t line : Nat) (wait : State → State) : Bool × State :=
  let p := [hubHop s t line]
  if m.blk = 0 ∨ m.src < 0xE00 then (true, s)
  else if pathReady s p [vc] [] then (true, countPath s p vc)
  else (false, wait s)

/-- The event by which what waits at the hub looks again: there is no recall 0. -/
def hubAgain : Instr := .recallTimeout 0

/-- A response, data or recall that crosses so: behind those of its channel that wait at the hub already. -/
def crossIn (s : State) (m : Msg) (vc t line : Nat) : Bool × State :=
  let wait := fun (s : State) =>
    { s with hubIn := s.hubIn ++ [(vc, atHub m)], waiting := if s.waiting.contains hubAgain then s.waiting else s.waiting ++ [hubAgain] }
  if m.blk ≠ 0 ∧ s.hubIn.any (fun e => e.1 == vc) then (false, wait s) else crossHub s m vc t line wait

/-- The tower of the slice that homes a line. -/
def homeTower (s : State) (line : Nat) : Nat := sliceTower (homeSlice s (line * 128) 0#64)

/-- A message arrives and comes to the home of its line: whether it stands there. -/
def toHome (s : State) (m : Msg) (vc : Nat) (again : Msg → Instr) : Bool × State :=
  let r := receive s m vc
  if r.1 then crossHub r.2 m vc (homeTower r.2 m.line) m.line (fun s => waitFor s (again (atHub m))) else r

/-! ## What a home sends -/

/-- The home of a line sends a message to the agent that asked. -/
def sendMsg (s : State) (m : Msg) (vc : Nat) (x : Sent) : State := post s (agentPath s m.src m.line) vc x

def respond (s : State) (m : Msg) (status : BitVec 3) (val : Word64) : State :=
  sendMsg s m 1 (.response m.src m.sub m.tag status val)

/-- Only the HBM and the pinned window of this device are served to other agents (R440). -/
def servable (s : State) (line : Nat) : Bool :=
  match rangeOf (line * 128) with
  | .hbm => true
  | .pinned => pinnedBacked s (line * 128)
  | _ => false

/-! ## The data of a request (R417) -/

/-- Where a message waits for its counterpart: under its sender, sub-agent and tag, by KIND; 15 is data. -/
def msgKey (m : Msg) (kind : Nat) : Nat := ((m.src * 4096 + m.sub) * 2 ^ 32 + m.tag) * 16 + kind

def takeData (s : State) (m : Msg) : State := { s with msgData := tdel (msgKey m 15) s.msgData }

/-! ## Requests of other agents -/

/-- The event of a request, by which it looks again. -/
def againAs (kind : Nat) (m : Msg) : Instr :=
  match kind with
  | 0 => .readSiWt m
  | 1 => .readOwn m
  | 2 => .readUc m
  | 3 => .write m
  | 4 => .writeBack m
  | 5 => .atomic m
  | 6 => .reduce m
  | 10 => .tierWrite m
  | _ => .armMonitor m

/-- Whose spans a request of another agent leaves as they are: an ownership request and a write-back those of their sender (R213). -/
def extSpares (kind : Nat) (m : Msg) : Option (Nat × Nat) := if kind = 1 ∨ kind = 4 then some (m.src, m.sub) else none

/-- Recalls the spans that a request of another agent touches. -/
def extRecall (s : State) (m : Msg) (words : BitVec 32) (kind : Nat) : Option State :=
  recallRemote s m.line words (againAs kind (atHome m)) (extSpares kind m)

/-- A read of another agent: the line's data, or STATUS 2 where it is poisoned. -/
def extRead (s : State) (m : Msg) : State :=
  let s := recallLocal s m.line m.wmask (some (m.src, m.sub))
  let s := touchHeld s m.line false
  if poisoned s m.line m.wmask then respond s m 2#3 0#64
  else sendMsg (respond s m 1#3 0#64) m 2
    (.data m.src m.sub m.tag m.line (bytesOf m.wmask) (physRead s (m.line * 128) 128))

/-- The oldest of four spans of a line that stay when a run of words is granted to an owner, where it is not recalled at once. -/
def roomOf (s : State) (line : Nat) (run : BitVec 32) (own : Option (Nat × Nat)) : Option Span :=
  match s.spans.filter (fun x => x.line == line && (spanOf own x || x.words &&& run == 0#32)) with
  | x :: r =>
    if r.length < 3 then none
    else
      let o := r.foldl (fun a y => if y.seq < a.seq then y else a) x
      if spanFar s o then some o else none
  | [] => none

/-- Ownership granted to another agent: the smallest run of words (R213). -/
def extOwn (s : State) (m : Msg) : State :=
  let run := coverRun m.wmask
  let s := makeSpanRoom (recallLocal s m.line run (some (m.src, m.sub))) m.line
  let (seq, s) := newId s
  let s := { s with spans := s.spans ++ [{ line := m.line, agent := m.src, sub := m.sub, words := run, seq := seq }] }
  extRead s { m with wmask := run }

/-- The byte of a data message at an offset of its line. -/
def msgBytes (d : Msg) : List (Nat × Byte) :=
  ((List.range 128).filter (fun i => d.mask.getLsbD i)).map (fun i => (i, d.data.getD i 0#8))

/-- A write or write-back of another agent. A write of a whole line clears the line's poison, as a fully coalesced store (R222; log
entry 68). -/
def extWrite (s : State) (whole : Bool) (m d : Msg) : State :=
  let s := recallLocal s m.line (maskWords d.mask) none
  let s := if whole && d.mask == BitVec.allOnes 128 then clearPoison s m.line else s
  respond (homeBytes (touchHeld s m.line true) m.line (msgBytes d)) m 0#3 0#64

/-- The operand of an atomic of another agent: the part of its line, with the new value of a CAS behind it (log entry 24). -/
def extPart (m d : Msg) : Part :=
  let off := match wordsOf m.wmask with | i :: _ => 4 * i | [] => 0
  let w := if m.w64 then 8 else 4
  { thr := none, off := off, width := w, val := leNat ((d.data.drop off).take w), nv := leNat ((d.data.drop (off + w)).take w) }

/-- The atomic unit on an operand of another agent; answers the old value. -/
def extAtom (s : State) (m d : Msg) : Nat × State :=
  let p := extPart m d
  let s := recallLocal s m.line (wordMask p.off p.width) none
  let old := leNat (physRead s (m.line * 128 + p.off) p.width)
  let s := touchHeld s m.line true
  if atomWrites m.aop.toNat old p.val then
    let s := physPut s (m.line * 128 + p.off) (leBytes (atomVal m.aop.toNat (8 * p.width) old p.val p.nv) p.width)
    (old, wakeLine (tierPut s m.line (rangeMask p.off p.width)) m.line)
  else (old, s)

/-- The width of an element of a reduction, and its new value: the operations of R228, and those of `reduceCode`. -/
def extWidth (m : Msg) : Nat := if m.aop = 15#4 then (if m.w64 then 4 else 2) else if m.w64 then 8 else 4
def extSum (m : Msg) (old b : Nat) : Nat :=
  if m.aop = 15#4 then reduceElem (if m.w64 then 2 else 1) true old b else atomVal m.aop.toNat (8 * extWidth m) old b 0

/-- A reduction of another agent: every element whose bytes its data carries, at its place (R230, R312). -/
def extReduce (s : State) (m d : Msg) : State :=
  let w := extWidth m
  let s := touchHeld (recallLocal s m.line (maskWords d.mask) none) m.line true
  let es := (List.range (128 / w)).filter (fun i => d.mask.getLsbD (i * w))
  let put := fun (s : State) (i : Nat) =>
    let o := i * w
    let old := leNat (physRead s (m.line * 128 + o) w)
    physSet s (m.line * 128 + o) (leBytes (extSum m old (leNat ((d.data.drop o).take w))) w)
  wakeLine (tierPut (es.foldl put (keepCode s (m.line * 128) 128)) m.line d.mask) m.line

/-- A request of another agent, by KIND, with its data where it carries some. An atomic or a reduction at a poisoned line is not
performed (R222). -/
def extServe (s : State) (kind : Nat) (m d : Msg) : State :=
  match kind with
  | 0 | 2 => extRead s m
  | 1 => extOwn s m
  | 3 | 4 => extWrite s (kind == 3) m d
  | 5 =>
    if poisoned s m.line 0xFFFFFFFF#32 then respond s m 2#3 0#64
    else
      let r := extAtom s m d
      respond r.2 m 0#3 (BitVec.ofNat 64 r.1)
  | 6 =>
    if poisoned s m.line 0xFFFFFFFF#32 then respond s m 2#3 0#64 else respond (extReduce s m d) m 0#3 0#64
  | _ => s

def withBytes (kind : Nat) : Bool := 3 ≤ kind && kind ≤ 6

/-- What a request touches at its home. -/
def extWords (kind : Nat) (m d : Msg) : BitVec 32 :=
  match kind with
  | 1 => coverRun m.wmask
  | 3 | 4 | 6 => maskWords d.mask
  | _ => m.wmask

/-- A request of another agent at its home: it waits for its data, and for the recalls that it makes. -/
def extRequest (kind : Nat) (m : Msg) (s : State) : Out :=
  let d := tget s.msgData (msgKey m 15)
  if withBytes kind && d.isNone then .next { s with msgData := tput (msgKey m kind) (atHome m) s.msgData }
  else if !servable s m.line then .next (respond (takeData s m) m 3#3 0#64)
  else
    let d := d.getD m
    match extRecall s m (extWords kind m d) kind with
    | some s => .next s
    | none =>
      match (if kind = 1 then roomOf s m.line (coverRun m.wmask) (extSpares 1 m) else none) with
      | some x => .next ((recallRemote s m.line x.words (againAs kind (atHome m))).getD s)
      | none =>
        let s := if withBytes kind then takeData s m else s
        .next (afterServe (extServe s kind m d))

/-- A flit of a die of this package arrives at a module end beside those that the other end has sent, which have all been counted at
both ends: a repeated or a lost one, whose SEQ is not RXNEXT (R418, R496). -/
def stray (s : State) (m : Msg) (vc : Nat) : State :=
  if flitsArrive s m.blk && m.seq.toNat != rxNext (linkAt s m.blk) vc then linkError s m.blk 1#4 else s

/-- A message of this device that does not stand at its home. -/
def onWire (m : Msg) : Bool := m.blk != 0 && m.blk != hubPlace

/-- A request message: this device's own is served for its core, and another agent's at its home. -/
def request (kind : Nat) (m : Msg) (ks : List ReqKind) (own : State → Req → Out) (s : State) : Out :=
  if localAgent m.src then
    if onWire m then .next (stray s m 0)
    else match ownReq s m ks with
    | some r => own s r
    | none => .next s
  else
    let r := toHome s m 0 (againAs kind)
    if r.1 then extRequest kind (atHome m) r.2 else .next r.2

def execReadSiWt (m : Msg) (s : State) : Out :=
  request 0 m [.read, .prefetch] (fun s r => serveOwn s r (fetchWords s r) (.readSiWt m) serveRead) s

/-- A fifth span first recalls the oldest, which may be another agent's. -/
def execReadOwn (m : Msg) (s : State) : Out :=
  request 1 m [.own, .prefetch] (fun s r =>
    match (if isFar s (r.line * 128) then none else roomOf s r.line (coverRun (reqWords r)) (sparedBy r)) with
    | some x => .next ((recallRemote s r.line x.words (.readOwn m)).getD s)
    | none => serveOwn s r (coverRun (reqWords r)) (.readOwn m) grantOwn) s

def execReadUc (m : Msg) (s : State) : Out :=
  request 2 m [.uc, .prefetch] (fun s r => serveOwn s r (reqWords r) (.readUc m) serveUc) s

def execWrite (m : Msg) (s : State) : Out := request 3 m [] (fun s _ => .next s) s

def execWriteBack (m : Msg) (s : State) : Out :=
  request 4 m [.writeBack] (fun s r => serveOwn s r (maskWords r.mask) (.writeBack m) serveWrite) s

def execAtomic (m : Msg) (s : State) : Out :=
  request 5 m [.atomic] (fun s r => serveOwn s r (reqWords r) (.atomic m) serveAtomic) s

def execReduce (m : Msg) (s : State) : Out :=
  request 6 m [.reduce] (fun s r => serveOwn s r (reqWords r) (.reduce m) serveReduce) s

/-! ## Monitors (R210, R293) -/

/-- Whether a thread waits for the registration of its watcher at another die's home: by MONITOR, or at a BARW.WAIT. -/
def armAsked (s : State) (t : ThrRef) (line : Nat) : Bool :=
  (thrOf s t).mon == .arming line
    || (match (thrOf s t).stat with | .waiting (.barw w) => !w.watched && w.loc / 128 == line | _ => false)

/-- The registration goes out as a request, and the home's answer to it is the trigger. Later requests of the core to the line follow it
on their way and are served after it (R427). -/
def armFar (m : Msg) (s : State) : Out :=
  let t := refOf m.tag
  if !armAsked s t m.line then .next s
  else
    let r : Req :=
      { id := s.nextId, kind := .arm, core := m.sub, ctx := thrCtx s t, line := m.line, parts := [], due := s.now, performed := true
        watch := some t }
    if !pathReady s (reqPath s r) (outChans r) [] || (freeTag s m.sub).isNone then .next (waitFor s (.armMonitor m))
    else
      let s := sendOut (countOut { s with nextId := s.nextId + 1 } r) r
      let s := match (thrOf s t).stat with
        | .waiting (.barw w) => modThr s t (fun th => { th with stat := .waiting (.barw { w with watched := true }) })
        | _ => modThr s t (fun th => { th with mon := .armed m.line })
      .next (afterServe s)

/-- ARM_MONITOR: the registration of a watcher takes effect. One that finds the table full is woken at once. -/
def execArmMonitor (m : Msg) (s : State) : Out :=
  if localAgent m.src then (if isFar s (m.line * 128) then armFar m s else .next (armLocal s (refOf m.tag) m.line))
  else
    let r := toHome s m 0 .armMonitor
    if !r.1 then .next r.2
    else if !servable r.2 m.line then .next (respond r.2 m 3#3 0#64)
    else if 16 ≤ (watchersOf r.2 m.line).length then .next (respond r.2 m 0#3 0#64)
    else .next (setWatchers r.2 m.line (watchersOf r.2 m.line ++ [.agent m.src m.sub m.tag]))

/-- DROP_MONITOR: the watchers of the sub-agent leave the line's table. -/
def execDropMonitor (m : Msg) (s : State) : Out :=
  if localAgent m.src then .next s
  else
    let r := toHome s m 0 .dropMonitor
    if !r.1 then .next r.2
    else
      let ws := (watchersOf r.2 m.line).filter (fun w => match w with | .agent a u _ => !(a == m.src && u == m.sub) | _ => true)
      .next (respond (setWatchers r.2 m.line ws) m 0#3 0#64)

/-! ## The memory bridges (R417) -/

/-- A slice reads or writes the stack of a memory bridge: the message arrives at the bridge's end of a module. -/
def tierOk (s : State) (m : Msg) : Bool :=
  decide (0x400 ≤ m.blk ∧ m.blk < 0x480) && rangeOf (m.line * 128) == .hbm && m.line * 128 / 0x1000000000 == (m.blk - 0x400) / 0x10
    && localAgent m.src && (linkAt s m.blk).state == .active

/-- The module of a bridge, from the tower's end to the bridge's. -/
def bridgeHop (s : State) (blk : Nat) : Nat × Nat := ((farEnd s blk).getD blk, blk)

def execTierRead (m : Msg) (s : State) : Out :=
  let h := bridgeHop s m.blk
  if !tierOk s m || !pathReady s [h] [0] [1, 2] then .next s
  else
    let s := countHop (countHop (countHop s h.1 h.2 0) h.2 h.1 1) h.2 h.1 2
    .next (afterServe { s with sent := s.sent ++ [.response m.src m.sub m.tag 1#3 0#64,
      .data m.src m.sub m.tag m.line (BitVec.allOnes 128) (physRead s (m.line * 128) 128)] })

/-- The bytes written to a stack are what the line reads as from then on, unless its home slice holds the line. -/
def execTierWrite (m : Msg) (s : State) : Out :=
  let h := bridgeHop s m.blk
  if m.blk ≠ 0 ∧ (!tierOk s m || !pathReady s [h] [0] [1]) then .next s
  else
    let s := if m.blk = 0 then s else countHop (countHop s h.1 h.2 0) h.2 h.1 1
    match tget s.msgData (msgKey m 15) with
    | none => .next { s with msgData := tput (msgKey m 10) (atHome m) s.msgData }
    | some d =>
      let s := takeData s m
      let s := if (tget s.cache m.line).isSome then s else physPutAt s m.line (msgBytes d)
      .next (afterServe { s with sent := s.sent ++ [.response m.src m.sub m.tag 0#3 0#64] })

/-! ## Answers to this device's own requests -/

/-- A fabric request of this device that a message answers: the one that is outstanding under its SUB and TAG. -/
def answered (s : State) (m : Msg) : Option Req :=
  (s.reqs.find? (fun e => e.2.out && !(e.2.performed && e.2.bar4.isSome) && e.2.core == m.sub && e.2.tag == m.tag
    && isFar s (e.2.line * 128) && farAgent s (e.2.line * 128) == m.src)).map (·.2)

/-- An answer from the fabric crosses from the hub to the tower of the core that asked; one for the host or a unit stays at the hub. -/
def crossBack (s : State) (m : Msg) (vc : Nat) (r : Req) : Bool × State :=
  if r.bar4.isSome || (r.hub && !s.t1) then (true, s) else crossIn s m vc (coreTower r.core) r.line

/-- Ownership of a fabric line is granted: the span is recorded and filled, and the stores of an OWN store are written into it
(R213). -/
def remoteOwn (s : State) (r : Req) (bytes : List Byte) : State :=
  let run := coverRun (reqWords r)
  let (seq, s) := newId s
  let s := { s with spans := s.spans ++ [{ line := r.line, agent := coreAgent r.core, sub := r.core, words := run, seq := seq }] }
  let s := modL1 (makeL1Room s r.core r.line) r.core r.line (fun l =>
    let l := if l.own = 0#32 then { l1Drop l 0xFFFFFFFF#32 with vls := l.vls } else l
    let l := l1Own l run bytes
    addUses { l with own := l.own ||| run } r)
  if r.aop = 1 then { ownStores s r with reqs := tdel r.id s.reqs }
  else performed s { r with parts := partsFrom s r.line bytes false r.parts }

/-- The data of a fabric line: what the home's answer does for a read at the request's core (R211, R213, R235), for a command of Slip
or of the matrix engine, a collective or a page move, or for the host. -/
def remoteFill (s : State) (r : Req) (bytes : List Byte) : State :=
  let d := bufWriteN [] 0 bytes
  if r.walk then walkAnswer s r bytes false
  else match r.copy, r.bar4 with
  | some (c, l), _ =>
    let s := { s with reqs := tdel r.id s.reqs }
    (match tget s.moves c, tget s.colls c with
     | some m, _ => schedule { s with moves := tput c { m with remote := tput l d m.remote } s.moves } s.now (.pageMoveComplete c)
     | none, some _ => schedule (modColl s c (fun x => { x with remote := tput r.line d x.remote })) s.now (.collMatch c [])
     | none, none =>
       if (copyOfId s c).isNone then pugTake s l c r.line bytes false false
       else
         let s := modCopy s c (fun c => { c with beats := c.beats.map (fun b =>
           if b.id == l then { b with remote := tput r.line d b.remote } else b) })
         schedule s s.now (.slipBeat c l))
  | none, some (fn, off, size) =>
    schedule { s with reqs := tput r.id { r with performed := true, home := bytes } s.reqs } s.now (.hostBar4Read fn { bar := 4, off := off } size)
  | none, none =>
    if r.kind = .own ∨ (r.kind = .prefetch ∧ r.aop = 2) then remoteOwn s r bytes
    else
      let seen := (List.range 128).map (fun i => if r.mask.getLsbD i then bufRead r.data i else bytes.getD i 0#8)
      let keep := (r.kind == .read || (r.kind == .prefetch && r.aop == 0)) && r.lease.isSome
      performed s { r with
        parts := partsFrom s r.line seen false r.parts
        fetched := if keep then r.fetched else 0#32
        home := if keep then bytes else [] }

/-- A write of this device has been performed at a remote home: a beat, a result of a collective, a host write. -/
def remoteWritten (s : State) (r : Req) : State :=
  let s := { s with reqs := tdel r.id s.reqs }
  let s := { s with colls := tmap (fun c => { c with outs := c.outs.filter (· != r.id) }) s.colls }
  let s := if r.bar4.isSome then scheduleOnce s s.now lookAgain else s
  let s := match r.copy with
    | some (c, b) => (match copyOfId s c with
      | some c => (match c.beats.find? (fun x => x.id == b) with | some b => beatDone s c b | none => s)
      | none => s)
    | none => s
  settleColls s

/-- A response that says done: a write has been performed remotely, an atomic brings its old value; the next part of an atomic or a
reduction then goes out. -/
def remoteDone (s : State) (r : Req) (val : Word64) : State :=
  let fill := fun (r : Req) => { r with parts := r.parts.map (fun p =>
    if some p == nextPart? r then { p with got := some (val.toNat % 2 ^ (8 * p.width), false) } else p) }
  let more := fun (r : Req) (k : State → State) =>
    if (nextPart? r).isNone then k s
    else schedule { s with reqs := tput r.id { r with out := false, serve := s.now } s.reqs } s.now (serveEvent r)
  match r.kind with
  | .atomic => if r.walk then walkAnswer s r [] false else let r := fill r; more r (fun s => performed s r)
  | .reduce => let r := fill r; more r (fun s => remoteWritten s r)
  | .write | .writeBack => remoteWritten s r
  | .arm => farTriggered s r
  | .disarm => { s with reqs := tdel r.id s.reqs }
  | _ => s

/-- An OWN store whose line another home answers as poisoned is performed on its bytes there, as a write (R222). -/
def storeAtHome (s : State) (r : Req) : State :=
  let r := { r with
    kind := .write, aop := 0, out := false, serve := s.now
    mask := r.parts.foldl (fun m p => m ||| BitVec.ofNat 128 ((2 ^ p.width - 1) * 2 ^ p.off)) 0#128
    data := r.parts.foldl (fun d p => bufWriteN d p.off (leBytes p.val p.width)) [] }
  schedule { s with reqs := tput r.id r s.reqs } s.now (serveEvent r)

/-- The line of a command's source is poisoned at its home: Slip writes poisoned words from it, the engine's command and a collective
fail, a page move keeps the poison (R266, R315). -/
def poisonCopy (s : State) (r : Req) : State :=
  match r.copy with
  | some (c, l) =>
    (match copyOfId s c, cmdOf s l c with
     | some _, _ =>
       let s := modCopy { s with reqs := tdel r.id s.reqs } c (fun c => { c with beats := c.beats.map (fun b =>
         if b.id == l then { b with remote := tput r.line [] b.remote, badLines := r.line :: b.badLines } else b) })
       schedule s s.now (.slipBeat c l)
     | none, some _ => pugTake { s with reqs := tdel r.id s.reqs } l c r.line [] true false
     | none, none => unreachable s r)
  | none => s

/-- A poisoned answer: a load or an atomic writes its destination poisoned, a reduction was discarded (R222), of a CPYR under its own
command (R315), and a read of the host is aborted. -/
def remotePoison (s : State) (r : Req) : State :=
  match r.kind with
  | .reduce =>
    (match r.copy with
     | some (c, _) => remoteDone (match copyOfId s c with | some c => discardReduce s c | none => s) r 0#64
     | none =>
       let team := match r.parts with
         | p :: _ => (match p.thr with | some t => (teamOf s t.team).index | none => noTeam)
         | [] => noTeam
       faultLog (remoteDone s r 0#64) r.ctx 2 fPOISON team 0)
  | .write | .writeBack => remoteDone s r 0#64
  | .atomic | .read | .uc | .own =>
    if r.copy.isSome then poisonCopy s r
    else if r.kind = .own ∧ r.aop = 1 then storeAtHome s r
    else if r.bar4.isSome then bar4Fails s r fPOISON
    else unreachable s r
  | .arm => farTriggered s r
  | .prefetch | .disarm => { s with reqs := tdel r.id s.reqs }

/-- A response that has been accepted. -/
def responseAt (m : Msg) (s : State) : State :=
  match answered s m with
  | none => s
  | some r =>
    let y := crossBack s m 1 r
    if !y.1 then y.2
    else match m.status.toNat with
      | 0 => remoteDone y.2 r m.val
      | 2 => remotePoison y.2 r
      | 3 => unreachable y.2 r
      | _ => y.2

/-! ## Recalls (R213, R428, R429) -/

/-- The answer to a recall: the span's dirty bytes reach the home, and the span is gone. -/
def recallAnswer (s : State) (c : Recall) (m : Msg) : State :=
  let s := { s with
    spans := s.spans.filter (fun x => !(x.line == c.line && x.agent == c.agent && x.sub == c.sub))
    recalls := tdel c.id s.recalls }
  releasePage (homeBytes s c.line (msgBytes m)) 0

/-- A request that waited for the data of its sender and tag. -/
def awaited (s : State) (m : Msg) : Option (Nat × Msg) :=
  [3, 4, 5, 6, 10].findSome? (fun k => (tget s.msgData (msgKey m k)).map (fun x => (k, x)))

/-- The recall that a data message answers, by the owner and TAG. -/
def recalled (s : State) (m : Msg) : Option Recall :=
  (s.recalls.find? (fun e => e.2.agent == m.src && e.2.sub == m.sub && e.2.tag == m.tag && e.2.line == m.line)).map (·.2)

/-- Data that has been accepted: the answer to a recall or to a read of this device, or the bytes of another agent's request. What a tier
die answers to a slice is what its memory holds, which stands in `State.mem`. -/
def dataAt (m : Msg) (s : State) : State :=
  if (tget s.agents m.src).any (fun a => a.kind == 3) then s
  else match (if localAgent m.src then none else recalled s m) with
  | some c =>
    let y := crossIn s m 2 (homeTower s m.line) m.line
    if y.1 then recallAnswer y.2 c m else y.2
  | none =>
    match (answered s m).filter (fun r => farLine r.line == m.line && !r.performed
      && (r.kind == .read || r.kind == .own || r.kind == .uc || r.kind == .prefetch)) with
    | some r =>
      let y := crossBack s m 2 r
      if y.1 then remoteFill y.2 r m.data else y.2
    | none =>
      let y := crossIn s m 2 (homeTower s m.line) m.line
      if !y.1 then y.2
      else
        let s := { y.2 with msgData := tput (msgKey m 15) (atHome m) y.2.msgData }
        match awaited s m with
        | some (k, q) => schedule { s with msgData := tdel (msgKey q k) s.msgData } s.now (againAs k (atHome q))
        | none => s

/-- A recall that has been accepted: the answer carries the span's dirty bytes, and the span is dropped; it waits for nothing but its
own modules. -/
def recallAt (m : Msg) (s : State) : State :=
  let y := crossIn s m 3 (coreTower m.sub) m.line
  if !y.1 then y.2
  else
    let s := y.2
    let mine := s.spans.filter (fun x => localAgent x.agent && x.sub == m.sub && isFar s (x.line * 128)
      && farAgent s (x.line * 128) == m.src && farLine x.line == m.line && x.words &&& m.wmask != 0#32)
    let ans := mine.foldl (fun (a : BitVec 128 × Mem) x =>
      let l := l1Of s x.sub x.line
      let k := l.dirty &&& bytesOf x.words
      (a.1 ||| k, (maskedBytes l.data k).foldl (fun d b => bufWrite d b.1 b.2) a.2)) (0#128, [])
    let s := mine.foldl (fun s x =>
      modL1 { s with spans := s.spans.filter (fun y => y != x) } x.sub x.line (fun l => l1Drop l x.words)) s
    post s (awayPath s m.src (coreTower m.sub) m.line) 2 (.data m.src m.sub m.tag m.line ans.1 (bufReadN ans.2 0 128))

/-- What waits at the hub crosses as far as its modules let it, in its order. -/
def settleHub (s : State) : State :=
  s.hubIn.foldl (fun s e => if e.1 = 1 then responseAt e.2 s else if e.1 = 2 then dataAt e.2 s else recallAt e.2 s) { s with hubIn := [] }

/-- A message of a class arrives and, once accepted, acts. -/
def arriveAs (m : Msg) (vc : Nat) (act : Msg → State → State) (s : State) : Out :=
  let x := receive s m vc
  if x.1 then .next (afterServe (act m (settleHub x.2))) else .next x.2

/-- RESPONSE: a response message completes a request of this device. -/
def execResponse (m : Msg) (s : State) : Out := arriveAs m 1 responseAt s

/-- DATA: a data message. -/
def execData (m : Msg) (s : State) : Out :=
  if localAgent m.src then .next (if onWire m then stray s m 2 else afterServe (dataAt (atHome m) s))
  else arriveAs m 2 dataAt s

/-- RECALL: a remote home asks for a span of a core of this device. -/
def execRecallMsg (m : Msg) (s : State) : Out := arriveAs m 3 recallAt s

/-- RECALL_TIMEOUT: a home that receives no answer within 20 µs declares the owner failed; while Kiln is down that waits for it. -/
def execRecallTimeout (id : Nat) (s : State) : Out :=
  match tget s.recalls id with
  | some c =>
    if s.now < c.sentAt + 20000 * nsTicks || !s.spans.any (fun x => x.line == c.line && x.agent == c.agent && x.sub == c.sub) then .next s
    else if kilnUp s then .next (failAgent s c.agent)
    else .next (waitFor s (.recallTimeout id))
  | none => .next (if id = 0 then afterServe (settleHub s) else s)

/-! ## Copy beats of other agents (R417) -/

/-- The team whose buffer of `size`, still held, covers an offset on a core: the one placed first (log entry 26). -/
def bufferTeam (s : State) (core off : Nat) (size : Header → Nat) (held : Nat → Team → Bool) : Option Nat :=
  ((s.teams.filter (fun e => e.2.core == core && !e.2.freed && held e.1 e.2 && decide (off < size e.2.hdr))).head?).map (·.1)

/-- The answer to a beat for a buffer, from the tower of its core. -/
def respondFrom (s : State) (t : Nat) (m : Msg) (status : BitVec 3) : State :=
  post s (awayPath s m.src t m.line) 1 (.response m.src m.sub m.tag status 0#64)

/-- COPY_BEAT: the beat is performed at its destination. -/
def execCopyBeat (m : Msg) (s : State) : Out :=
  if localAgent m.src then .next s
  else
  let core := m.line / 2 ^ 33
  let x := receive s m 4
  let x := if x.1 then crossHub x.2 m 4 (if m.dsp = 0#2 then homeTower x.2 m.line else coreTower core) m.line (fun s => waitFor s (.copyBeat (atHub m))) else x
  if !x.1 then .next x.2
  else
    let s := x.2
    let off := m.line % 2048 * 128
    match m.dsp.toNat with
    | 0 =>
      if !servable s m.line then .next (respond s m 3#3 0#64)
      else match recallRemote s m.line (maskWords m.mask) (.copyBeat (atHome m)) with
        | some s => .next s
        | none =>
          let s := extWrite s false m m
          .next (afterServe (if m.wmask = 0#32 then s else poisonWords s m.line m.wmask))
    | 1 =>
      (match bufferTeam s core off (·.abuf) (fun _ tm => abufHeld s tm) with
       | some k => .next (respondFrom ((msgBytes m).foldl (fun s b => putAbufClean s k (off + b.1) [b.2]) s) (coreTower core) m 0#3)
       | none => .next (respondFrom s (coreTower core) m 3#3))
    | 2 =>
      (match bufferTeam s core off (·.wbuf) (wbufHeld s) with
       | some k =>
         .next (respondFrom (modTeam s k (fun tm =>
           { tm with wbuf := (msgBytes m).foldl (fun d b => bufWrite d (off + b.1) b.2) tm.wbuf })) (coreTower core) m 0#3)
       | none => .next (respondFrom s (coreTower core) m 3#3))
    | _ => .next s

end Sys2Proof.Machine
end

