-- ==== Sys2Proof/Machine/LinkState.lean ====
section
/-! DEFINITION. The states and commands of a link (R421, R422, R424, R493), its errors (R416, R420), the steering registers
(R415, R425, R439), discovery (R432, R433, R436, R497) and the vertical wires (R437, R438). -/

namespace Sys2Proof.Machine

/-! ## Changes of state -/

/-- Kiln sends HELLO to the devices that the slots name (R497 step 1). -/
def helloSlots (s : State) : State :=
  if !s.fxSet then s
  else s.fxslots.foldl (fun s e =>
    let d := bits e.2 0 9
    if e.2.getLsbD 63 && d != s.fxself then scheduleOnce s s.now (.hello (.send (0xE00 + d))) else s) s

/-- A module is ACTIVE: walks that waited for it go on, what waited at its senders goes out, and a port looks for the devices that were away. -/
def inService (s : State) (blk : Nat) : State :=
  let s := settleHub (drainOutbox (releasePage (modEnds s blk (fun x => { x with state := .active })) 0))
  if isPort blk then helloSlots s else s

/-! ## Repair (R424, R493) -/

/-- The lanes that four repair entries name, from entry `k` on. -/
def repairLanes (v : Word64) (k : Nat) : List Nat :=
  (((List.range 4).filter (fun i => v.getLsbD (8 * (k + i) + 7))).map (fun i => bits v (8 * (k + i)) 6)).eraseDups

/-- The lanes repaired in the direction from one end to the other. -/
def repaired (tx rx : Word64) : List Nat := (repairLanes tx 0).filter (fun l => (repairLanes rx 4).contains l)

/-- The repair entries of the other end: of an integrator's die, those that its hardware has written. -/
def farRepairs (s : State) (blk : Nat) : Word64 :=
  match farEnd s blk with
  | some far => (linkAt s far).repair
  | none => (linkAt s blk).farRepair

/-- Spare lanes in use in both directions; a port repairs no lane. -/
def sparesUsed (s : State) (blk : Nat) : Nat :=
  let a := (linkAt s blk).repair
  let b := farRepairs s blk
  (repaired a b).length + (repaired b a).length

def laneList (v : Word64) : List Nat := (List.range 64).filter (fun i => v.getLsbD i)

/-- The lanes, in either direction, that do not work once the repairs are applied (R493). Of the receive lanes of an integrator's die and
of a switch this device knows none. -/
def lanesLost (s : State) (blk : Nat) : List Nat :=
  let a := (linkAt s blk).repair
  let b := farRepairs s blk
  let there := match farEnd s blk with | some far => (linkAt s far).dead | none => 0#64
  (laneList (linkAt s blk).dead).filter (fun l => !(repaired b a).contains l)
    ++ (laneList there).filter (fun l => !(repaired a b).contains l)

/-- The half with which a module can work at a width: at x64 it needs every lane (log entry 97), at x32 those of the lower half, or else
of the upper (R493). -/
def halfFor (width : BitVec 2) (lost : List Nat) : Option Bool :=
  if width = 1#2 then (if lost.all (fun l => decide (32 ≤ l)) then some false else if lost.all (fun l => decide (l < 32)) then some true else none)
  else if lost.isEmpty then some false else none

/-- Adds lanes to the four entries from entry `k` on. -/
def addRepairs (k : Nat) (lanes : List Nat) (v : Word64) : Word64 :=
  lanes.foldl (fun v l =>
    if (repairLanes v k).contains l then v
    else match (List.range 4).find? (fun i => !v.getLsbD (8 * (k + i) + 7)) with
      | some i => v &&& ~~~(BitVec.ofNat 64 (0xFF * 2 ^ (8 * (k + i)))) ||| BitVec.ofNat 64 ((0x80 + l) * 2 ^ (8 * (k + i)))
      | none => v) v

/-- The receive lanes of an end that are in error or no longer work. -/
def badLanes (x : LinkEnd) : List Nat := laneList (x.lane ||| x.dead)

/-- A change of the repair entries of the other end. -/
def modFarRepair (s : State) (blk : Nat) (f : Word64 → Word64) : State :=
  match farEnd s blk with
  | some far => modLink s far (fun x => { x with repair := f x.repair })
  | none => modLink s blk (fun x => { x with farRepair := f x.farRepair })

/-- The lane repair of a retrain: the lanes in error are written to LKREPAIR at both ends, and the module runs at x32 when spares
run short (log entry 28). A port repairs none. -/
def autoRepair (s : State) (blk : Nat) : State :=
  if isPort blk then s
  else
    let a := badLanes (linkAt s blk)
    let b := match farEnd s blk with | some far => badLanes (linkAt s far) | none => []
    let s := modLink s blk (fun x => { x with repair := addRepairs 0 b (addRepairs 4 a x.repair) })
    let s := modFarRepair s blk (fun v => addRepairs 0 a (addRepairs 4 b v))
    let own := (linkAt s blk).repair
    let far := farRepairs s blk
    let short := a.any (fun l => !(repaired far own).contains l) || b.any (fun l => !(repaired own far).contains l)
    let n := sparesUsed s blk
    modEnds s blk (fun x => { x with spused := n, width := if short then 1#2 else x.width })

/-! ## Commands (R421, R422, R424) -/

def refuseCmd (s : State) (blk : Nat) : State := modLink s blk (fun x => { x with err := x.err ||| 8#4 })

/-- The bound of a training: 50 µs. -/
def trainTicks : Nat := 50000 * nsTicks

/-- TRAIN: at the TGTW of the issuing end. Its length is free. -/
def train (s : State) (blk : Nat) : State :=
  let x := linkAt s blk
  let (n, s) := contend s
  let was := x.state == .paused
  let s := modEnds s blk (fun y => { y with state := .training, aim := x.tgtw, fromPaused := was, attempts := 0 })
  schedule (schedule s (s.now + trainTicks) (.trainingFailed blk)) (s.now + n) (.trainingDone blk)

/-- A command of LKCTL at one end. -/
def linkCommand (s : State) (blk cmd : Nat) : State :=
  let x := linkAt s blk
  if cmd = 0 then s
  else if cmd = 1 ∧ x.state = .active then
    let (n, s) := contend s
    schedule (modEnds s blk (fun x => { x with state := .pausing })) (s.now + n) (.pauseAcknowledged blk)
  else if cmd = 2 ∧ x.state = .paused then inService s blk
  else if cmd = 3 ∧ (x.state = .down ∨ x.state = .paused) ∧ x.tgtw.toNat ≤ (if isPort blk then 0 else 1) then train s blk
  else if cmd = 4 ∧ (x.state = .paused ∨ x.state = .error ∨ x.state = .failed) then
    failCutOff (modEnds s blk (fun x => { x with state := .down, seqs := [], used := [], held := [] }))
  else refuseCmd s blk

def commandAt (s : State) (blk cmd : Nat) : Out := if blkOk s blk then .next (linkCommand s blk cmd) else .next s

/-- LINK_PAUSE: no new flit is sent in either direction. -/
def execLinkPause (blk : Nat) (s : State) : Out := commandAt s blk 1
/-- LINK_RESUME: waiting messages go out. -/
def execLinkResume (blk : Nat) (s : State) : Out := commandAt s blk 2
/-- LINK_TRAIN: training at TGTW with LKREPAIR applied. -/
def execLinkTrain (blk : Nat) (s : State) : Out := commandAt s blk 3
/-- LINK_DISABLE: the module is DOWN and both ends' counters are 0. -/
def execLinkDisable (blk : Nat) (s : State) : Out := commandAt s blk 4

/-- PAUSE_ACKNOWLEDGED: every flit sent has been acknowledged. -/
def execPauseAcknowledged (blk : Nat) (s : State) : Out :=
  if blkOk s blk ∧ (linkAt s blk).state = .pausing then .next (modEnds s blk (fun x => { x with state := .paused })) else .next s

/-- The end of a training is no longer awaited. -/
def stopTraining (s : State) (blk : Nat) : State :=
  (ends s blk).foldl (fun s b => unschedule (unschedule s (.trainingFailed b)) (.trainingDone b)) s

/-- The agent that a new link reaches: not the hub, from which Kiln sends. -/
def newPeer (s : State) (blk : Nat) : Nat :=
  match (linkAt s blk).peerId, farEnd s blk with
  | 0x001, some far => (linkAt s far).peerId
  | a, _ => a

/-- Kiln greets the die at the far end of a new link: by its id, or as a die that has none. -/
def greet (s : State) (blk : Nat) : State :=
  let a := newPeer s blk
  scheduleOnce s s.now (.hello (if a = 0xFFF then .meet blk else .send a))

/-- A training has succeeded: the module is PAUSED again, or ACTIVE on a new link, with its credits exchanged and a HELLO to the die at its
end. The error counters are 0 and the sequence counters are kept (R493). -/
def trained (s : State) (blk : Nat) (upper : Bool) : State :=
  let x := linkAt s blk
  let s := stopTraining s blk
  let n := sparesUsed s blk
  let s := modEnds s blk (fun x => { x with width := x.aim, upper := upper, spused := n, crcerr := 0#32, retries := 0#32, lane := 0#64 })
  if x.fromPaused then modEnds s blk (fun x => { x with state := .paused })
  else
    let s := inService (modEnds s blk (fun x => { x with used := [], held := [] })) blk
    if isPort blk then s else greet s blk

/-- An attempt at a training has failed; after three the module is FAILED (R421). -/
def attemptFails (s : State) (blk : Nat) : State :=
  let s := modEnds s blk (fun x => { x with attempts := x.attempts + 1 })
  if 3 ≤ (linkAt s blk).attempts then outOfService (stopTraining s blk) blk .failed
  else
    let (n, s) := contend s
    schedule s (s.now + n) (.trainingDone blk)

/-- TRAINING_DONE: an attempt has come to its end. It fails where the lanes that the width needs do not work. -/
def execTrainingDone (blk : Nat) (s : State) : Out :=
  if blkOk s blk ∧ (linkAt s blk).state = .training then
    match halfFor (linkAt s blk).aim (lanesLost s blk) with
    | some upper => .next (trained s blk upper)
    | none => .next (attemptFails s blk)
  else .next s

/-- TRAINING_FAILED: three attempts have failed, or 50 µs have passed. -/
def execTrainingFailed (blk : Nat) (s : State) : Out :=
  if blkOk s blk ∧ (linkAt s blk).state = .training then .next (outOfService (stopTraining s blk) blk .failed) else .next s

/-- REPLAY_EXHAUSTED: the adapter's replay is exhausted, or a lane fails. -/
def execReplayExhausted (blk : Nat) (s : State) : Out :=
  if blkOk s blk ∧ (linkAt s blk).state = .active then
    let (n, s) := contend s
    .next (schedule (modEnds s blk (fun x => { x with state := .retraining })) (s.now + n) (.retrainDone blk))
  else .next s

/-- RETRAIN_DONE: replay resumes and the counters are kept; where the lanes do not work even so, the retrain has failed. -/
def execRetrainDone (blk : Nat) (s : State) : Out :=
  if blkOk s blk ∧ (linkAt s blk).state = .retraining then
    let s := autoRepair s blk
    match halfFor (linkAt s blk).width (lanesLost s blk) with
    | some upper => .next (inService (modEnds s blk (fun x => { x with upper := upper })) blk)
    | none => .next (outOfService s blk .failed)
  else .next s

/-- RETRAIN_FAILED: the module is FAILED. -/
def execRetrainFailed (blk : Nat) (s : State) : Out :=
  if blkOk s blk ∧ (linkAt s blk).state = .retraining then
    let s := (ends s blk).foldl (fun s b => unschedule s (.retrainDone b)) s
    .next (outOfService s blk .failed)
  else .next s

/-- ADAPTER_REPLAY: RETRIES counts, and reaching RTHRESH sets RTH. -/
def execAdapterReplay (blk : Nat) (s : State) : Out :=
  if !blkOk s blk then .next s
  else
    let x := linkAt s blk
    let n := bumpSat x.retries
    let alarm := n != x.retries && n == x.rthresh && x.rthresh != 0#32
    let s := modLink s blk (fun x => { x with retries := n, rth := x.rth || alarm })
    .next (if alarm then interrupt s 0 2 else s)

/-- The data lanes that a module signals on (R412, R493). -/
def lanesInUse (x : LinkEnd) : Word64 :=
  if x.width = 1#2 then (if x.upper then 0xFFFFFFFF00000000#64 else 0x00000000FFFFFFFF#64) else BitVec.allOnes 64

/-- FLIT_CRC_FAILURE: CRCERR counts, and LKLANE attributes the errors to lanes in use, of which some may have stopped to work; a port
holds no LKLANE. -/
def execFlitCrcFailure (blk : Nat) (e : LaneErrors) (s : State) : Out :=
  if !blkOk s blk then .next s
  else .next (modLink s blk (fun x =>
    let seen := if isPort blk then 0#64 else e.lanes &&& lanesInUse x
    { x with crcerr := bumpSat x.crcerr, lane := x.lane ||| seen, dead := x.dead ||| (seen &&& e.dead) }))

/-- What a flit header breaks (R416, R417, R432). -/
def badHeader (h : FlitHeader) : Bool :=
  let c := h.cls.toNat
  6 ≤ c || h.rsvHigh != 0#5 || h.rsvLow != 0#28 || h.nmsg == 0#4
    || ((c == 2 || c == 4 || c == 5) && h.nmsg != 1#4)
    || (c == 0 && decide (11 ≤ h.kind.toNat))
    || (c == 5 && !(decide (1 ≤ h.opc.toNat) && decide (h.opc.toNat ≤ 6)))

/-- PROTOCOL_ERROR: a flit with such a header sends the module to ERROR. -/
def execProtocolError (blk : Nat) (h : FlitHeader) (s : State) : Out :=
  let st := (linkAt s blk).state
  if blkOk s blk ∧ (st = .active ∨ st = .pausing) ∧ badHeader h then
    let s := (ends s blk).foldl (fun s b => unschedule s (.pauseAcknowledged b)) s
    .next (outOfService s blk .error)
  else .next s

/-! ## Steering (R415, R425, R439) -/

/-- A module whose messages hold its entries. -/
def carrying (s : State) (blk : Nat) : Bool :=
  let st := (linkAt s blk).state
  st == .active || st == .pausing || st == .retraining

/-- STEER_WRITE: refused whole when an entry is out of range, or changes while its old module carries messages. -/
def execSteerWrite (tower edge : Nat) (value : Word64) (s : State) : Out :=
  if 8 ≤ tower ∨ 4 ≤ edge then .next s
  else
    let old := steerOf s tower edge
    let bad := (List.range 16).any (fun j =>
      decide (edgeModules edge ≤ bits value (4 * j) 4)
        || (bits value (4 * j) 4 != bits old (4 * j) 4 && carrying s (towerBlk tower edge (bits old (4 * j) 4))))
    if bad then
      .next { s with edgeErr := if s.edgeErr.contains (steerKey tower edge) then s.edgeErr else steerKey tower edge :: s.edgeErr }
    else
      .next (wakeWaiting { s with steer := tset (steerBoot (edgeModules edge)) (steerKey tower edge) value s.steer })

/-- FXSTEER_WRITE: the same for the ports; CMDREF of each old port is set. -/
def execFxsteerWrite (k : Nat) (value : Word64) (s : State) : Out :=
  if 4 ≤ k then .next s
  else
    let old := fxsteerOf s k
    let busy := ((List.range 8).filter (fun j => bits value (8 * j) 5 != bits old (8 * j) 5
      && carrying s (portBlk (bits old (8 * j) 5)))).map (fun j => portBlk (bits old (8 * j) 5))
    if busy.isEmpty then
      .next (wakeWaiting { s with fxsteer := tset (fxsteerBoot k) k (value &&& 0x1F1F1F1F1F1F1F1F#64) s.fxsteer })
    else .next (busy.foldl refuseCmd s)

/-- FXSLOT_WRITE: a slot with VALID = 1 sends HELLO to the device it names. -/
def execFxslotWrite (k : Nat) (value : Word64) (s : State) : Out :=
  if 32 ≤ k then .next s
  else
    let v := value &&& 0x80000000000001FF#64
    let d := bits v 0 9
    let s := { s with fxslots := tset 0#64 k v s.fxslots }
    .next (if v.getLsbD 63 && s.fxSet && d != s.fxself then scheduleOnce s s.now (.hello (.send (0xE00 + d))) else s)

/-! ## Discovery (R432, R433, R436, R497) -/

/-- The time in which HELLO is to be answered: 10 ms. -/
def helloTicks : Nat := 10000000 * nsTicks

/-- The IDENT of KIND 6 by which this device answers a HELLO (R432, R497): its incarnation, its credits, wiped at boot, its id. -/
def ownIdent (s : State) : Word64 := BitVec.ofNat 64 (6 + s.fxInc.toNat * 2 ^ 4 + offered * 2 ^ 20 + 2 ^ 44 + s.fxself * 2 ^ 45)

/-- A HELLO arrives: another device of the fabric is answered whatever the own slots hold (R497); a die of the package that sends one
has restarted, and fails (R431). -/
def helloIn (s : State) (a : Nat) (f : FlitIn) : State :=
  let r := flitIn s f.blk 5 f.seq f.cret
  if !r.1 then r.2
  else
    let s := r.2
    if isPort f.blk then
      if 0xE00 ≤ a ∧ a < 0x1000 ∧ f.dst = 0xE00 + s.fxself then (if kilnUp s ∧ s.fxSet then sendControl s a 2 (ownIdent s) else s)
      else badId s f.blk
    else if f.dst ≠ 0 ∧ !dstKnown s f.dst then badId s f.blk
    else match tget s.agents a with
      | some x => if x.state = .active ∧ kilnUp s then failAgent s a else s
      | none => badId s f.blk

/-- Kiln asks a die or a device to identify itself, a device only through an ACTIVE port, once FXSELF is written. -/
def sendHello (a : Nat) (s : State) : Out :=
  if !kilnUp s then .next s
  else if 0xE00 ≤ a then
    if s.fxSet ∧ a - 0xE00 < 512 ∧ a - 0xE00 ≠ s.fxself ∧ !(controlPath s a).isEmpty then
      let x := (agentOf s a).getD { kind := 6, state := .absent }
      let s := sendControl (setAgent s a { x with hello := some s.now }) a 1 0#64
      .next (schedule s (s.now + helloTicks) (.helloTimeout a))
    else .next s
  else match agentOf s a with
    | some x =>
      let s := sendControl (setAgent s a { x with hello := some s.now }) a 1 0#64
      .next (schedule s (s.now + helloTicks) (.helloTimeout a))
    | none => .next s

/-- Kiln asks the die at the far end of a module to identify itself: it has no id yet (R432). -/
def meetHello (s : State) (blk : Nat) : State :=
  if kilnUp s ∧ blkOk s blk ∧ !isPort blk then post s [oneEnd blk] 5 (.control 0xFFF 0x001 1 0#64) else s

/-- HELLO: Kiln sends one, or one that another agent has sent arrives. -/
def execHello (w : HelloWay) (s : State) : Out :=
  match w with
  | .send a => sendHello a s
  | .meet blk => .next (meetHello s blk)
  | .come a f => .next (afterServe (helloIn s a f))

/-- The far-end incarnation that the modules of an agent show (LKSTAT.PEERINC). -/
def showInc (s : State) (a : Nat) (inc : Half) : State :=
  { s with links := tmap (fun x => if x.peerId = a then { x with peerInc := inc } else x) s.links }

/-- ASSIGN: Kiln gives an agent its id. -/
def sendAssign (s : State) (a : Nat) : State :=
  sendControl (modAgent s a (fun x => { x with assigned := true })) a 3 (BitVec.ofNat 64 a)

/-- REFUSE: the entry is left refused, and function 0 is interrupted on vector 2. -/
def refuseAgent (s : State) (a cause : Nat) : State :=
  let inc := match agentOf s a with | some x => x.inc.toNat | none => 0
  let s := modAgent s a (fun x => { x with state := .refused })
  let s := sendControl s a 5 (BitVec.ofNat 64 (a + inc * 2 ^ 12 + cause % 16 * 2 ^ 28))
  interrupt (republish s) 0 2

/-- The cause for which Kiln refuses a rejoin, if any. -/
def rejoinCause (x : Agent) (m : IdentMsg) : Option Nat :=
  if m.inc = x.inc then some 1
  else if !m.wiped then some 2
  else if m.inc = x.inc + 1 then none
  else some 3

/-- The modules over which an agent is reached: every port for a device of the fabric (R439), else those that name it. -/
def reaches (a blk : Nat) (x : LinkEnd) : Bool := if 0xE00 ≤ a then isPort blk else !isPort blk && x.peerId == a

/-- The credits that an IDENT offers are held by the senders of the agent's modules (R419); devices behind one port share them, and the
last IDENT stands (log entry 98). -/
def takeCredits (s : State) (a n : Nat) : State :=
  let ports := if 0xE00 ≤ a then (List.range 32).map portBlk else []
  let s := ports.foldl (fun s b => modLink s b (fun x => { x with credits := n })) s
  { s with links := s.links.map (fun e => (e.1, if reaches a e.1 e.2 then { e.2 with credits := n } else e.2)) }

/-- A die or device joins or rejoins under its incarnation, with the credits that it offers. -/
def admitAgent (s : State) (a : Nat) (inc : Half) (credits : Nat) : State :=
  let s := modAgent s a (fun x => { x with inc := inc, state := .active })
  let s := takeCredits (showInc s a inc) a credits
  let s := if 0xE00 ≤ a then s else sendAssign s a
  wakeWaiting (republish s)

/-- The next id of an integrator die (R426). -/
def nextDie (s : State) : Nat := s.agents.foldl (fun n e => if 0x100 ≤ e.1 ∧ e.1 < 0x200 then max n (e.1 + 1) else n) 0x100

/-- An integrator home die is accepted for units 1 to 7 of a T1 alone (R433). -/
def unitsOk (s : State) (m : IdentMsg) : Bool :=
  m.kind != 4#4 || (s.t1 && decide (1 ≤ m.firstUnit.toNat ∧ 1 ≤ m.units.toNat ∧ m.firstUnit.toNat + m.units.toNat ≤ 8))

/-- The modules of an edge of a tower. -/
def edgeBlks (t e : Nat) : List Nat := (List.range (edgeModules e)).map (towerBlk t e)

/-- A die that Kiln has not met presents itself: it must show incarnation 0, and is active when it accepts its id. The modules of its edge
that named no die name it from then on. -/
def meetDie (s : State) (m : IdentMsg) : State :=
  let a := nextDie s
  if m.inc ≠ 0#16 ∨ 0x200 ≤ a ∨ m.credits.toNat < 4 ∨ !unitsOk s m then s
  else
    let t := m.blk / 0x40 % 8
    let e := m.blk / 0x10 % 4
    let x : Agent := { kind := m.kind.toNat, inc := 0#16, state := .absent, tower := t, edge := e, unit := m.firstUnit.toNat
                       units := m.units.toNat }
    let s := { s with agents := tput a x s.agents }
    let name := fun (b : Nat) (x : LinkEnd) =>
      if b = m.blk ∨ x.peerId = 0xFFF then { x with peerId := a, credits := m.credits.toNat } else x
    sendAssign ((edgeBlks t e).foldl (fun s b => modLink s b (name b)) s) a

/-- The agent that an IDENT speaks for. -/
def identAgent (s : State) (m : IdentMsg) : Nat :=
  if m.kind = 6#4 then 0xE00 + m.dev.toNat else if m.src = 0xFFF then (linkAt s m.blk).peerId else m.src

/-- An absent agent joins: a device of the fabric under whatever incarnation it shows (R497), a die under 0 where no other is recorded
(R433). -/
def firstJoin (a : Nat) (x : Agent) (m : IdentMsg) : Bool := decide (0xE00 ≤ a ∨ (m.inc = 0#16 ∧ x.inc = 0#16))

/-- What Kiln does with the IDENT of an agent that it knows. -/
def identKnown (s : State) (a : Nat) (x : Agent) (m : IdentMsg) : State :=
  if x.hello.isNone then (if x.state = .active then failAgent s a else s)
  else
    let s := unschedule (setAgent s a { x with hello := none }) (.helloTimeout a)
    match x.state with
    | .active =>
      if m.inc = x.inc then s
      else
        let s := failAgent s a
        (match rejoinCause x m with
         | some c => refuseAgent s a c
         | none => admitAgent s a m.inc m.credits.toNat)
    | .absent =>
      if firstJoin a x m then admitAgent s a m.inc m.credits.toNat
      else (match rejoinCause x m with
        | some c => refuseAgent s a c
        | none => admitAgent s a m.inc m.credits.toNat)
    | _ => match rejoinCause x m with
      | some c => refuseAgent s a c
      | none => admitAgent s a m.inc m.credits.toNat

/-- IDENT: a die or device identifies itself. One that has not been asked has restarted, and fails. -/
def execIdent (m : IdentMsg) (s : State) : Out :=
  let r := flitIn s m.blk 5 m.seq m.cret
  if !r.1 then .next r.2
  else
    let s := r.2
    if m.dst ≠ 0 ∧ !dstKnown s m.dst then .next (badId s m.blk)
    else if !kilnUp s then .next s
    else
      let a := identAgent s m
      match (if a = 0xFFF ∧ !isPort m.blk then none else agentOf s a) with
      | some x =>
        if isPort m.blk == decide (0xE00 ≤ a) then .next (identKnown s a x m) else .next s
      | none =>
        if m.src = 0xFFF ∧ 3 ≤ m.kind.toNat ∧ m.kind.toNat ≤ 5 then .next (meetDie s m)
        else .next (badId s m.blk)

/-- ASSIGN: Kiln gives a recorded agent its id. -/
def execAssign (a : Nat) (s : State) : Out :=
  match agentOf s a with
  | some _ => if kilnUp s ∧ a < 0xE00 then .next (sendAssign s a) else .next s
  | none => .next s

/-- The ids that an ACCEPT names are assigned: its sender, which may have none yet, its DST, and the id itself (R426). -/
def acceptIds (s : State) (a : Nat) (m : AcceptMsg) : Bool :=
  (m.src == 0xFFF || (tget s.agents m.src).isSome) && (m.dst == 0 || dstKnown s m.dst) && (tget s.agents a).isSome

/-- Kiln takes an ACCEPT: the die that it met has its id, and is active. -/
def accepted (s : State) (a : Nat) (inc : Half) : State :=
  match agentOf s a with
  | some x =>
    if kilnUp s ∧ a < 0xE00 ∧ x.assigned ∧ x.state = .absent ∧ x.inc = inc then
      republish (showInc (modAgent s a (fun x => { x with state := .active })) a inc)
    else s
  | none => s

/-- ACCEPT: the flit is counted as every other (R418, R419), and one that names an unassigned id is dropped. -/
def execAccept (a : Nat) (m : AcceptMsg) (s : State) : Out :=
  let r := flitIn s m.blk 5 m.seq m.cret
  if !r.1 then .next r.2
  else if isPort m.blk || !acceptIds r.2 a m then .next (badId r.2 m.blk)
  else .next (accepted r.2 a m.inc)

/-- REFUSE: Kiln refuses the rejoin of an agent that has failed. -/
def execRefuse (a cause : Nat) (s : State) : Out :=
  match agentOf s a with
  | some x =>
    if kilnUp s ∧ (x.state = .failed ∨ x.state = .refused) ∧ 1 ≤ cause ∧ cause ≤ 3 then .next (refuseAgent s a cause) else .next s
  | none => .next s

/-- What an agent is that does not answer: absent, unless it has failed or been refused and must rejoin (R436). -/
def unanswered (x : AgentState) : AgentState := if x = .active then .absent else x

/-- HELLO_TIMEOUT: a device that does not answer within 10 ms is recorded as absent, and an integrator die is treated so. -/
def execHelloTimeout (a : Nat) (s : State) : Out :=
  match agentOf s a with
  | some x =>
    match x.hello with
    | some t =>
      if t + helloTicks ≤ s.now ∧ 0x100 ≤ a then .next (republish (setAgent s a { x with hello := none, state := unanswered x.state }))
      else .next s
    | none => .next s
  | none => .next s

/-! ## Vertical wires (R437, R438) -/

def sliceOf (s : State) (x : Nat) : Slice := tgetD s.slices x {}
def modSlice (s : State) (x : Nat) (f : Slice → Slice) : State := { s with slices := tset {} x (f (sliceOf s x)) s.slices }

/-- CRC-8 with polynomial x^8 + x^2 + x + 1 and initial value 0. -/
def crc8 (bs : List Byte) : Byte :=
  bs.foldl (fun c b => (List.range 8).foldl (fun (c : Byte) _ => if c.getLsbD 7 then (c <<< 1) ^^^ 0x07#8 else c <<< 1) (c ^^^ b)) 0#8

/-- A beat is good: 32 bytes whose CRC, with the sequence number behind them, is the one that it carries. -/
def beatGood (b : VwBeat) : Bool := b.data.length == 32 && crc8 (b.data ++ [b.seq]) == b.crc

/-- The key of a bundle and direction. -/
def wireKey (bundle : Nat) (up : Bool) : Nat := 2 * bundle + b2n up

/-- The receiver takes a beat: a good one is acknowledged when it is the next, and one acknowledged before is not taken again. A bad one
is replayed, up to four times for the same beat; after that the bundle is repaired (R438). -/
def takeBeat (k : Nat) (b : VwBeat) (y : Slice) : Slice :=
  let n := tgetD y.fails k 0
  if beatGood b then
    if b.seq.toNat = tgetD y.beats k 0 then { y with beats := tset 0 k ((b.seq.toNat + 1) % 256) y.beats, fails := tset 0 k 0 y.fails }
    else y
  else if n = 4 then { y with fails := tset 0 k 5 y.fails }
  else if 4 < n then y
  else { y with fails := tset 0 k (n + 1) y.fails, replays := if y.replays = BitVec.allOnes 24 then y.replays else y.replays + 1 }

/-- VW_BEAT_REPLAY: a beat arrives; one that fails its CRC is replayed from there. -/
def execVwBeatReplay (x : Nat) (b : VwBeat) (s : State) : Out :=
  if 2048 ≤ x ∨ 8 ≤ b.bundle then .next s else .next (modSlice s x (takeBeat (wireKey b.bundle b.up) b))

/-- A bundle whose beat has failed four replays in a row. -/
def bundleFails (y : Slice) (bundle : Nat) : Bool := [false, true].any (fun u => decide (4 < tgetD y.fails (wireKey bundle u) 0))

/-- The burst resumes from the first beat not acknowledged. -/
def resumeBurst (bundle : Nat) (y : Slice) : Slice :=
  { y with fails := tset 0 (wireKey bundle false) 0 (tset 0 (wireKey bundle true) 0 y.fails) }

/-- The slices of a tower. -/
def towerSlices (t : Nat) : List Nat := (List.range 2048).filter (fun x => sliceTower x == t)

/-- Kiln retires a slice: its virtual slices move to the other slices of the tower, in turn. -/
def retireSlice (s : State) (x : Nat) : State :=
  let s := losePicked s (fun s r => !isFar s (r.line * 128) && homeSlice s (r.line * 128) r.leaf == x)
  let s := loseEngines s false (fun s _ pa leaf => !isFar s pa && homeSlice s pa leaf == x)
  let s := modSlice s x (fun y => { y with retired := true })
  let ss := towerSlices (sliceTower x)
  wakeWaiting (republish (loseSlices s (fun y => y == x) (fun _ => sliceAfter s ss x)))

/-- VW_REPAIR: the same beat has failed 4 replays: a spare wire, half width, or the slice is retired. -/
def execVwRepair (x bundle : Nat) (halfWorks : Bool) (s : State) : Out :=
  if 2048 ≤ x ∨ 8 ≤ bundle ∨ (sliceOf s x).retired ∨ !bundleFails (sliceOf s x) bundle then .next s
  else
    let n := ((sliceOf s x).spused.extractLsb' (3 * bundle) 3).toNat
    let s := modSlice s x (resumeBurst bundle)
    if n < 4 then .next (modSlice s x (fun y => { y with spused := y.spused + BitVec.ofNat 24 (2 ^ (3 * bundle)) }))
    else if halfWorks && !(sliceOf s x).half.getLsbD bundle then
      .next (modSlice s x (fun y => { y with half := y.half ||| (1#8 <<< bundle) }))
    else if kilnUp s then .next (retireSlice s x)
    else .next s

end Sys2Proof.Machine
end

