-- ==== Sys2Proof/Machine/Damper.lean ====
section
/-! DEFINITION. The Damper: the load model at window boundaries, its grants, ballast and ramp deadlines (R445 to R454), and the
current clamp (R456). -/

namespace Sys2Proof.Machine

/-! ## Grants (R448 to R450) -/

/-- The requests granted from the head of the list, none passed over, and the load with them. -/
def takeGrants (room : Nat) : List DamperReq → Nat → List DamperReq × Nat
  | [], used => ([], used)
  | r :: l, used =>
    if used + r.load ≤ room then
      let x := takeGrants room l (used + r.load)
      (r :: x.1, x.2)
    else ([], used)

/-- What a boundary grants: the requests, the load with them, and whether the rise exceeds the bound. -/
def boundaryGrants (d : Damper) (r0 : Nat) : List DamperReq × Nat × Bool :=
  let room := d.t + d.bound
  if room < r0 then ([], r0, true)
  else match d.reqs with
    | [] => ([], r0, false)
    | x :: l =>
      if room < r0 + x.load ∧ d.bound < x.load ∧ r0 ≤ d.t then ([x], r0 + x.load, true)
      else
        let g := takeGrants room (x :: l) r0
        (g.1, g.2, false)

def dropRequest (s : State) (id : Nat) : State :=
  { s with damper := { s.damper with reqs := s.damper.reqs.filter (fun r => r.id != id) } }

/-- A request of the list is granted (R449). -/
def grantRequest (s : State) (r : DamperReq) : State :=
  match r.what with
  | .admission lead => grantAdmission s lead
  | w => grantRelease s w

/-! ## Ramp tolerance (R454) -/

/-- A cluster that is not admitted: its allocations are freed and its node ends as refused. -/
def refuseCluster (s : State) (lead : Nat) : State :=
  let tm := teamOf s lead
  let ks := (admitting s tm.ctx tm.node tm.cluster).map (·.1)
  let s := { s with
    threads := s.threads.filter (fun e => !ks.contains (e.1 / 1024))
    groups := s.groups.filter (fun e => !ks.contains (e.1 / 32)) }
  let s := ks.foldl (fun s k => modTeam s k (fun x => { x with state := .exited, freed := true, counted := false })) s
  let s := modRun s tm.ctx tm.node (fun r => { r with refused := true, pooled := false, ended := r.ended + 1 })
  let s := nodeSettle s tm.ctx tm.node
  schedule (fillPool s.nodes.length s) s.now .placementPass

/-- The team that a request is for. -/
def reqTeam (w : ReqFor) : Nat :=
  match w with
  | .admission k => k
  | .bar k _ => k
  | .wake (t :: _) => t.team
  | .wake [] => 0
  | .gridStep _ _ k => k

/-- A pinned request that has not been granted by its deadline: the admission is refused, or the release granted outside the
bound, and a record is sent with the shortfall. -/
def missDeadline (s : State) (r : DamperReq) : State :=
  let room := s.damper.room
  let tm := teamOf s (reqTeam r.what)
  let s := dropRequest s r.id
  let s := sendRecord s tm.ctx 0#64 0#64 (r.load - room) 0#64 0 tm.index (if r.release then 6 else 4) 6 0 fRAMP_VIOLATION false
  let s := { s with damper := { s.damper with viol := s.damper.viol + 1 } }
  if r.release then
    let spent := decide (room < r.load)
    let d := s.damper
    let s := { s with damper := { d with
      room := room - r.load, spent := d.spent || spent, excess := if spent && !d.spent then d.excess + 1 else d.excess } }
    grantRelease s r.what
  else match r.what with
    | .admission k => refuseCluster s k
    | _ => s

/-- Whether a request is submitted at the tick of its deadline's boundary, after that boundary's grants, and fits what they leave: nothing
stands before it and the room suffices (R448, R454). -/
def stillFits (s : State) (r : DamperReq) : Bool :=
  s.now % windowTicks == 0 && s.damper.reqs.head?.map (·.id) == some r.id && decide (r.load ≤ s.damper.room) && !s.damper.spent

/-- It is granted at that boundary; the estimate of the window takes it in, in the place of ballast where there is any. -/
def grantLate (s : State) (r : DamperReq) : State :=
  let s := dropRequest s r.id
  let d := s.damper
  grantRequest { s with damper := { d with room := d.room - r.load, r := d.r + r.load, t := max d.t (d.r + r.load) } } r

/-- RAMP_DEADLINE: the window of the deadline has begun, its boundary has granted what it grants, and the request still stands in the
list. -/
def execRampDeadline (id : Nat) (s : State) : Out :=
  match s.damper.reqs.find? (fun r => r.id == id) with
  | some r =>
    (match r.deadline with
     | some d =>
       if s.now / windowTicks < d ∨ s.damper.win < d then .next s
       else .next (if stillFits s r then grantLate s r else missDeadline s r)
     | none => .next s)
  | none => .next s

/-! ## Ballast (R452, R453) -/

/-- The declared loads of the active teams on a quad. -/
def activeLoad (s : State) (q : Nat) : Nat :=
  s.teams.foldl (fun a e =>
    if e.2.counted && coreQuad e.2.core == q && !quietTeam s e.1 then a + e.2.hdr.load else a) 0

/-- Whether a quad can take ballast. -/
def takesBallast (s : State) (q : Nat) : Bool := !(quadOf s q).gated && (towerOf s (quadTower q)).tstate == 0#2

/-- Divides ballast among quads in ascending quad id; answers what no quad took. -/
def divide : List Nat → State → Nat → Nat × State
  | [], s, left => (left, s)
  | q :: l, s, left =>
    let a := activeLoad s q
    let k := if takesBallast s q then min left ((quadOf s q).share - a) else 0
    let s := modQuad s q (fun x => { x with share := a + k, balPending := x.balPending + k })
    divide l (if k = 0 then s else kickEngine s q) (left - k)

/-- The quads that the model knows: those with a share of the estimate, and those with teams. -/
def modelQuads (s : State) : List Nat :=
  (((s.quads.map (·.1)) ++ s.teams.map (fun e => coreQuad e.2.core)).eraseDups).mergeSort (fun a b => decide (a ≤ b))

/-! ## The clamp (R456) -/

/-- The measure of the window that ends: what a quad measures is free, and a gated quad is idle. Sixteen windows of at most half
the limit are one run. -/
def clampQuad (s : State) (q : Nat) : State :=
  let (k, s) := newFresh s
  let x := quadOf s q
  let m := if x.gated then 0 else Config.activity k q
  let n := if 2 * m ≤ x.ilim.toNat then x.quiet + 1 else 0
  let low := decide (16 ≤ n)
  let s := modQuad s q (fun x =>
    { x with measure := m, quiet := if low && x.pass == x.floor then 0 else n
             pass := if x.pass.toNat < x.floor.toNat then x.floor else x.pass })
  let s := if x.ilim.toNat < m then schedule s s.now (.clampRaise q) else s
  if low then schedule s s.now (.clampLower q) else s

/-- CLAMP_RAISE: the measure of a window has exceeded ILIM. -/
def execClampRaise (q : Nat) (s : State) : Out :=
  let x := quadOf s q
  if x.ilim.toNat < x.measure ∧ x.pass.toNat < 2 then
    .next (modQuad s q (fun x => { x with pass := x.pass + 1, clampev := x.clampev + 1, quiet := 0, measure := 0 }))
  else .next s

/-- CLAMP_LOWER: after a run of 16 windows the pass count halves, never below FLOOR. -/
def execClampLower (q : Nat) (s : State) : Out :=
  let x := quadOf s q
  if 16 ≤ x.quiet then
    .next (modQuad s q (fun x => { x with quiet := 0, pass := if x.floor.toNat < x.pass.toNat then x.pass - 1 else x.pass }))
  else .next s

/-! ## The boundary (R447, R448, R452) -/

/-- Towers that leave look again at what they wait for (R461). -/
def lookLeaving (s : State) : State :=
  s.towers.foldl (fun s e => if e.2.offlining.isSome then scheduleOnce s s.now (.offlineComplete e.1) else s) s

/-- The estimate and the ballast of a window, after its grants. -/
def estimate (s : State) (t0 : Nat) : State :=
  let r := rawLoad s
  let g := t0 - s.damper.bound - r
  let x := divide (modelQuads s) s g
  let s := x.2
  { s with damper := { s.damper with t := r + g - x.1, r := r, short := s.damper.short + BitVec.ofNat 64 x.1 } }

/-- WINDOW_BOUNDARY: every 100 ns. -/
def execWindowBoundary (s : State) : Out :=
  let w := s.now / windowTicks
  if s.now % windowTicks ≠ 0 ∨ w ≤ s.damper.win then .next s
  else
    let s := scheduleOnce s (s.now + windowTicks) .windowBoundary
    let s := (s.quads.map (·.1)).foldl clampQuad s
    let d := s.damper
    let g := boundaryGrants d (rawLoad s)
    let late := d.reqs.filter (fun r => !g.1.contains r && (match r.deadline with | some x => decide (x ≤ w) | none => false))
    let s := { s with damper := { d with
      reqs := d.reqs.filter (fun r => !g.1.contains r), win := w, spent := g.2.2, room := d.t + d.bound - g.2.1,
      excess := if g.2.2 then d.excess + 1 else d.excess } }
    let s := g.1.foldl grantRequest s
    let s := late.foldl missDeadline s
    .next (lookLeaving (estimate s d.t))

end Sys2Proof.Machine
end

