-- ==== Sys2Proof/Machine/Crypto.lean ====
section
/-! DEFINITION. The cryptography that R465, R466 and R472 name: SHA-256, and SLH-DSA-SHA2-128s of FIPS 205 in its pure form with an empty
context (PRESUMED, log entry 101). -/

namespace Sys2Proof.Machine

/-! ## SHA-256 -/

def shaK : List Word32 :=
  [0x428A2F98#32, 0x71374491#32, 0xB5C0FBCF#32, 0xE9B5DBA5#32, 0x3956C25B#32, 0x59F111F1#32, 0x923F82A4#32, 0xAB1C5ED5#32,
   0xD807AA98#32, 0x12835B01#32, 0x243185BE#32, 0x550C7DC3#32, 0x72BE5D74#32, 0x80DEB1FE#32, 0x9BDC06A7#32, 0xC19BF174#32,
   0xE49B69C1#32, 0xEFBE4786#32, 0x0FC19DC6#32, 0x240CA1CC#32, 0x2DE92C6F#32, 0x4A7484AA#32, 0x5CB0A9DC#32, 0x76F988DA#32,
   0x983E5152#32, 0xA831C66D#32, 0xB00327C8#32, 0xBF597FC7#32, 0xC6E00BF3#32, 0xD5A79147#32, 0x06CA6351#32, 0x14292967#32,
   0x27B70A85#32, 0x2E1B2138#32, 0x4D2C6DFC#32, 0x53380D13#32, 0x650A7354#32, 0x766A0ABB#32, 0x81C2C92E#32, 0x92722C85#32,
   0xA2BFE8A1#32, 0xA81A664B#32, 0xC24B8B70#32, 0xC76C51A3#32, 0xD192E819#32, 0xD6990624#32, 0xF40E3585#32, 0x106AA070#32,
   0x19A4C116#32, 0x1E376C08#32, 0x2748774C#32, 0x34B0BCB5#32, 0x391C0CB3#32, 0x4ED8AA4A#32, 0x5B9CCA4F#32, 0x682E6FF3#32,
   0x748F82EE#32, 0x78A5636F#32, 0x84C87814#32, 0x8CC70208#32, 0x90BEFFFA#32, 0xA4506CEB#32, 0xBEF9A3F7#32, 0xC67178F2#32]

/-- The eight words of a hash under way. -/
structure Sha where
  a : Word32
  b : Word32
  c : Word32
  d : Word32
  e : Word32
  f : Word32
  g : Word32
  h : Word32
  deriving DecidableEq, Repr

def shaInit : Sha :=
  ⟨0x6A09E667#32, 0xBB67AE85#32, 0x3C6EF372#32, 0xA54FF53A#32,
    0x510E527F#32, 0x9B05688C#32, 0x1F83D9AB#32, 0x5BE0CD19#32⟩

def rotr (x : Word32) (n : Nat) : Word32 := x.rotateRight n

/-- `n` more words of the schedule, the newest first. -/
def shaSchedule : Nat → List Word32 → List Word32
  | 0, w => w
  | n + 1, w =>
    let x := w.getD 1 0#32
    let y := w.getD 14 0#32
    shaSchedule n (((rotr x 17 ^^^ rotr x 19 ^^^ (x >>> 10)) + w.getD 6 0#32 + (rotr y 7 ^^^ rotr y 18 ^^^ (y >>> 3)) + w.getD 15 0#32) :: w)

def shaRound (v : Sha) (k w : Word32) : Sha :=
  let t := v.h + (rotr v.e 6 ^^^ rotr v.e 11 ^^^ rotr v.e 25) + ((v.e &&& v.f) ^^^ (~~~v.e &&& v.g)) + k + w
  let u := (rotr v.a 2 ^^^ rotr v.a 13 ^^^ rotr v.a 22) + ((v.a &&& v.b) ^^^ (v.a &&& v.c) ^^^ (v.b &&& v.c))
  ⟨t + u, v.a, v.b, v.c, v.d + t, v.e, v.f, v.g⟩

def beNat (bs : List Byte) : Nat := bs.foldl (fun n b => n * 256 + b.toNat) 0
def beBytes (n k : Nat) : List Byte := (leBytes n k).reverse

def shaBlock (v : Sha) (block : List Byte) : Sha :=
  let w := (List.range 16).map (fun i => BitVec.ofNat 32 (beNat ((block.drop (4 * i)).take 4)))
  let r := (shaK.zip (shaSchedule 48 w.reverse).reverse).foldl (fun r x => shaRound r x.1 x.2) v
  ⟨v.a + r.a, v.b + r.b, v.c + r.c, v.d + r.d, v.e + r.e, v.f + r.f, v.g + r.g, v.h + r.h⟩

def shaBlocks : Nat → Sha → List Byte → Sha
  | 0, v, _ => v
  | n + 1, v, bs => shaBlocks n (shaBlock v (bs.take 64)) (bs.drop 64)

def shaPad (n : Nat) : List Byte := 0x80#8 :: (List.replicate ((119 - n % 64) % 64) 0#8 ++ beBytes (8 * n) 8)

/-- SHA-256. -/
@[irreducible] def sha256 (m : List Byte) : List Byte :=
  let v := shaBlocks ((m.length + 72) / 64) shaInit (m ++ shaPad m.length)
  [v.a, v.b, v.c, v.d, v.e, v.f, v.g, v.h].flatMap (fun x => beBytes x.toNat 4)

/-! ## The functions of SLH-DSA-SHA2-128s -/

/-- An address, in its compressed form (FIPS 205, 11.2). -/
structure Adrs where
  layer : Nat := 0
  tree : Nat := 0
  kind : Nat := 0
  pair : Nat := 0
  chain : Nat := 0
  index : Nat := 0
  deriving DecidableEq, Repr

def Adrs.bytes (x : Adrs) : List Byte :=
  beBytes x.layer 1 ++ beBytes x.tree 8 ++ beBytes x.kind 1 ++ beBytes x.pair 4 ++ beBytes x.chain 4 ++ beBytes x.index 4

/-- F, H, T and PRF: the first 16 bytes of a hash under the public seed and an address. -/
def slhHash (seed : List Byte) (x : Adrs) (m : List Byte) : List Byte :=
  (sha256 (seed ++ List.replicate 48 0#8 ++ x.bytes ++ m)).take 16

def slhChain (seed : List Byte) (x : Adrs) : Nat → Nat → List Byte → List Byte
  | 0, _, m => m
  | n + 1, i, m => slhChain seed x n (i + 1) (slhHash seed { x with index := i } m)

/-- The piece `i` of a string of 16-byte pieces. -/
def piece (bs : List Byte) (i : Nat) : List Byte := (bs.drop (16 * i)).take 16

/-- The 35 digits of a message of 16 bytes, its checksum among them. -/
def wotsDigits (m : List Byte) : List Nat :=
  let d := m.flatMap (fun b => [b.toNat / 16, b.toNat % 16])
  let c := d.foldl (fun n x => n + (15 - x)) 0
  d ++ [c / 256 % 16, c / 16 % 16, c % 16]

def wotsRoot (seed : List Byte) (x : Adrs) (tips : List (List Byte)) : List Byte :=
  slhHash seed { x with kind := 1, chain := 0, index := 0 } tips.flatten

/-- The WOTS+ public key that a signature stands for. -/
def wotsFrom (seed sig m : List Byte) (x : Adrs) : List Byte :=
  wotsRoot seed x (((List.range 35).zip (wotsDigits m)).map (fun y =>
    slhChain seed { x with kind := 0, chain := y.1 } (15 - y.2) y.2 (piece sig y.1)))

/-- The climb from a node to its root by an authentication path: `i` is the index of the node, `h` its height. -/
def climb (seed : List Byte) (x : Adrs) : List (List Byte) → Nat → Nat → List Byte → List Byte
  | [], _, _, node => node
  | a :: r, i, h, node =>
    climb seed x r (i / 2) (h + 1) (slhHash seed { x with chain := h + 1, index := i / 2 } (if i % 2 = 0 then node ++ a else a ++ node))

def pieces (bs : List Byte) (first n : Nat) : List (List Byte) := (List.range n).map (fun i => piece bs (first + i))

/-- The root of an XMSS tree that a signature of 44 pieces stands for. -/
def xmssFrom (seed sig m : List Byte) (x : Adrs) (leaf : Nat) : List Byte :=
  climb seed { x with kind := 2, pair := 0 } (pieces sig 35 9) leaf 0 (wotsFrom seed sig m { x with pair := leaf })

/-- The root of the hypertree, through the layers from `j` on. -/
def treeFrom (seed sig : List Byte) : Nat → Nat → Nat → Nat → List Byte → List Byte
  | 0, _, _, _, node => node
  | n + 1, j, tree, leaf, node =>
    treeFrom seed sig n (j + 1) (tree / 512) (tree % 512)
      (xmssFrom seed (sig.drop (704 * j)) node { layer := j, tree := tree } leaf)

/-- The 14 indices of 12 bits. -/
def forsIndices (md : List Byte) : List Nat := (List.range 14).map (fun i => beNat (md.take 21) / 2 ^ (156 - 12 * i) % 4096)

/-- The FORS public key that a signature stands for. -/
def forsFrom (seed sig md : List Byte) (x : Adrs) : List Byte :=
  let roots := ((List.range 14).zip (forsIndices md)).map (fun y =>
    let at' := y.1 * 4096 + y.2
    climb seed { x with kind := 3 } (pieces sig (13 * y.1 + 1) 12) at' 0
      (slhHash seed { x with kind := 3, chain := 0, index := at' } (piece sig (13 * y.1))))
  slhHash seed { x with kind := 4, chain := 0, index := 0 } roots.flatten

/-- The digest of a message: 30 bytes. -/
def slhDigest (r seed root m : List Byte) : List Byte :=
  (sha256 (r ++ seed ++ sha256 (r ++ seed ++ root ++ m) ++ List.replicate 4 0#8)).take 30

def digestTree (d : List Byte) : Nat := beNat ((d.drop 21).take 7) % 2 ^ 54
def digestLeaf (d : List Byte) : Nat := beNat ((d.drop 28).take 2) % 512

/-- What is signed for a message: the pure form with an empty context. -/
def slhPure (m : List Byte) : List Byte := 0#8 :: 0#8 :: m

/-- Verification: public key, message, signature. -/
@[irreducible] def slhDsaVerify (key m sig : List Byte) : Bool :=
  let seed := key.take 16
  let d := slhDigest (sig.take 16) seed (key.drop 16) (slhPure m)
  let t := digestTree d
  let l := digestLeaf d
  decide (sig.length = 7856 ∧ key.length = 32)
    && treeFrom seed (sig.drop 2928) 7 0 t l (forsFrom seed (sig.drop 16) d { tree := t, pair := l }) == key.drop 16

/-! ## Keys and signing -/

def wotsSecret (seed sk : List Byte) (x : Adrs) (i : Nat) : List Byte := slhHash seed { x with kind := 5, chain := i, index := 0 } sk

def wotsLeaf (seed sk : List Byte) (x : Adrs) : List Byte :=
  wotsRoot seed x ((List.range 35).map (fun i => slhChain seed { x with kind := 0, chain := i } 15 0 (wotsSecret seed sk x i)))

/-- A node of an XMSS tree at height `h`. -/
def xmssNode (seed sk : List Byte) (x : Adrs) : Nat → Nat → List Byte
  | 0, i => wotsLeaf seed sk { x with pair := i }
  | h + 1, i =>
    slhHash seed { x with kind := 2, pair := 0, chain := h + 1, index := i }
      (xmssNode seed sk x h (2 * i) ++ xmssNode seed sk x h (2 * i + 1))

def sibling (i : Nat) : Nat := if i % 2 = 0 then i + 1 else i - 1

def xmssSign (seed sk m : List Byte) (x : Adrs) (leaf : Nat) : List Byte :=
  let y := { x with pair := leaf }
  ((List.range 35).zip (wotsDigits m)).flatMap (fun d => slhChain seed { y with kind := 0, chain := d.1 } d.2 0 (wotsSecret seed sk y d.1))
    ++ (List.range 9).flatMap (fun h => xmssNode seed sk x h (sibling (leaf / 2 ^ h)))

def treeSign (seed sk : List Byte) : Nat → Nat → Nat → Nat → List Byte → List Byte
  | 0, _, _, _, _ => []
  | n + 1, j, tree, leaf, m =>
    let x : Adrs := { layer := j, tree := tree }
    let sig := xmssSign seed sk m x leaf
    sig ++ treeSign seed sk n (j + 1) (tree / 512) (tree % 512) (xmssFrom seed sig m x leaf)

def forsSecret (seed sk : List Byte) (x : Adrs) (i : Nat) : List Byte := slhHash seed { x with kind := 6, chain := 0, index := i } sk

def forsNode (seed sk : List Byte) (x : Adrs) : Nat → Nat → List Byte
  | 0, i => slhHash seed { x with kind := 3, chain := 0, index := i } (forsSecret seed sk x i)
  | h + 1, i =>
    slhHash seed { x with kind := 3, chain := h + 1, index := i } (forsNode seed sk x h (2 * i) ++ forsNode seed sk x h (2 * i + 1))

def forsSign (seed sk md : List Byte) (x : Adrs) : List Byte :=
  ((List.range 14).zip (forsIndices md)).flatMap (fun y =>
    let at' := y.1 * 4096 + y.2
    forsSecret seed sk x at' ++ (List.range 12).flatMap (fun h => forsNode seed sk x h (sibling (at' / 2 ^ h))))

/-- HMAC-SHA-256 under a key of 16 bytes. -/
def hmac (key m : List Byte) : List Byte :=
  let pad := fun (b : Byte) => (key ++ List.replicate 48 0#8).map (· ^^^ b)
  sha256 (pad 0x5C#8 ++ sha256 (pad 0x36#8 ++ m))

/-- The public key of a 48-byte seed: SK.seed, SK.prf and PK.seed in that order (R466). -/
@[irreducible] def slhKey (seed48 : List Byte) : List Byte :=
  let seed := piece seed48 2
  seed ++ xmssNode seed (piece seed48 0) { layer := 6 } 9 0

/-- Signing with the key of a 48-byte seed; `rand` are the 16 bytes that randomise a signature. -/
@[irreducible] def slhSign (seed48 m rand : List Byte) : List Byte :=
  let sk := piece seed48 0
  let key := slhKey seed48
  let seed := key.take 16
  let r := (hmac (piece seed48 1) (rand ++ slhPure m)).take 16
  let d := slhDigest r seed (key.drop 16) (slhPure m)
  let x : Adrs := { tree := digestTree d, pair := digestLeaf d }
  let fors := forsSign seed sk d x
  r ++ fors ++ treeSign seed sk 7 0 (digestTree d) (digestLeaf d) (forsFrom seed fors d x)

end Sys2Proof.Machine
end

