-- ==== Sys2Proof/Machine/Power.lean ====
section
/-! DEFINITION. Power states: the Kiln mailbox and its commands (R458 to R460), towers offline, tripped and lost (R461, R462),
and the end of a ratio stop (R19, R460). -/

namespace Sys2Proof.Machine

/-! ## The clock of a quad (R19, R140) -/

/-- A quad is gated: its clock stands and its pending ballast is discarded (R453). -/
def gateQuad (s : State) (q : Nat) : State :=
  let c := clockOf s (quadOf s q)
  modQuad s q (fun x => { x with gated := true, clkBase := c, balPending := 0 })

/-- `%clock` of a quad counts from 0 from here; what was to happen in core clocks still to come keeps its distance. -/
def restartClock (s : State) (q : Nat) : State :=
  let c := (quadOf s q).clkBase
  let s := modQuad s q (fun x =>
    { x with
      gated := false, clkBase := 0, clkSince := s.now, slipFree := 0, pugClk := 0, pugCnt := 0
      passAt := x.passAt.map (· - c) })
  let s := (quadCores q).foldl (fun s k => modCore s k (fun x => { x with nextPick := 0, sfuUntil := 0 })) s
  { s with
    reqs := tmap (fun r => if coreQuad r.core = q then { r with dueClk := r.dueClk.map (· - c) } else r) s.reqs
    ctimers := s.ctimers.map (fun e => if e.1 = q then (e.1, e.2.map (fun x => (x.1 - c, x.2))) else e) }

/-- A quad is ungated: `%clock` counts from here, and the engine and the dispatcher look at it. -/
def ungateQuad (s : State) (q : Nat) : State :=
  if !(quadOf s q).gated then s
  else
    let s := restartClock s q
    schedule (resumeEngine s q) s.now .placementPass

/-- A change of entry within one ratio takes effect at the next clock boundary, without stopping issue. -/
def setEntry (s : State) (q : Nat) (entry : BitVec 2) : State :=
  let x := quadOf s q
  if clockStands x then modQuad s q (fun x => { x with entry := entry })
  else modQuad s q (fun y => { y with entry := entry, clkBase := clockOf s x + 1, clkSince := nextClock s q })

/-- The longest ratio stop: 2 µs. -/
def stopBound : Nat := 2000 * nsTicks

/-- A stop finds a pass, and commands whose passes are over, under way: they end when they would have ended without it (R460). -/
def passesOn (s : State) (q : Nat) : State :=
  let x := quadOf s q
  let s := match x.passAt with
    | some k => schedule (modQuad s q (fun y => { y with passTick := some (clockTick x k) })) (clockTick x k) (.enginePass q)
    | none => s
  x.me.foldl (fun s e =>
    match e.doneAt with
    | some k => schedule (modCmd s q e.id (fun e => { e with doneTick := some (clockTick x k) })) (clockTick x k) (.meCommandComplete q e.id)
    | none => s) s

/-- A change of ratio: issue stops, for a time that is free up to the bound, and the core clock stands (R140). -/
def stopQuad (s : State) (q : Nat) (ratio entry : BitVec 2) : State :=
  let (k, s) := newFresh s
  let s := passesOn s q
  let c := clockOf s (quadOf s q)
  let t := s.now + min (Config.stopTicks k) stopBound
  schedule (modQuad s q (fun x => { x with stopUntil := some t, clkBase := c, ratio := ratio, entry := entry })) t
    (.ratioChangeComplete q)

/-! ## The mailbox (R458) -/

/-- A command ends with a status, which interrupts function 0. -/
def closeMailbox (s : State) (st : Nat) : State := interrupt { s with kiln := { s.kiln with status := BitVec.ofNat 8 st } } 0 3

/-- The operating point of a quad (SETOP): 0 done, 2 refused, 3 queued behind a stop. -/
def setPoint (s : State) (q : Nat) (arg : Word64) : Nat × State :=
  let x := quadOf s q
  let ratio := arg.extractLsb' 10 2
  let entry := arg.extractLsb' 12 2
  if x.stopUntil.isSome then
    (if x.nextOp.isSome then (2, s) else (3, modQuad s q (fun x => { x with nextOp := some arg })))
  else if x.gated then (0, modQuad s q (fun x => { x with ratio := ratio, entry := entry }))
  else if ratio = x.ratio then (0, setEntry s q entry)
  else (0, stopQuad s q ratio entry)

/-- Whether something of a quad keeps it from being gated (R459). -/
def quadBusy (s : State) (q : Nat) : Bool :=
  (quadCores q).any (fun c => !(placedOn s c).isEmpty) || !(quadOf s q).me.isEmpty
    || s.copies.any (fun e => coreQuad e.2.core == q && e.2.state == .running)

/-- The KMARG bits of a command (R459). -/
def argMask (code : Nat) : Nat :=
  match code with
  | 1 => 0x3FFF
  | 2 => 0x3FF
  | 3 => 0x3FF
  | 4 => 7
  | 5 => 7
  | 6 => 0x1FF
  | 7 => 0xFFF
  | 8 => 0xFF07
  | _ => 0

def nearest (lo hi n : Nat) : Nat := max lo (min hi n)

/-- Sets ALRM and sends vector 3 (R462). -/
def raiseAlarm (s : State) (t : Nat) : State :=
  if (towerOf s t).alrm then s
  else interrupt (modTower s t (fun x => { x with alrm := true, alrmAt := some s.now })) 0 3

def online (s : State) (t : Nat) : Bool := (towerOf s t).tstate == 0#2 && (towerOf s t).offlining.isNone

/-- Whether an OFFLINE comes within the 20 ms of R462. -/
def tripTicks : Nat := 20000000 * nsTicks

/-- OFFLINE is accepted: the dispatcher places nothing more on the tower, and its steps follow (R461). -/
def startOffline (s : State) (t : Nat) : State :=
  let s := modTower s t (fun x =>
    { x with offlining := some s.now
             alrmAt := match x.alrmAt with | some a => if s.now ≤ a + tripTicks then none else some a | none => none })
  scheduleOnce { s with kiln := { s.kiln with busy := some (4, BitVec.ofNat 64 t) } } s.now (.offlineComplete t)

/-- Where a virtual slice of a tower that leaves goes: to the slice of the same number in the next tower that stays. -/
def slotElsewhere (s : State) (x : Nat) : Nat :=
  let c := ((List.range 7).map (fun i => (x + 256 * (i + 1)) % 2048)).filter (fun y =>
    (towerOf s (sliceTower y)).tstate == 0#2)
  let y := c.headD x
  if (sliceOf s y).retired then sliceAfter s (towerSlices (sliceTower y)) y else y

/-- ONLINE: the tower's slices rejoin the remap empty, and the quads that OFFLINE gated are ungated (R461). -/
def bringOnline (s : State) (t : Nat) : State :=
  if online s t then s
  else
    let quads := (towerOf s t).wasOn
    let s := modTower s t (fun x => { x with tstate := 0#2, wasOn := [], alrmAt := if x.alrm then x.alrmAt else none })
    let mine := towerSlices t
    let was := mine.map (fun v => tgetD s.remap v v)
    let back := fun (v : Nat) => if (sliceOf s v).retired then sliceAfter s mine v else v
    let s := { s with
      cache := s.cache.filter (fun e => !was.contains e.2.slice)
      remap := mine.foldl (fun m v => tset v v (back v) m) s.remap }
    let s := quads.foldl ungateQuad s
    wakeWaiting (republish (schedule s s.now .placementPass))

/-- What a command does, and its status (R459). OFFLINE answers 0 and stays BUSY. A T1 has no tower but tower 0 to bring back (R12). -/
def actMailbox (s : State) (code : Nat) (arg : Word64) : Nat × State :=
  let q := bits arg 0 10
  let t := bits arg 0 3
  if arg &&& ~~~(BitVec.ofNat 64 (argMask code)) ≠ 0#64 then (1, s)
  else match code with
    | 1 => if bits arg 10 2 = 3 ∨ bits arg 12 2 = 3 then (1, s) else setPoint s q arg
    | 2 => if quadBusy s q then (1, s) else (0, gateQuad s q)
    | 3 => if (towerOf s (quadTower q)).tstate ≠ 0#2 then (1, s) else (0, ungateQuad s q)
    | 4 => if !online s t || ((List.range 8).filter (online s)).length ≤ 1 then (1, s) else (0, startOffline s t)
    | 5 => if (towerOf s t).tstate = 3#2 ∨ (s.t1 ∧ t ≠ 0) then (1, s) else (0, bringOnline s t)
    | 6 => (0, { s with damper := { s.damper with bound := nearest 20 400 (bits arg 0 9) } })
    | 7 => if bits arg 10 2 = 3 then (1, s) else (0, modQuad s q (fun x => { x with floor := arg.extractLsb' 10 2 }))
    | 8 =>
      let a := nearest 70 105 (bits arg 8 8)
      let s := modTower s t (fun x => { x with alarm := BitVec.ofNat 8 a })
      (0, if a ≤ (towerOf s t).tj.toNat then raiseAlarm s t else s)
    | _ => (1, s)

/-- A write to KMCMD. A command takes no time but OFFLINE, so that BUSY is set only while one is in progress (log entry 29). -/
def mailbox (s : State) (code : Nat) : State :=
  if s.kiln.busy.isSome || !kilnUp s then closeMailbox s 2
  else
    let r := actMailbox s code s.kiln.arg
    if code = 4 ∧ r.1 = 0 then r.2
    else if r.1 = 3 then { r.2 with kiln := { r.2.kiln with status := 3#8 } }
    else closeMailbox r.2 r.1

/-- Whether the boot ROM answers on the management interface in Kiln's place: at steps 1 and 2 of R464, and in DISPOSED (R472). -/
def romAnswers (s : State) : Bool := s.kiln.restarting || decide (s.kiln.step ≤ 2) || s.kiln.life == 4#3

/-- A command whose argument has been written to KMARG. A boot that has stopped under the boot ROM takes none. -/
def withArg (s : State) (code : Nat) (arg : Word64) : Out :=
  if s.kiln.stopped && romAnswers s then .next s else .next (mailbox { s with kiln := { s.kiln with arg := arg } } code)

/-- SETOP: a quad's ratio and entry. -/
def execSetop (arg : Word64) (s : State) : Out := withArg s 1 arg
/-- GATE: a quad is gated. -/
def execGate (arg : Word64) (s : State) : Out := withArg s 2 arg
/-- UNGATE: a quad is ungated. -/
def execUngate (arg : Word64) (s : State) : Out := withArg s 3 arg
/-- OFFLINE: a tower is taken offline. -/
def execOffline (arg : Word64) (s : State) : Out := withArg s 4 arg
/-- ONLINE: a tower comes back. -/
def execOnline (arg : Word64) (s : State) : Out := withArg s 5 arg
/-- SETBOUND: the bound of the Damper. -/
def execSetbound (arg : Word64) (s : State) : Out := withArg s 6 arg
/-- SETFLOOR: the floor of a quad's pass count. -/
def execSetfloor (arg : Word64) (s : State) : Out := withArg s 7 arg
/-- SETALARM: the alarm threshold of a tower. -/
def execSetalarm (arg : Word64) (s : State) : Out := withArg s 8 arg

/-! ## The end of a ratio stop (R460) -/

/-- A held return is written. -/
def releaseHeld (s : State) (id : Nat) : State :=
  if (tget s.asyncs id).isSome then schedule s s.now (.asyncResultWrite id) else schedule s s.now (.loadReturn id)

/-- RATIO_CHANGE_COMPLETE: held returns are written in the order of their arrival, the engines go on, queued commands act,
and a queued SETOP follows. -/
def execRatioChangeComplete (q : Nat) (s : State) : Out :=
  match (quadOf s q).stopUntil with
  | none => .next s
  | some t =>
    if s.now < t then .next s
    else
      let held := (quadOf s q).heldReturns
      let op := (quadOf s q).nextOp
      let s := modQuad s q (fun x => { x with stopUntil := none, heldReturns := [], nextOp := none, clkSince := s.now })
      let s := deliverLatched (held.foldl releaseHeld s) q
      let s := releaseCommands (resumeSlip (resumeEngine s q) q)
      let s := schedule s s.now .placementPass
      match op with
      | some arg => .next (closeMailbox (setPoint s q arg).2 0)
      | none => .next s

/-! ## Towers offline (R461) -/

/-- Contexts that run, or are being pre-empted, with a team on a tower. -/
def ctxsOn (s : State) (t : Nat) : List Nat :=
  (s.ctxs.filter (fun e => (e.2.state == .running || e.2.state == .preempting)
    && (ctxTeams s e.1).any (fun x => coreTower x.2.core == t
      && (x.2.state == .admitting || x.2.state == .running || x.2.state == .saving)))).map (·.1)

/-- The frames of a tower's pinned units. -/
def pinnedFrames (s : State) (t : Nat) : List Nat := (List.range 48).flatMap (fun u => if spCode s t u = 2 then unitFrames t u else [])

/-- Whether a frame of the tower's pinned units has SHARE above 0. -/
def pinnedInUse (s : State) (t : Nat) : Bool := (pinnedFrames s t).any (fun f => decide (0 < recShare (recOf s f)))

/-- Steps 4 and 5: the slices drop what they hold, the remap and the table change, and the quads are gated. -/
def finishOffline (s : State) (t : Nat) : State :=
  let mine := (List.range 128).map (fun i => t * 128 + i)
  let on := mine.filter (fun q => !(quadOf s q).gated)
  let s := modTower s t (fun x => { x with offlining := none, wasOn := on })
  let s := { s with
    cache := s.cache.filter (fun e => sliceTower e.2.slice != t)
    remap := (List.range 2048).foldl (fun m v =>
      let x := tgetD m v v
      if sliceTower x = t then tset v v (slotElsewhere s x) m else m) s.remap }
  let s := on.foldl gateQuad (republish s)
  wakeWaiting (closeMailbox { s with kiln := { s.kiln with busy := none } } 0)

/-- OFFLINE_COMPLETE: Kiln carries the steps of R461 on as far as they go: contexts on the tower are pre-empted; when none is
left, TSTATE is 1 and the supervisor is told; when no pinned frame is in use, the tower is taken off. -/
def execOfflineComplete (t : Nat) (s : State) : Out :=
  if (towerOf s t).offlining.isNone || !kilnUp s then .next s
  else
    let s := (ctxsOn s t).foldl (fun s c =>
      if (ctxOf s c).state = .running ∧ !ctxStopped s c then preemptCtx s c false else s) s
    if !(ctxsOn s t).isEmpty then .next s
    else
      let s := if (towerOf s t).tstate = 0#2 then interrupt (modTower s t (fun x => { x with tstate := 1#2 })) 0 3 else s
      let s := touchFrames s (pinnedFrames s t)
      .next (if pinnedInUse s t then s else finishOffline s t)

/-! ## Alarms, trips and loss (R462, R471) -/

/-- The junction of a tower is measured; at the alarm threshold ALRM is set (R462). -/
def measureTj (s : State) (t : Nat) (tj : Byte) : State :=
  let s := modTower s t (fun x => { x with tj := tj })
  if (towerOf s t).alarm.toNat ≤ tj.toNat then raiseAlarm s t else s

/-- THERMAL_ALARM: the hottest junction of a tower reaches the alarm threshold. -/
def execThermalAlarm (t : Nat) (tj : Byte) (s : State) : Out :=
  if 8 ≤ t then .next s
  else .next (measureTj s t tj)

/-- COOLANT_FLOW_LOW: Kiln raises the alarms of every tower. -/
def execCoolantFlowLow (s : State) : Out := if kilnUp s then .next ((List.range 8).foldl raiseAlarm s) else .next s

/-- A tower stops at once: contexts with a team on it are FAULTED, what its slices held is poisoned at its new homes. An OFFLINE
of the tower in progress is refused (log entry 29). -/
def stopTower (s : State) (t : Nat) (code : BitVec 2) : State :=
  let left := (towerOf s t).offlining.isSome
  let on := ctxsOn s t
  let s := modTower s t (fun x => { x with tstate := code, offlining := none })
  let s := on.foldl (fun s c => ctxFault s c fTOWER_LOST) s
  let s := loseSlices s (fun x => sliceTower x == t) (slotElsewhere s)
  if left then closeMailbox { s with kiln := { s.kiln with busy := none } } 1 else s

/-- THERMAL_TRIP: the junction reaches 110 °C, and no OFFLINE has been accepted within 20 ms of ALRM. -/
def execThermalTrip (t : Nat) (tj : Byte) (s : State) : Out :=
  if 8 ≤ t then .next s
  else
    let since := (towerOf s t).alrmAt
    let s := measureTj s t tj
    match since with
    | some a =>
      if a + tripTicks ≤ s.now ∧ 110 ≤ tj.toNat ∧ (towerOf s t).tstate.toNat ≤ 1 then
        .next (wakeWaiting (republish (stopTower s t 2#2)))
      else .next s
    | none => .next s

/-- The modules of a tower. -/
def towerLinks (t : Nat) : List Nat := (List.range 4).flatMap (fun e => (List.range (edgeModules e)).map (towerBlk t e))

/-- TOWER_LOST: the tower, its routing layer and its modules are gone (R11, R431). -/
def execTowerLost (t : Nat) (s : State) : Out :=
  if 8 ≤ t ∨ (towerOf s t).tstate = 3#2 then .next s
  else
    let s := losePicked s (fun s r => (towerLinks t).any (crosses s (reqPath s r)))
    let s := loseEngines s false (fun s tower pa leaf => (towerLinks t).any (crosses s (pathOf s tower pa leaf)))
    let s := agentGone s (0x10 + t)
    let s := stopTower s t 3#2
    let s := (towerLinks t).foldl (fun s b => modEnds s b (fun x => { x with state := .failed })) s
    .next (failCutOff (wakeWaiting (interrupt (republish s) 0 2)))

end Sys2Proof.Machine
end

