-- ==== Sys2Proof/Machine/Trust.lean ====
section
/-! DEFINITION. Kiln down and reset (R463, R465), a device reset (R464, R467), attestation (R466), and the life cycle with its
token (R472). -/

namespace Sys2Proof.Machine

def msTicks : Nat := 1000000 * nsTicks

/-! ## Verification of an image (R465) -/

/-- Whether a fused key slot that is not revoked holds a hash. -/
def keyEnrolled (s : State) (h : List Byte) : Bool :=
  !s.kiln.slotsRevoked && (Config.fusedKeys.take 4).any (fun x => x.1 == h && !x.2)

def imageBytes (x : KilnImage) : List Byte := x.code ++ x.key ++ [x.version]

/-- BOOTSTAT.FAIL of an image (R464): 0 where it is accepted. A key that has not 32 bytes is none that is enrolled (log entry 101). -/
def imageFail (s : State) (x : KilnImage) : Nat :=
  if !x.readable then 1
  else if x.key.length ≠ 32 ∨ !keyEnrolled s (sha256 x.key) then 2
  else if x.sig.length ≠ 7856 ∨ !slhDsaVerify x.key (imageBytes x) x.sig then 3
  else if x.version.toNat < Config.fusedMinVersion.toNat then 4
  else 0

/-- The image in the flash at a reset. The one that the device left its first reset with was accepted then, and is as long as its
key is not revoked. -/
def flashFail (s : State) : Nat :=
  match s.kiln.flash with
  | some x => imageFail s x
  | none => if s.kiln.slotsRevoked then 2 else 0

/-! ## Kiln down (R463) -/

/-- A SETOP that is queued and has not begun ends with status 4. -/
def loseQueued (s : State) : State :=
  if s.quads.any (fun e => e.2.nextOp.isSome) then
    closeMailbox ((s.quads.filter (fun e => e.2.nextOp.isSome)).foldl (fun s e => modQuad s e.1 (fun x => { x with nextOp := none })) s) 4
  else s

/-- KILN_HANG: Kiln stops serving; the watchdog resets it after 100 ms. -/
def execKilnHang (s : State) : Out :=
  if !kilnUp s || s.kiln.stopped then .next s
  else
    .next (schedule (loseQueued { s with kiln := { s.kiln with down := some s.now } }) (s.now + 100 * msTicks) .kilnWatchdogReset)

/-- A reset of Kiln alone (R465): signing ends with status 4, and steps 1 and 2 of R464 run, each in a time that is free up to its
bound. -/
def resetKiln (s : State) : State :=
  let (n, s) := contend s
  let k := s.kiln
  let s := { s with kiln := { k with
    down := some (k.down.getD s.now), restarting := true, step := 1, atbusy := false,
    atstatus := if k.atbusy then 4#8 else k.atstatus } }
  schedule s (s.now + min n (40 * msTicks)) .kilnRestartComplete

/-- KILN_WATCHDOG_RESET: Kiln has been without service for 100 ms. -/
def execKilnWatchdogReset (s : State) : Out :=
  match s.kiln.down with
  | some t => if t + 100 * msTicks ≤ s.now ∧ !s.kiln.restarting ∧ !s.kiln.stopped then .next (interrupt (resetKiln s) 0 3) else .next s
  | none => .next s

/-- KILN_RESTART_COMPLETE: a step of the reset is over. After the second Kiln runs the image of the flash, reads the topology table back and
takes up its work, what it had to publish among it; or it stays down with the reason in BOOTSTAT. -/
def execKilnRestartComplete (s : State) : Out :=
  if !s.kiln.restarting then .next s
  else if s.kiln.step = 1 then
    let (n, s) := contend s
    .next (schedule { s with kiln := { s.kiln with step := 2 } } (s.now + min n (900 * msTicks)) .kilnRestartComplete)
  else
    let f := flashFail s
    if f ≠ 0 then .next { s with kiln := { s.kiln with restarting := false, step := 2, fail := f } }
    else
      let k := s.kiln
      let k := match k.flash with
        | some x => { k with imageVersion := x.version, imageDigest := sha256 (imageBytes x ++ x.sig) }
        | none => k
      let s := { s with kiln := { k with restarting := false, down := none, step := 6, fail := 0, unpublished := false } }
      .next (wakeWaiting (failCutOff (if k.unpublished then republish s else s)))

/-- KILN_UPDATE: a new image that passes the checks is kept in the flash, and Kiln is reset to run it. -/
def execKilnUpdate (x : KilnImage) (s : State) : Out :=
  if !kilnUp s || s.kiln.stopped || imageFail s x ≠ 0 then .next s
  else .next (resetKiln (loseQueued { s with kiln := { s.kiln with flash := some x } }))

/-! ## Device reset (R464, R467) -/

/-- The life-cycle fuses at a device reset: a pending change takes effect. -/
def lifeChange (k : Kiln) : Kiln :=
  let n := if k.pending = 7#3 then k.life else k.pending
  { k with life := n, pending := 7#3,
           identity := if n = 0#3 ∨ n = 3#3 ∨ n = 4#3 then false else true,
           slotsRevoked := k.slotsRevoked || n == 4#3 }

/-- What a device reset keeps: fuses and flash, what lies outside the module, and the course of the free values. -/
def resetKeep (s : State) : State :=
  let k := lifeChange s.kiln
  let k' := { State.reset.kiln with
    life := k.life, identity := k.identity, slotsRevoked := k.slotsRevoked, flash := k.flash,
    imageVersion := k.imageVersion, imageDigest := k.imageDigest }
  { State.reset with
    kiln := k', hostMem := s.hostMem, fresh := s.fresh, agenda := s.agenda, sent := s.sent, msix := s.msix, pcieUp := s.pcieUp,
    fxInc := s.fxInc + 1, package := s.package }

/-- What a die presents at a first join: INC 0, and at least the credits that R419 asks (R433). -/
def freshDie (d : IdentMsg) : Bool := d.inc == 0#16 && decide (4 ≤ d.credits.toNat)

/-- The tower end at which a die was first met: its tower and edge. -/
def metAt (d : IdentMsg) : Nat × Nat := (d.blk / 0x40, d.blk / 0x10 % 4)

/-- Discovery on a W8: the dies are those of the fixed layout (R8, R9, R433). -/
def layoutFound (ds : List IdentMsg) : Bool :=
  ds.length == 16 && (bootAgents.drop 1).all (fun e => ds.any (fun d => freshDie d && decide (d.blk < 0x200)
    && d.kind.toNat == e.2.1 && metAt d == (e.2.2.1, e.2.2.2)))

/-- Discovery on a T1 (R1, R433, R394): integrator dies at ascending module ends of tower 0, on the bridge edge a tier die that presents
tower 0's full 64 GiB, and on the hub edge the die that stands for the hub; a home die presents units among 1 to 7. -/
def partnersFound (ds : List IdentMsg) : Bool :=
  let at0 := fun (d : IdentMsg) => decide (d.blk < 0x40) && (joinedEnd d.blk).isSome
  let kindOk := fun (d : IdentMsg) => d.kind == 3#4 || d.kind == 5#4
    || (d.kind == 4#4 && decide (1 ≤ d.firstUnit.toNat ∧ 1 ≤ d.units.toNat ∧ d.firstUnit.toNat + d.units.toNat ≤ 8))
  ds.all (fun d => freshDie d && at0 d && kindOk d) && (ds.zip (ds.drop 1)).all (fun x => decide (x.1.blk < x.2.blk))
    && decide (ds.length ≤ 256)
    && ds.any (fun d => (metAt d).2 == 2 && d.kind == 3#4 && d.firstUnit == 0#8 && decide (1 ≤ d.units.toNat))
    && ds.any (fun d => (metAt d).2 == 3)

/-- The agents of a T1: its compute die, and the integrator's dies in discovery order (R426, R433). -/
def t1Agents (ds : List IdentMsg) : Tab Agent :=
  (0x010, { kind := 0, edge := 3 }) :: ((List.range ds.length).zip ds).map (fun x =>
    (0x100 + x.1, { kind := x.2.kind.toNat, edge := (metAt x.2).2, unit := x.2.firstUnit.toNat, units := x.2.units.toNat }))

/-- The modules of tower 0: each joins the die that was met last before it on its edge; one at which no die stands is not trained. -/
def t1Links (ds : List IdentMsg) : Tab LinkEnd :=
  ((List.range 0x40).filter (fun b => (joinedEnd b).isSome)).map (fun b =>
    match (((List.range ds.length).zip ds).filter (fun x => decide (x.2.blk ≤ b) && x.2.blk / 0x10 == b / 0x10)).getLast? with
    | some x => (b, { bootLink (0x100 + x.1) with credits := x.2.credits.toNat })
    | none => (b, {}))

/-- The frames whose records hold SHARE 1 from boot, where the tables start at a frame (R394, R434). -/
def tableFrames (first : Nat) : List Nat := List.range' first 1073

/-- The frame records of a T1: SHARE 1 for the frames of its own tables and not for those of a W8. -/
def t1Records (m : Mem) : Mem :=
  let w8 := topoTable / 65536
  let put := fun (v : Nat) (m : Mem) (i : Nat) => memWriteN m (frameRecAt i) (leBytes v 8)
  (tableFrames (w8 - 0x700000)).foldl (put (2 ^ 18 + 1)) ((tableFrames w8).foldl (put (2 ^ 18)) m)

/-- The machine after the boot of a T1: tower 0 alone, with the integrator's dies in place of the hub and the bridge (R1, R12; log entry
81). -/
def bootT1 (r : State) (ds : List IdentMsg) : State :=
  let r := { r with
    t1 := true, pcieUp := false, agents := t1Agents ds, links := t1Links ds, topoBase := topoTable - 0x7000000000
    towers := [1, 2, 3, 4, 5, 6, 7].foldl (fun m t => tset {} t { tgetD m t {} with tstate := 1#2 } m) r.towers
    remap := (List.range 2048).foldl (fun m v => tset v v (v % 256) m) r.remap
    mem := memWriteN (t1Records r.mem) topoTable (leBytes 0 8) }
  republish r

/-- A boot that stops under the boot ROM (R464): no memory has been wiped, no module trained and nothing built. -/
def stoppedAtRom (s r : State) (fail : Nat) : State :=
  { r with
    timers := [], t1 := r.package.t1, links := [], agents := [], topoBase := 0
    mem := s.mem, poison := s.poison
    kiln := { r.kiln with step := if fail = 1 then 1 else 2, fail := fail, stopped := true, down := some 0 } }

/-- The modules that are trained where discovery fails: those of the edges on which it has met a die. -/
def trainedModules (r : State) : Tab LinkEnd :=
  if r.package.t1 then t1Links r.package.dies
  else r.links.filter (fun e => r.package.dies.any (fun d => d.blk / 0x10 == e.1 / 0x10))

/-- A boot whose discovery fails (R433): the memories are zero, and no agent, topology table or frame table stands. -/
def stoppedAtDiscovery (r : State) : State :=
  { r with
    timers := [], t1 := r.package.t1, links := trainedModules r, agents := [], topoBase := 0, mem := []
    kiln := { r.kiln with step := 4, fail := 5, stopped := true } }

/-- DEVICE_RESET: the boot sequence runs from step 1 (R464). An image that is not accepted stops it at step 2; discovery that does not
find the package stops it at step 4 with FAIL 5. -/
def execDeviceReset (s : State) : Out :=
  let r := resetKeep s
  let b := r.package
  let f := flashFail r
  if f ≠ 0 then .next (stoppedAtRom s r f)
  else
    let r := match r.kiln.flash with
      | some x => { r with kiln := { r.kiln with imageVersion := x.version, imageDigest := sha256 (imageBytes x ++ x.sig) } }
      | none => r
    if !(if b.t1 then partnersFound b.dies else layoutFound b.dies) then .next (stoppedAtDiscovery r)
    else .next (if b.t1 then bootT1 r b.dies else r)

/-! ## Attestation (R466) -/

def setAttest (s : State) (st : Nat) : State := { s with kiln := { s.kiln with atstatus := BitVec.ofNat 8 st } }

/-- The first `n` bytes of a string, filled with zeros where it is shorter. -/
def fillTo (n : Nat) (bs : List Byte) : List Byte := (bs ++ List.replicate n 0#8).take n

/-- ATTESTATION_START: a write of 1 to ATCTL. The address and the nonce are those that stand then (log entry 31). -/
def execAttestationStart (s : State) : Out :=
  if s.kiln.stopped then .next s
  else if s.kiln.atbusy || !kilnUp s then .next (setAttest s 2)
  else if hbmSize < s.kiln.ataddr + 8112 ∨ !s.kiln.identity then .next (setAttest s 1)
  else
    let (n, s) := contend s
    let s := { s with kiln := { s.kiln with atbusy := true, ataim := s.kiln.ataddr, atseal := s.kiln.nonce } }
    .next (schedule s (s.now + min n (2000 * msTicks)) .attestationComplete)

/-- The device identity seed: 48 bytes (R466). -/
def identitySeed : List Byte := fillTo 48 Config.identitySeed

/-- The device identity key (R466). -/
def identityKey : List Byte := slhKey identitySeed

/-- The fields of the body of a report, in the order of R466: the nonce, the identity public key, the life-cycle state, the running
image's security version and SHA-256, the fused key slots with their revoke fuses, and the topology generation. -/
def reportFields (s : State) : List Byte :=
  let k := s.kiln
  let slot := fun (x : List Byte × Bool) => fillTo 32 x.1 ++ [BitVec.ofNat 8 (b2n (x.2 || k.slotsRevoked))]
  (List.range 4).flatMap (fun i => leBytes (tgetD k.atseal i 0#64).toNat 8) ++ identityKey ++ leBytes k.life.toNat 1
    ++ [k.imageVersion] ++ fillTo 32 k.imageDigest ++ (Config.fusedKeys.take 4).flatMap slot
    ++ leBytes (memNat s.mem (cellOf s s.topoBase) 4) 4

/-- Two places of a list exchanged. -/
def exchange (l : List Byte) (p : Nat × Nat) : List Byte :=
  if p.1 < l.length ∧ p.2 < l.length then (l.set p.1 (l.getD p.2 0#8)).set p.2 (l.getD p.1 0#8) else l

/-- The body of a report: its fields and the bytes that fill it to 256, at places that R466 does not give (DESIGN CHOICE, log entry 101). -/
def reportBody (s : State) : List Byte :=
  let f := reportFields s
  let l := f ++ (List.range (256 - f.length)).map Config.reportFill
  Config.reportSwaps.foldl exchange l

/-- The report: the body and the signature over it. -/
def report (s : State) (n : Nat) : List Byte :=
  let body := reportBody s
  body ++ fillTo 7856 (slhSign identitySeed body (fillTo 16 (Config.signRand n)))

/-- ATTESTATION_COMPLETE: the report is written with UC stores, and vector 3 is sent. -/
def execAttestationComplete (s : State) : Out :=
  if !s.kiln.atbusy || !kilnUp s then .next s
  else
    let (n, s) := newFresh s
    let s := unitWrite s s.kiln.ataim (report s n)
    .next (interrupt (setAttest { s with kiln := { s.kiln with atbusy := false } } 0) 0 3)

/-- SHA-256 of the device's fused unique id (R472). -/
def idHash : List Byte := sha256 Config.uniqueId

/-! ## Life cycle (R467, R472) -/

/-- Whether Kiln takes writes on the management interface. -/
def bmcServed (s : State) : Bool := !romAnswers s

/-- A provisioning token names this device and request 1, and is signed by an enrolled key. -/
def tokenOk (s : State) : Bool :=
  let t := s.kiln.token
  let body := t.take 256
  t.length == 8112 && body.take 32 == idHash && body.drop 32 == 1#8 :: List.replicate 223 0#8
    && (List.range 4).any (fun i => keyEnrolled s (sha256 (Config.enrolledKey i))
      && slhDsaVerify (Config.enrolledKey i) body (t.drop 256))

/-- A write to LCREQ: `fit` for its token, `life` the state that permits it, `next` the state that follows. -/
def lifeRequest (s : State) (fit : Bool) (life next : BitVec 3) : Out :=
  if !bmcServed s || !kilnUp s then .next s
  else
    let k := { s.kiln with token := [] }
    if !fit then .next { s with kiln := { k with lcresult := 2#2 } }
    else if k.life ≠ life then .next { s with kiln := { k with lcresult := 3#2 } }
    else .next { s with kiln := { k with lcresult := 1#2, pending := next } }

/-- LC_PROVISION. -/
def execLcProvision (s : State) : Out := lifeRequest s (tokenOk s) 0#3 1#3
/-- LC_COMMISSION. -/
def execLcCommission (s : State) : Out := lifeRequest s true 1#3 2#3
/-- LC_RETURN. -/
def execLcReturn (s : State) : Out := lifeRequest s true 2#3 3#3
/-- LC_DISPOSE. -/
def execLcDispose (s : State) : Out := lifeRequest s true 3#3 4#3

/-- TKDATA: one token byte; bytes beyond 8,112 are discarded. -/
def execTkdata (byte : Byte) (s : State) : Out :=
  if bmcServed s && decide (s.kiln.token.length < 8112) then .next { s with kiln := { s.kiln with token := s.kiln.token ++ [byte] } }
  else .next s

/-- TKRESET: the token bytes received are discarded. -/
def execTkreset (s : State) : Out := if bmcServed s then .next { s with kiln := { s.kiln with token := [] } } else .next s

end Sys2Proof.Machine
end

