-- ==== Sys2Proof/Machine/Regs.lean ====
section
/-! DEFINITION. System register space (R23, R361): every register block, read and written under the access codes of R4; RDSYS and
WRSYS (R383); the partition map (R203, R204); the communicator registers (R318); and moves of registers (R133, R134). -/

namespace Sys2Proof.Machine

/-- A 64-bit register from its fields, as (low bit, value). -/
def packed (fs : List (Nat × Nat)) : Word64 := BitVec.ofNat 64 (fs.foldl (fun a f => a + f.2 * 2 ^ f.1) 0)

def sat32 (x : Word32) : Nat := x.toNat

/-! ## Reading -/

/-- The device block (R209, R394, R455, R458, R464, R466). -/
def readDevice (s : State) (o : Nat) : Word64 :=
  let d := s.damper
  let k := s.kiln
  match o with
  | 0x1000 => BitVec.ofNat 64 (recordAt s 0)
  | 0x2000 => packed [(0, d.bound)]
  | 0x2008 => packed [(0, d.r), (32, d.t)]
  | 0x2010 => packed [(0, d.reqs.length % 65536)]
  | 0x2018 => d.excess
  | 0x2020 => d.short
  | 0x2028 => d.viol
  | 0x3008 => k.arg
  | 0x3010 => packed [(0, b2n k.busy.isSome), (8, k.status.toNat)]
  | 0x4000 => packed [(0, k.step), (8, k.fail)]
  | 0x4010 => BitVec.ofNat 64 k.ataddr
  | 0x4018 => tgetD k.nonce 0 0#64
  | 0x4020 => tgetD k.nonce 1 0#64
  | 0x4028 => tgetD k.nonce 2 0#64
  | 0x4030 => tgetD k.nonce 3 0#64
  | 0x4040 => packed [(0, k.atstatus.toNat), (8, b2n k.atbusy)]
  | _ => if 0x8000 ≤ o ∧ o < 0xC000 then packed [(0, tgetD s.remap ((o - 0x8000) / 8) ((o - 0x8000) / 8))] else 0#64

/-- SPMAPk of a tower (R203). -/
def spmapWord (s : State) (t k : Nat) : Word64 := packed ((List.range 16).map (fun j => (4 * j, spCode s t (16 * k + j))))

/-- A tower block (R203, R462, R470). -/
def readTower (s : State) (t r : Nat) : Word64 :=
  let x := towerOf s t
  match r with
  | 0x100 => spmapWord s t 0
  | 0x108 => spmapWord s t 1
  | 0x110 => spmapWord s t 2
  | 0x118 => packed [(0, b2n x.busy), (1, b2n x.err), (8, x.errUnit)]
  | 0x200 => packed [(0, b2n x.alrm), (1, x.tstate.toNat), (16, x.tj.toNat), (40, x.alarm.toNat)]
  | 0x280 => x.secnt
  | 0x288 => x.bufcnt
  | 0x290 => x.parcnt
  | 0x298 => x.hbmcnt
  | _ => 0#64

/-- A quad block (R259, R457). -/
def readQuad (s : State) (q r : Nat) : Word64 :=
  let x := quadOf s q
  match r with
  | 0x200 => x.mepass
  | 0x208 => x.meskip
  | 0x210 => x.mebal
  | 0x218 => packed [(0, x.me.length), (16, (x.me.filter (·.held)).length)]
  | 0x300 => packed [(2, x.entry.toNat), (4, x.ratio.toNat), (6, b2n x.gated), (7, b2n x.stopUntil.isSome), (8, x.pass.toNat),
      (10, x.floor.toNat), (16, x.ilim.toNat), (32, x.clampev.toNat)]
  | _ => 0#64

/-- HELDMAP: the group slots of a core whose group is HELD. -/
def heldMap (s : State) (core : Nat) : Nat :=
  (List.range 64).foldl (fun a i =>
    if s.groups.any (fun e => e.2.state == .held && e.2.slot == i && (teamOf s (e.1 / 32)).core == core
        && (teamOf s (e.1 / 32)).state != .saved && !(teamOf s (e.1 / 32)).freed) then a + 2 ^ i else a) 0

/-- A core block (R136, R384). -/
def readCore (s : State) (c r : Nat) : Word64 :=
  match r with
  | 0x040 => packed [(0, (coreOf s c).thresh.toNat), (16, backedCount s c % 4096)]
  | 0x048 => BitVec.ofNat 64 (heldMap s c)
  | _ => 0#64

/-- The STATE code of a context (R363). -/
def ctxStateCode (x : CtxState) : Nat :=
  match x with
  | .free => 0
  | .building => 1
  | .ready => 2
  | .running => 3
  | .preempting => 4
  | .saved => 5
  | .migrating => 6
  | .faulted => 7
  | .teardown => 8

/-- A context block (R318, R363, R443). -/
def readCtx (s : State) (c r : Nat) : Word64 :=
  let x := ctxOf s c
  match r with
  | 0x000 => packed [(0, ctxStateCode x.state), (4, b2n x.busy), (8, x.cmdst.toNat), (16, x.cause.toNat)]
  | 0x010 => x.ptroot
  | 0x018 => x.gtbase
  | 0x020 => packed [(0, x.gtsize)]
  | 0x028 => x.sysq
  | 0x030 => packed [(0, x.area)]
  | 0x038 => packed [(0, x.predl.toNat)]
  | 0x040 => packed [(0, x.wdog.toNat)]
  | 0x048 => x.cseq
  | 0x050 => x.flogcnt
  | 0x058 => packed [(0, x.slots)]
  | 0x068 => x.bar4base
  | _ =>
    if 0x100 ≤ r ∧ r < 0x180 then tgetD x.part ((r - 0x100) / 8) 0#64
    else if 0x1000 ≤ r ∧ r < 0x1400 then
      (if r % 16 = 0 then (commOf x ((r - 0x1000) / 16)).cfg else (commOf x ((r - 0x1000) / 16)).tab)
    else 0#64

/-- The STATE code of a module (R421). -/
def linkCode (x : LinkState) : Nat :=
  match x with
  | .down => 0
  | .training => 1
  | .active => 2
  | .pausing => 3
  | .paused => 4
  | .retraining => 5
  | .error => 6
  | .failed => 7

/-- A module or port block (R424). -/
def readEnd (x : LinkEnd) (r : Nat) : Word64 :=
  match r with
  | 0x000 => packed [(0, linkCode x.state), (17, b2n x.rth), (18, x.width.toNat), (20, x.spused), (36, x.peerId), (48, x.peerInc.toNat)]
  | 0x008 => packed [(16, x.tgtw.toNat), (32, x.rthresh.toNat)]
  | 0x010 => packed [(0, x.retries.toNat), (32, x.crcerr.toNat)]
  | 0x018 => x.repair
  | 0x020 => x.lane
  | 0x028 => packed [(0, x.badid.toNat), (32, x.stale.toNat)]
  | 0x078 => packed [(0, x.err.toNat)]
  | _ => if 0x040 ≤ r ∧ r < 0x070 then packed [(0, (tgetD x.seqs ((r - 0x040) / 8) 0#32).toNat)] else 0#64

/-- Whether a block number of the link blocks is an edge block, and its tower and edge. -/
def edgeBlock (blk : Nat) : Option (Nat × Nat) :=
  if blk < 0x200 ∧ blk % 0x10 = 15 then some (blk / 0x40, blk / 0x10 % 4) else none

def readVw (x : Slice) : Word64 :=
  packed [(0, b2n x.retired), (8, x.spused.toNat), (32, x.half.toNat), (40, x.replays.toNat)]

/-- FXSLOTd with UP as the topology table says it (R440). -/
def readSlot (s : State) (d : Nat) : Word64 :=
  let v := tgetD s.fxslots d 0#64
  if v.getLsbD 63 && deviceUp s (bits v 0 9) then v ||| 0x4000000000000000#64 else v

/-- The link blocks (R423), by offset from 0x0500_0000. -/
def readLink (s : State) (o : Nat) : Word64 :=
  let blk := o / 0x1000
  let r := o % 0x1000
  if blk < 0xA00 then
    match edgeBlock blk with
    | some (t, e) =>
      if r = 0 then steerOf s t e else if r = 8 then packed [(0, b2n (s.edgeErr.contains (steerKey t e)))] else 0#64
    | none => if blkOk s blk then readEnd (linkAt s blk) r else 0#64
  else if 0xA00000 ≤ o ∧ o < 0xA04000 then readVw (sliceOf s ((o - 0xA00000) / 8))
  else if s.t1 then (if o = 0xF00000 then packed [(0, s.topoBase)] else 0#64)
  else if 0xE00000 ≤ o ∧ o < 0xE00100 then readSlot s ((o - 0xE00000) / 8)
  else if o = 0xE00100 then packed [(0, s.fxself)]
  else if 0xE00108 ≤ o ∧ o < 0xE00128 then fxsteerOf s ((o - 0xE00108) / 8)
  else if o = 0xF00000 then packed [(0, s.topoBase)]
  else 0#64

/-- Offsets in the blocks of a tower that a T1 does not have (R12): its towers, quads and cores, and its ends of modules. -/
def beyondTower (o : Nat) : Bool :=
  decide ((0x1100000 ≤ o ∧ o < 0x2000000) ∨ (0x2080000 ≤ o ∧ o < 0x3000000) ∨ (0x3200000 ≤ o ∧ o < 0x4000000)
    ∨ (0x5040000 ≤ o ∧ o < 0x5A00000) ∨ (0x5A00800 ≤ o ∧ o < 0x5E00000))

/-- A register of system register space by its offset (R361); one that names no register reads 0. -/
def sysRead (s : State) (o : Nat) : Word64 :=
  if s.t1 && beyondTower o then 0#64
  else if o < 0xF00000 then readDevice s o
  else if 0x1000000 ≤ o ∧ o < 0x1800000 then readTower s ((o - 0x1000000) / 0x100000) (o % 0x100000)
  else if 0x2000000 ≤ o ∧ o < 0x2400000 then readQuad s ((o - 0x2000000) / 0x1000) (o % 0x1000)
  else if 0x3000000 ≤ o ∧ o < 0x4000000 then readCore s ((o - 0x3000000) / 0x1000) (o % 0x1000)
  else if 0x4000000 ≤ o ∧ o < 0x4400000 then readCtx s ((o - 0x4000000) / 0x10000) (o % 0x10000)
  else if 0x5000000 ≤ o ∧ o < 0x6000000 then readLink s (o - 0x5000000)
  else 0#64

/-! ## The partition map (R204) -/

/-- The backing units of a tower in ascending order. -/
def backingUnits (s : State) (t : Nat) : List Nat := (List.range 12).filter (fun u => spCode s t u == 4)

/-- Whether the registers of a thread lie in a backing unit: the backed blocks of a core fill its shares of the units in ascending
order (log entry 30). -/
def unitHolds (s : State) (t u : Nat) : Bool :=
  let i := (backingUnits s t).idxOf u
  (List.range 512).any (fun c => decide (i * 1024 < (slotThreads s (t * 512 + c)).foldl (fun n x =>
    if x.2.res != .resident then n + blocksOf (teamOf s x.1.team) else n) 0))

/-- Whether a frame in a pinned unit has a share count above 0. -/
def unitShared (s : State) (t u : Nat) : Bool :=
  (unitFrames t u).any (fun f => decide (0 < recShare (recOf s f)))

/-- The units of register k whose code a write changes, with their new codes. -/
def spmapChanges (s : State) (t k : Nat) (value : Word64) : List (Nat × Nat) :=
  ((List.range 16).map (fun j => (16 * k + j, bits value (4 * j) 4))).filter (fun x => spCode s t x.1 != x.2)

/-- The records that a write looks at are read at their homes (R213): those of the pinned units that it changes. -/
def spmapReads (s : State) (t k : Nat) (value : Word64) : State :=
  (spmapChanges s t k value).foldl (fun s x => if spCode s t x.1 = 2 then touchFrames s (unitFrames t x.1) else s) s

/-- Whether the change of a unit to a code is refused. -/
def unitRefused (s : State) (t u code : Nat) : Bool :=
  decide (5 ≤ code) || (code == 4 && decide (12 ≤ u)) || (spCode s t u == 2 && unitShared s t u)
    || (spCode s t u == 4 && unitHolds s t u)

/-- A unit that enters the pinned partition reads as zero. -/
def zeroUnit (s : State) (t u : Nat) : State :=
  let a := pinBase + t * pinTower + u * 0x4000000
  { s with
    mem := s.mem.filter (fun c => c.1 < a || a + 0x4000000 ≤ c.1)
    poison := s.poison.filter (fun p => 4 * p < a || a + 0x4000000 ≤ 4 * p) }

/-- The lines that a unit holds in a partition are written back and dropped (R204). -/
def dropUnit (s : State) (t u : Nat) (reserve : Bool) : State :=
  let mine := fun (e : Nat × CacheLine) => sliceTower e.2.slice == t && e.2.unit == u && e.2.reserve == reserve
  { writeBackLines s (s.cache.filter mine) with cache := s.cache.filter (fun e => !mine e) }

/-- A unit changes its code. -/
def changeUnit (t : Nat) (s : State) (x : Nat × Nat) : State :=
  let old := spCode s t x.1
  let s := modTower s t (fun w => { w with spmap := tset 1#4 x.1 (BitVec.ofNat 4 x.2) w.spmap })
  let s := if old = 1 then dropUnit s t x.1 false else if old = 3 then dropUnit s t x.1 true else s
  if x.2 = 2 then zeroUnit s t x.1 else s

/-- SPMAP_WRITE: every unit whose field a write alters changes, or is refused on its own; while BUSY the write is refused whole. -/
def spmapWrite (s : State) (t k : Nat) (value : Word64) : State :=
  match spmapChanges s t k value with
  | [] => s
  | first :: _ =>
    if (towerOf s t).busy then modTower s t (fun w => { w with err := true, errUnit := first.1 })
    else
      let s := spmapReads s t k value
      let ch := spmapChanges s t k value
      let bad := ch.filter (fun x => unitRefused s t x.1 x.2)
      let good := ch.filter (fun x => !bad.contains x)
      let drains := good.any (fun x => spCode s t x.1 == 1 || spCode s t x.1 == 3)
      let s := good.foldl (changeUnit t) s
      let s := match bad with
        | b :: _ => modTower s t (fun w => { w with err := true, errUnit := b.1 })
        | [] => s
      if drains then
        let (n, s) := contend s
        schedule (modTower s t (fun w => { w with busy := true, leaving := good.map (·.1) })) (s.now + n) (.spmapDrainComplete t)
      else schedule s s.now .placementPass

def execSpmapWrite (tower k : Nat) (value : Word64) (s : State) : Out :=
  if 8 ≤ tower ∨ 3 ≤ k then .next s else .next (spmapWrite s tower k value)

/-- SPMAP_DRAIN_COMPLETE: the dirty lines of the units that left are written back, and BUSY clears. -/
def execSpmapDrainComplete (t : Nat) (s : State) : Out :=
  if (towerOf s t).busy then
    .next (schedule (modTower s t (fun w => { w with busy := false, leaving := [] })) s.now .placementPass)
  else .next s

/-! ## Communicator registers (R318) -/

/-- COMMCFG_WRITE: ignored while a COLL on the communicator is outstanding; a write of COMMCFG sets SEQ to 0. -/
def commWrite (s : State) (c n : Nat) (table : Bool) (v : Word64) : State :=
  if s.colls.any (fun e => collCtx s e.2 == c && e.2.ctl.comm.toNat == n) then s
  else if table then modComm s c n (fun x => { x with tab := v &&& 0x00FFFFFFFFFFFFFF#64 })
  else modComm s c n (fun x => { x with cfg := v &&& 0x83FF01FF00000000#64 })

def execCommcfgWrite (ctx comm : Nat) (table : Bool) (value : Word64) (s : State) : Out :=
  if 64 ≤ ctx ∨ 64 ≤ comm then .next s else .next (commWrite s ctx comm table value)

/-! ## Writing -/

def nextOf (o : Out) (s : State) : State :=
  match o with
  | .next t => t
  | _ => s

/-- The device block: the mailbox, the attestation registers. -/
def writeDevice (s : State) (o : Nat) (v : Word64) : State :=
  let k := s.kiln
  match o with
  | 0x3000 => mailbox s (bits v 0 8)
  | 0x3008 => { s with kiln := { k with arg := v } }
  | 0x4010 => { s with kiln := { k with ataddr := bits v 0 52 } }
  | 0x4018 => { s with kiln := { k with nonce := tset 0#64 0 v k.nonce } }
  | 0x4020 => { s with kiln := { k with nonce := tset 0#64 1 v k.nonce } }
  | 0x4028 => { s with kiln := { k with nonce := tset 0#64 2 v k.nonce } }
  | 0x4030 => { s with kiln := { k with nonce := tset 0#64 3 v k.nonce } }
  | 0x4038 => if bits v 0 2 = 1 then nextOf (execAttestationStart s) s else s
  | _ => s

def writeTower (s : State) (t r : Nat) (v : Word64) : State :=
  match r with
  | 0x100 => spmapWrite s t 0 v
  | 0x108 => spmapWrite s t 1 v
  | 0x110 => spmapWrite s t 2 v
  | 0x118 => if v.getLsbD 1 then modTower s t (fun x => { x with err := false }) else s
  | 0x200 => if v.getLsbD 0 then modTower s t (fun x => { x with alrm := false }) else s
  | _ => s

/-- A register of a context that may be written only in BUILDING. -/
def buildWrite (s : State) (c : Nat) (f : Ctx → Ctx) : State :=
  if (ctxOf s c).state = .building then modCtx s c f else modCtx s c (fun x => { x with cmdst := 1#8 })

def writeCtx (s : State) (src : CmdSource) (c r : Nat) (v : Word64) : State :=
  match r with
  | 0x008 => (command s src c (bits v 0 4)).2
  | 0x010 => buildWrite s c (fun x => { x with ptroot := v })
  | 0x018 => buildWrite s c (fun x => { x with gtbase := v &&& 0x00FFFFFFFFFFFFFF#64 })
  | 0x020 => buildWrite s c (fun x => { x with gtsize := bits v 0 17 })
  | 0x028 => buildWrite s c (fun x => { x with sysq := v &&& 0x00001FFF1FFF1FFF#64 })
  | 0x030 => buildWrite s c (fun x => { x with area := bits v 0 52 })
  | 0x038 => modCtx s c (fun x => { x with predl := if bits v 0 16 = 0 then 50#16 else v.setWidth 16 })
  | 0x040 => modCtx s c (fun x => { x with wdog := lo32 v })
  | 0x058 => buildWrite s c (fun x => { x with slots := bits v 0 20 })
  | 0x068 => modCtx s c (fun x => { x with bar4base := v &&& 0x00FFFFFFFFFFFFFF#64 })
  | _ =>
    if 0x100 ≤ r ∧ r < 0x180 then buildWrite s c (fun x => { x with part := tset 0#64 ((r - 0x100) / 8) v x.part })
    else if 0x1000 ≤ r ∧ r < 0x1400 then commWrite s c ((r - 0x1000) / 16) (decide (r % 16 ≠ 0)) v
    else s

/-- A module or port block. On a port LKREPAIR ignores writes. -/
def writeEnd (s : State) (blk r : Nat) (v : Word64) : State :=
  match r with
  | 0x000 => if v.getLsbD 17 then modLink s blk (fun x => { x with rth := false }) else s
  | 0x008 => linkCommand (modLink s blk (fun x => { x with rthresh := hi32 v, tgtw := v.extractLsb' 16 2 })) blk (bits v 0 3)
  | 0x018 => if isPort blk then s else modLink s blk (fun x => { x with repair := v &&& 0xBFBFBFBFBFBFBFBF#64 })
  | 0x078 => modLink s blk (fun x => { x with err := x.err &&& ~~~(v.setWidth 4) })
  | _ => s

def writeLink (s : State) (o : Nat) (v : Word64) : State :=
  let blk := o / 0x1000
  let r := o % 0x1000
  if blk < 0xA00 then
    match edgeBlock blk with
    | some (t, e) =>
      if r = 0 then nextOf (execSteerWrite t e v s) s
      else if r = 8 ∧ v.getLsbD 0 then { s with edgeErr := s.edgeErr.filter (· != steerKey t e) } else s
    | none => if blkOk s blk then writeEnd s blk r v else s
  else if s.t1 then s
  else if 0xE00000 ≤ o ∧ o < 0xE00100 then nextOf (execFxslotWrite ((o - 0xE00000) / 8) v s) s
  else if o = 0xE00100 then helloSlots (republish { s with fxself := bits v 0 9, fxSet := true })
  else if 0xE00108 ≤ o ∧ o < 0xE00128 then nextOf (execFxsteerWrite ((o - 0xE00108) / 8) v s) s
  else s

/-- A write to a register of system register space. -/
def sysWrite (s : State) (src : CmdSource) (o : Nat) (v : Word64) : State :=
  if s.t1 && beyondTower o then s
  else if o < 0xF00000 then writeDevice s o v
  else if 0x1000000 ≤ o ∧ o < 0x1800000 then writeTower s ((o - 0x1000000) / 0x100000) (o % 0x100000) v
  else if 0x3000000 ≤ o ∧ o < 0x4000000 then
    (if o % 0x1000 = 0x040 then modCore s ((o - 0x3000000) / 0x1000) (fun x => { x with thresh := v.setWidth 16 }) else s)
  else if 0x4000000 ≤ o ∧ o < 0x4400000 then writeCtx s src ((o - 0x4000000) / 0x10000) (o % 0x10000) v
  else if 0x5000000 ≤ o ∧ o < 0x6000000 then writeLink s (o - 0x5000000) v
  else s

/-- A write by Kiln at an offset of system register space. -/
def writeSys (off : Nat) (value : Word64) (s : State) : State :=
  if off % 8 ≠ 0 ∨ (0xF00000 ≤ off ∧ off < 0x1000000) then s else sysWrite s .pf off value

/-! ## RDSYS and WRSYS (R383) -/

/-- The offset that an access names. -/
def sysOffset (s : State) (t : ThrRef) (b : Base) (e1 : Word32) : Nat :=
  if b.md = 1#4 then (lo32 (thrSreg s t b.sa.toNat) + e1).toNat else e1.toNat

/-- The checks and the wait of an access, then its one event. -/
def sysAccess (s : State) (t : ThrRef) (o : Nat) (k : State → ThrOut) : ThrOut :=
  if o % 8 ≠ 0 then .fault (flt fMISALIGN)
  else if 0xF00000 ≤ o ∧ o < 0x1000000 then .fault (flt fPRIV)
  else if (reqsOf s t).any (fun r => !r.performed) then .left (makeWait s t .release)
  else k s

def execRdsys (b : Base) (e1 : Word32) (s : State) : Out :=
  perThread (baseOpnds b 0 0 2 true) noIll (fun p t s =>
    let o := sysOffset s t b e1
    sysAccess s t o (fun s => .done (modThr s t (fun th => putPair th b.dst.toNat (sysRead s o))) p.next)) s

def execWrsys (b : Base) (e1 : Word32) (s : State) : Out :=
  perThread (baseOpnds b 0 2 0 true) noIll (fun p t s =>
    let o := sysOffset s t b e1
    let v := pairVal (thrOf s t) b.sb.toNat
    sysAccess s t o (fun s => .done (sysWrite s .supervisor o v) p.next)) s

/-! ## A fetch that faults (R53) -/

/-- FETCH_FAULT: steps 1 to 4 fault every thread of the packet alike. Faults of translation and of a poisoned frame wait for
software; `cause` is the decode cause of the record. -/
def execFetchFault (code : Byte) (cause : Nat) (s : State) : Out :=
  match s.cur with
  | none => .next s
  | some p =>
    let frame := code.toNat == fPOISON && cause != 0
    let f : Flt :=
      { code := code.toNat, addr := p.pc, aux := cause, kind := 0, wait := code.toNat == fPAGE_NOTPRESENT || frame,
        page := if cause ≠ 0 then some (p.pc.toNat / 65536) else none }
    .next (deliver p.core p.pc p.next (p.refs.map (fun t => (t, f))) s)

/-! ## Moves of registers (R133, R134) -/

/-- MOVE_OUT_START: the victim of a home lane starts to move to backing. -/
def execMoveOutStart (core lane : Nat) (s : State) : Out :=
  if movingOut s core lane || !(recallable s).any (fun t => thrCore s t == core && t.lane == lane && !bankHasRoom s t) then .next s
  else match bankVictim s core lane with
    | none => .next s
    | some t => .next (startMove s t .movingOut (.moveOutComplete t))

/-- A move ends: held returns are written where the registers now lie. -/
def moveEnds (s : State) (t : ThrRef) (res : Residence) : State :=
  let held := (thrOf s t).held
  held.foldl releaseHeld (modThr s t (fun th => { th with res := res, held := [] }))

/-- MOVE_OUT_COMPLETE: the thread is BACKED. -/
def execMoveOutComplete (t : ThrRef) (s : State) : Out :=
  if (thrOf s t).res = .movingOut then
    match moveNow s t with
    | .early => .next s
    | .clocksOver => .next (moveTail s t (.moveOutComplete t))
    | .over => .next (moveEnds s t .backed)
  else .next s

/-- RECALL_START: a backed thread that would be READY, whose bank has room, starts back. -/
def execRecallStart (t : ThrRef) (s : State) : Out :=
  if (recallable s).contains t && bankHasRoom s t then
    .next (startMove s t .recalling (.recallComplete t))
  else .next s

/-- RECALL_COMPLETE: the thread is RESIDENT, and its wait in the picker's order begins. -/
def execRecallComplete (t : ThrRef) (s : State) : Out :=
  if (thrOf s t).res = .recalling then
    match moveNow s t with
    | .early => .next s
    | .clocksOver => .next (moveTail s t (.recallComplete t))
    | .over => .next (moveEnds s t .resident)
  else .next s

end Sys2Proof.Machine
end

