-- ==== Sys2Proof/Machine/Pcie.lean ====
section
/-! DEFINITION. The host at the PCIe endpoint (R246, R348, R362, R442, R443): reads and writes through BAR0, BAR2 and BAR4, the MSI-X
table, the size of BAR4 and the power states; and the management interface of Kiln (R472). -/

namespace Sys2Proof.Machine

/-! ## BAR0 (R348, R362, R443) -/

/-- The words of the MSI-X table of a function: 4 entries of 16 bytes. -/
def msixWords : Nat := 8

/-- The PBA of a function: a bit for each vector that is pending. -/
def pbaWord (s : State) (fn : Nat) : Word64 := packed ((List.range 4).map (fun v => (v, b2n (s.msixPend.contains (fn, v)))))

/-- The status of a queue for the host: 0 in every value of one that the function's context does not own (R348). -/
def hostQueue (s : State) (fn q sel : Nat) : Word64 :=
  let x := queueAt s q
  if x.state == .free || x.owner != fn then 0#64 else queueValue x sel

/-- A 64-bit word of a function's BAR0. -/
def bar0Word (s : State) (fn o : Nat) : Word64 :=
  if 0x800000 ≤ o ∧ o < 0x820000 then hostQueue s fn ((o - 0x800000) / 32) (o / 8 % 4)
  else if 0x1000000 ≤ o ∧ o < 0x1010000 then readCtx s fn (o - 0x1000000)
  else if fn = 0 ∧ 0x2000000 ≤ o ∧ o < 0x2400000 then readCtx s ((o - 0x2000000) / 0x10000) (o % 0x10000)
  else if 0x3000000 ≤ o ∧ o < 0x3000000 + 8 * msixWords then tgetD s.msixTab (fn * msixWords + (o - 0x3000000) / 8) 0#64
  else if o = 0x3008000 then pbaWord s fn
  else 0#64

/-- Bytes of BAR0: those of one word; a read that leaves its word reads 0 beyond it (log entry 78). -/
def bar0Read (s : State) (fn off n : Nat) : List Byte :=
  ((leBytes (bar0Word s fn (off / 8 * 8)).toNat 8).drop (off % 8) ++ List.replicate n 0#8).take n

/-- Vectors of a function that are pending and no longer held back are sent. -/
def sendPending (s : State) (fn : Nat) : State :=
  let out := s.msixPend.filter (fun e => e.1 == fn && !msixHeld s fn e.2)
  { s with msixPend := s.msixPend.filter (fun e => !out.contains e), msix := s.msix ++ out }

/-- A write of a word of the MSI-X table. -/
def msixWrite (s : State) (fn k : Nat) (v : Word64) : State :=
  sendPending { s with msixTab := tset 0#64 (fn * msixWords + k) v s.msixTab } fn

/-- A 64-bit write through BAR0: of its own context block a function writes CTXCMD alone, function 0 every context block (R362). -/
def bar0Write (s : State) (fn o : Nat) (v : Word64) : State :=
  if !hostReaches s fn || o % 8 != 0 then s
  else if o = 0x1000008 then (command s (if fn = 0 then .pf else .vf fn) fn (bits v 0 4)).2
  else if fn = 0 ∧ 0x2000000 ≤ o ∧ o < 0x2400000 then writeCtx s .pf ((o - 0x2000000) / 0x10000) (o % 0x10000) v
  else if 0x3000000 ≤ o ∧ o < 0x3000000 + 8 * msixWords then msixWrite s fn ((o - 0x3000000) / 8) v
  else s

/-! ## The BAR4 window (R246, R443) -/

/-- log2 of the size of a function's BAR4: 1 GiB until the host resizes it (log entry 9). -/
def bar4Size (s : State) (fn : Nat) : Nat := 2 ^ tgetD s.bar4Log fn 30

/-- The virtual address of an offset: BASE without the bits below the size in force. -/
def bar4Va (s : State) (fn off : Nat) : Nat :=
  (ctxOf s fn).bar4base.toNat % 2 ^ 56 / bar4Size s fn * bar4Size s fn + off

/-- A piece of an access within one line, translated: its virtual address and length. -/
structure BarPiece where
  va : Nat
  n : Nat
  x : Xl
  deriving DecidableEq, Repr

def BarPiece.line (p : BarPiece) : Nat := p.x.pa / 128
def BarPiece.words (p : BarPiece) : BitVec 32 := wordMask (p.x.pa % 128) p.n

/-- The translated pieces of an access, one for each line, under R for a read and W for a write. -/
def bar4Pieces (fn : Nat) (write : Bool) : List (Nat × Nat) → State → List BarPiece → Except (Flt ⊕ Nat) (List BarPiece) × State
  | [], s, acc => (.ok acc, s)
  | (a, n) :: r, s, acc =>
    match translate s none fn a { read := !write, write := write } with
    | .fault f s => (.error (.inl f), s)
    | .held m s => (.error (.inr m), s)
    | .ok x s =>
      if linkDown s x.pa then (.error (.inl { code := fLINK_DOWN }), s)
      else bar4Pieces fn write r s (acc ++ [{ va := a, n := n, x := x }])

/-- An access that fails: Completer Abort, and an entry of the context's fault log. -/
def bar4Abort (s : State) (fn off : Nat) (code : Nat) : State :=
  let s := { s with sent := s.sent ++ [.completerAbort fn] }
  if (ctxOf s fn).state = .free then s else faultLog s fn 7 code noTeam off

/-- The pieces that other devices home, and those of this device. -/
def farPieces (s : State) (ps : List BarPiece) : List BarPiece := ps.filter (fun p => isFar s p.x.pa)
def nearPieces (s : State) (ps : List BarPiece) : List BarPiece := ps.filter (fun p => !isFar s p.x.pa)

/-- The modules from the hub to the home of a piece. -/
def bar4Path (s : State) (p : BarPiece) : List (Nat × Nat) :=
  if rangeOf p.x.pa = .host then [] else [hubHop s (sliceTower (homeSlice s p.x.pa p.x.leaf)) p.line]

/-- Whether the modules to the homes of this device can carry an access. -/
def bar4Ready (s : State) (ps : List BarPiece) (out back : List Nat) : Bool :=
  (nearPieces s ps).all (fun p => pathReady s (bar4Path s p) out back)

def bar4Recall (s : State) (ps : List BarPiece) (again : Instr) : Option State :=
  (nearPieces s ps).findSome? (fun p => recallRemote s p.line p.words again)

/-- The request by which a piece goes to another device, as a UC access at its home (R246). -/
def bar4Req (fn off size : Nat) (kind : ReqKind) (bs : List Byte) (id : Nat) (p : BarPiece) : Req :=
  let o := p.x.pa % 128
  { id := id, kind := kind, core := 0, ctx := fn, line := p.line, vls := [(fn, p.va / 128)], parts := [{ thr := none, off := o, width := p.n }]
    mask := BitVec.ofNat 128 ((2 ^ bs.length - 1) * 2 ^ o), data := bufWriteN [] o bs, due := 0, leaf := p.x.leaf
    bar4 := some (fn, off, size) }

def bar4Send (fn off size : Nat) (kind : ReqKind) (s : State) (p : BarPiece) (bs : List Byte) : State :=
  let (id, s) := newId s
  launch s (bar4Req fn off size kind bs id p)

/-- The request of a piece of a read. -/
def bar4Asked (s : State) (fn off size : Nat) (p : BarPiece) : Option Req :=
  (s.reqs.find? (fun e => e.2.bar4 == some (fn, off, size) && e.2.kind == .uc && e.2.line == p.line)).map (·.2)

/-- What a piece reads: from the line that another device has sent, or at its home, and the code with which it fails. -/
def bar4Get (fn off size : Nat) (s : State) (p : BarPiece) : List Byte × Nat × State :=
  let o := p.x.pa % 128
  if isFar s p.x.pa then
    match bar4Asked s fn off size p with
    | some r =>
      let code := match r.parts with | ⟨_, _, _, _, _, _, _, _, _, _, some (c, true)⟩ :: _ => c | _ => 0
      ((r.home.drop o).take p.n, code, { s with reqs := tdel r.id s.reqs })
    | none => ([], 0, s)
  else
    let s := recallLocal s p.line p.words none
    let s := countBack (countPath s (bar4Path s p) 0) (bar4Path s p) 2
    (physRead s p.x.pa p.n, if poisoned s p.line p.words then fPOISON else 0, touchHome s p.x.pa p.x.leaf false)

/-- The pieces of a read, in order: its bytes, and the first code with which one fails. -/
def bar4Gather (fn off size : Nat) : List BarPiece → List Byte → Nat → State → List Byte × Nat × State
  | [], bs, code, s => (bs, code, s)
  | p :: r, bs, code, s =>
    let y := bar4Get fn off size s p
    bar4Gather fn off size r (bs ++ y.1) (if code = 0 then y.2.1 else code) y.2.2

/-- A read through BAR4: a UC read through the function's context. What other devices home is asked for first, and the read is looked
at again when it has come. -/
def bar4Read (fn off size : Nat) (s : State) : State :=
  let again := Instr.hostBar4Read fn { bar := 4, off := off } size
  if bar4Size s fn < off + size then s
  else match bar4Pieces fn false (cutLines (bar4Va s fn off) size) s [] with
    | (.error (.inl f), s) => bar4Abort s fn off f.code
    | (.error (.inr _), s) => waitFor s again
    | (.ok ps, s) =>
      let ask := (farPieces s ps).filter (fun p => (bar4Asked s fn off size p).isNone)
      if !ask.isEmpty then ask.foldl (fun s p => bar4Send fn off size .uc s p []) s
      else if (farPieces s ps).any (fun p => (bar4Asked s fn off size p).any (fun r => !r.performed)) then s
      else if !bar4Ready s ps [0] [1, 2] then waitFor s again
      else match bar4Recall s ps again with
        | some s => s
        | none =>
          let y := bar4Gather fn off size ps [] 0 s
          if y.2.1 ≠ 0 then bar4Abort y.2.2 fn off y.2.1
          else afterServe { y.2.2 with sent := y.2.2.sent ++ [.hostData fn y.1] }

/-- HOST_BAR4_READ: a read of the host through BAR0, BAR2 or BAR4 of a function. -/
def execHostBar4Read (fn : Nat) (at' : BarAddr) (size : Nat) (s : State) : Out :=
  let off := at'.off
  if !hostReaches s fn then .next s
  else
    let answer := fun (bs : List Byte) => { s with sent := s.sent ++ [.hostData fn bs] }
    match at'.bar with
    | 0 => .next (if off + size ≤ 0x4000000 then answer (bar0Read s fn off size) else s)
    | 2 => .next (if off + size ≤ 0x1000000 then answer (List.replicate size 0#8) else s)
    | 4 => .next (bar4Read fn off size s)
    | _ => .next s

/-- A piece of a write: it goes to another device, or is written at its home. -/
def bar4Put (fn off size : Nat) (s : State) (p : BarPiece) (bs : List Byte) : State :=
  if isFar s p.x.pa then bar4Send fn off size .write s p bs
  else
    let s := recallLocal s p.line p.words none
    let s := countBack (countPath (countPath s (bar4Path s p) 0) (bar4Path s p) 2) (bar4Path s p) 1
    homeBytes (touchHome s p.x.pa p.x.leaf true) p.line ((List.range bs.length).zip bs |>.map (fun y => (p.x.pa % 128 + y.1, y.2)))

def bar4PutAll (fn off size : Nat) (s : State) (bs : List Byte) : List BarPiece → State
  | [] => s
  | p :: r => bar4PutAll fn off size (bar4Put fn off size s p (bs.take p.n)) (bs.drop p.n) r

/-- HOST_BAR4_WRITE: a UC write through the function's context; the host enqueues behind it wait for it (R246). -/
def execHostBar4Write (fn off : Nat) (bytes : List Byte) (s : State) : Out :=
  let again := Instr.hostBar4Write fn off bytes
  if !hostReaches s fn || bar4Size s fn < off + bytes.length then .next s
  else match bar4Pieces fn true (cutLines (bar4Va s fn off) bytes.length) s [] with
    | (.error (.inl f), s) => .next (bar4Abort s fn off f.code)
    | (.error (.inr _), s) => .next (waitFor s again)
    | (.ok ps, s) =>
      if !bar4Ready s ps [0, 2] [1] then .next (waitFor s again)
      else match bar4Recall s ps again with
        | some s => .next s
        | none => .next (afterServe (schedule (bar4PutAll fn off bytes.length s bytes ps) s.now lookAgain))

/-- The PCIe data link goes down, and comes back (R441). A T1 has no endpoint. -/
def execPcieDataLinkDown (s : State) : Out := .next { s with pcieUp := false }
def execPcieDataLinkUp (s : State) : Out := if s.t1 then .next s else .next (wakeWaiting { s with pcieUp := true })

/-! ## Configuration space (R442) -/

/-- A configuration request: until step 6 of the boot the endpoint answers it with Configuration Request Retry Status (R464). -/
def configAccess (s : State) (fn : Nat) (f : State → State) : State :=
  if !s.pcieUp || 64 ≤ fn then s
  else if s.kiln.stopped then { s with sent := s.sent ++ [.configRetry fn] }
  else f s

/-- Resizable BAR: the size of BAR4, from 1 GiB to 64 GiB. -/
def resizeBar (s : State) (fn log : Nat) : State :=
  configAccess s fn (fun s => if 30 ≤ log ∧ log ≤ 36 then { s with bar4Log := tset 30 fn log s.bar4Log } else s)

/-- The power state of a function: D0, in which its pending vectors go out, or D3hot. -/
def setPower (s : State) (fn : Nat) (d3 : Bool) : State :=
  configAccess s fn (fun s =>
    if d3 then { s with d3hot := addSorted fn s.d3hot } else sendPending { s with d3hot := s.d3hot.filter (· != fn) } fn)

/-! ## The management interface (R472) -/

/-- LCSTATE. -/
def lcState (k : Kiln) : Word64 := packed [(0, k.life.toNat), (8, k.pending.toNat), (16, k.lcresult.toNat)]

/-- A 64-bit register of the management space. Those that are write only, and offsets that name none, read 0; so does all but BOOTSTAT,
LCSTATE and IDHASH while the boot ROM answers. -/
def boardWord (s : State) (o : Nat) : Word64 :=
  if o = 0x00 then readDevice s 0x4000
  else if o = 0x08 then lcState s.kiln
  else if romAnswers s then 0#64
  else if o = 0x18 then s.kiln.arg
  else if o = 0x20 then readDevice s 0x3010
  else if o = 0x30 then BitVec.ofNat 64 s.kiln.token.length
  else if 0x80 ≤ o ∧ o < 0xC0 then (if s.t1 ∧ o ≠ 0x80 then 0#64 else readTower s ((o - 0x80) / 8) 0x200)
  else 0#64

/-- A byte of the management space. -/
def boardByte (s : State) (o : Nat) : Byte :=
  if 0xC0 ≤ o ∧ o < 0xE0 then idHash.getD (o - 0xC0) 0#8
  else ((leBytes (boardWord s (o / 8 * 8)).toNat 8)[o % 8]?).getD 0#8

/-- LCREQ: the request that a value makes. -/
def boardRequest (v : Nat) (s : State) : Out :=
  match v with
  | 1 => execLcProvision s
  | 2 => execLcCommission s
  | 3 => execLcReturn s
  | 4 => execLcDispose s
  | _ => .next s

/-- A register takes a new value. -/
def boardSet (s : State) (o : Nat) (v : Word64) : State :=
  match o with
  | 0x10 => mailbox s (bits v 0 8)
  | 0x18 => { s with kiln := { s.kiln with arg := v } }
  | 0x28 => nextOf (boardRequest (bits v 0 3) s) s
  | 0x38 => nextOf (execTkreset s) s
  | _ => s

/-- Bytes written at ascending offsets: a register takes its value when all of it has been written, and a write that starts at TKDATA
writes every byte there. -/
def boardWrite (s : State) (off : Nat) (bs : List Byte) : State :=
  if romAnswers s then s
  else if off = 0x40 then bs.foldl (fun s b => nextOf (execTkdata b s) s) s
  else
    let s := [0x10, 0x18, 0x28, 0x38].foldl (fun s o =>
      if off ≤ o ∧ o + 8 ≤ off + bs.length then boardSet s o (BitVec.ofNat 64 (leNat ((bs.drop (o - off)).take 8))) else s) s
    if off < 0x40 then (match bs[0x40 - off]? with | some b => nextOf (execTkdata b s) s | none => s) else s

/-- A transaction on the management interface: bytes written from an offset on, then `n` bytes read from there on. -/
def boardAccess (s : State) (off : Nat) (bs : List Byte) (n : Nat) : State :=
  if 256 ≤ off then s
  else
    let s := boardWrite s off bs
    if n = 0 then s
    else { s with sent := s.sent ++ [.managed ((List.range n).map (fun i => if off + i < 256 then boardByte s (off + i) else 0#8))] }

/-- The static address of Kiln's target, and its address on SMBus. -/
def boardAddr : Nat := 0x3A

/-- An I3C private transfer, which the target takes at its dynamic address once it has one. -/
def i3cAccess (s : State) (addr off : Nat) (bs : List Byte) (n : Nat) : State :=
  if addr = s.kiln.dyn.getD boardAddr then boardAccess s off bs n else s

/-- An SMBus transfer: a block write or a block read of at most 32 bytes. -/
def smbusAccess (s : State) (off : Nat) (bs : List Byte) (n : Nat) : State :=
  if bs.length ≤ 32 ∧ n ≤ 32 ∧ (bs = [] ∨ n = 0) then boardAccess s off bs n else s

/-- SETDASA or ENTDAA: the target takes a dynamic address of 7 bits, if it has none. -/
def assignAddr (s : State) (addr : Nat) : State :=
  if s.kiln.dyn.isNone && decide (addr < 128) then { s with kiln := { s.kiln with dyn := some addr } } else s

/-- REGISTER_WRITE: a write to a register from outside the cores. Kiln makes none in a boot that has stopped (R464). -/
def execRegisterWrite (at' : RegPlace) (v : Word64) (s : State) : Out :=
  match at' with
  | .sys off => .next (if s.kiln.stopped then s else writeSys off v s)
  | .bar0 fn off => .next (bar0Write s fn off v)
  | .i3c addr off bytes n => .next (i3cAccess s addr off bytes n)
  | .smbus off bytes n => .next (smbusAccess s off bytes n)
  | .assign addr => .next (assignAddr s addr)
  | .barSize fn => .next (resizeBar s fn v.toNat)
  | .power fn => .next (setPower s fn (v.getLsbD 0))

end Sys2Proof.Machine
end

