-- ==== Sys2Proof/Machine/Dispatch.lean ====
section
/-! DEFINITION. One arm per constructor of Instr: the meaning of each instruction and event. -/

namespace Sys2Proof.Machine

def exec (i : Instr) (s : State) : Host.Outcome State Fault Refusal :=
  match i with
  | .nop f => Sys2Proof.Machine.execNop f s
  | .mov f => Sys2Proof.Machine.execMov f s
  | .movImm64 g dst imm => Sys2Proof.Machine.execMovImm64 g dst imm s
  | .sel f => Sys2Proof.Machine.execSel f s
  | .iadd f => Sys2Proof.Machine.execIadd f s
  | .isub f => Sys2Proof.Machine.execIsub f s
  | .imul f => Sys2Proof.Machine.execImul f s
  | .imad f => Sys2Proof.Machine.execImad f s
  | .idiv f => Sys2Proof.Machine.execIdiv f s
  | .irem f => Sys2Proof.Machine.execIrem f s
  | .imin f => Sys2Proof.Machine.execImin f s
  | .imax f => Sys2Proof.Machine.execImax f s
  | .iabs f => Sys2Proof.Machine.execIabs f s
  | .ineg f => Sys2Proof.Machine.execIneg f s
  | .and f => Sys2Proof.Machine.execAnd f s
  | .or f => Sys2Proof.Machine.execOr f s
  | .xor f => Sys2Proof.Machine.execXor f s
  | .not f => Sys2Proof.Machine.execNot f s
  | .lut3 f => Sys2Proof.Machine.execLut3 f s
  | .shl f => Sys2Proof.Machine.execShl f s
  | .shr f => Sys2Proof.Machine.execShr f s
  | .rotl f => Sys2Proof.Machine.execRotl f s
  | .bfe f => Sys2Proof.Machine.execBfe f s
  | .bfi f => Sys2Proof.Machine.execBfi f s
  | .popc f => Sys2Proof.Machine.execPopc f s
  | .clz f => Sys2Proof.Machine.execClz f s
  | .brev f => Sys2Proof.Machine.execBrev f s
  | .bsel f => Sys2Proof.Machine.execBsel f s
  | .cmp f => Sys2Proof.Machine.execCmp f s
  | .bop f => Sys2Proof.Machine.execBop f s
  | .lea f => Sys2Proof.Machine.execLea f s
  | .fadd f => Sys2Proof.Machine.execFadd f s
  | .fsub f => Sys2Proof.Machine.execFsub f s
  | .fmul f => Sys2Proof.Machine.execFmul f s
  | .ffma f => Sys2Proof.Machine.execFfma f s
  | .fdiv f => Sys2Proof.Machine.execFdiv f s
  | .fmin f => Sys2Proof.Machine.execFmin f s
  | .fmax f => Sys2Proof.Machine.execFmax f s
  | .fcmp f => Sys2Proof.Machine.execFcmp f s
  | .fclass f => Sys2Proof.Machine.execFclass f s
  | .fscale f => Sys2Proof.Machine.execFscale f s
  | .frnd f => Sys2Proof.Machine.execFrnd f s
  | .hadd2 f => Sys2Proof.Machine.execHadd2 f s
  | .hmul2 f => Sys2Proof.Machine.execHmul2 f s
  | .hfma2 f => Sys2Proof.Machine.execHfma2 f s
  | .hmin2 f => Sys2Proof.Machine.execHmin2 f s
  | .hmax2 f => Sys2Proof.Machine.execHmax2 f s
  | .hcmp2 f => Sys2Proof.Machine.execHcmp2 f s
  | .rcp f => Sys2Proof.Machine.execRcp f s
  | .rsq f => Sys2Proof.Machine.execRsq f s
  | .sqrt f => Sys2Proof.Machine.execSqrt f s
  | .ex2 f => Sys2Proof.Machine.execEx2 f s
  | .lg2 f => Sys2Proof.Machine.execLg2 f s
  | .sin f => Sys2Proof.Machine.execSin f s
  | .cos f => Sys2Proof.Machine.execCos f s
  | .tanh f => Sys2Proof.Machine.execTanh f s
  | .fdot2 f => Sys2Proof.Machine.execFdot2 f s
  | .asyncResultWrite id => Sys2Proof.Machine.execAsyncResultWrite id s
  | .cvt f => Sys2Proof.Machine.execCvt f s
  | .pack f => Sys2Proof.Machine.execPack f s
  | .unpack f => Sys2Proof.Machine.execUnpack f s
  | .glzq b c => Sys2Proof.Machine.execGlzq b c s
  | .glzd b c => Sys2Proof.Machine.execGlzd b c s
  | .glzrFwd b c => Sys2Proof.Machine.execGlzrFwd b c s
  | .glzrInv b c => Sys2Proof.Machine.execGlzrInv b c s
  | .rng f => Sys2Proof.Machine.execRng f s
  | .rngF f => Sys2Proof.Machine.execRngF f s
  | .rngW f => Sys2Proof.Machine.execRngW f s
  | .rngseed f => Sys2Proof.Machine.execRngseed f s
  | .rngseedMix f => Sys2Proof.Machine.execRngseedMix f s
  | .bra b e1 => Sys2Proof.Machine.execBra b e1 s
  | .brx b => Sys2Proof.Machine.execBrx b s
  | .call b e1 => Sys2Proof.Machine.execCall b e1 s
  | .callx b => Sys2Proof.Machine.execCallx b s
  | .ret b => Sys2Proof.Machine.execRet b s
  | .exit b => Sys2Proof.Machine.execExit b s
  | .threadSlotFree t => Sys2Proof.Machine.execThreadSlotFree t s
  | .safept b e1 => Sys2Proof.Machine.execSafept b e1 s
  | .fork b e1 => Sys2Proof.Machine.execFork b e1 s
  | .xlane b mm => Sys2Proof.Machine.execXlane b mm s
  | .vote b mm => Sys2Proof.Machine.execVote b mm s
  | .peers b mm => Sys2Proof.Machine.execPeers b mm s
  | .gred b mm => Sys2Proof.Machine.execGred b mm s
  | .scan b mm => Sys2Proof.Machine.execScan b mm s
  | .gsync b mm => Sys2Proof.Machine.execGsync b mm s
  | .rdsr b => Sys2Proof.Machine.execRdsr b s
  | .wrsr b => Sys2Proof.Machine.execWrsr b s
  | .wrsrExm b => Sys2Proof.Machine.execWrsrExm b s
  | .smov b imm => Sys2Proof.Machine.execSmov b imm s
  | .sadd b imm => Sys2Proof.Machine.execSadd b imm s
  | .ssub b imm => Sys2Proof.Machine.execSsub b imm s
  | .smul b imm => Sys2Proof.Machine.execSmul b imm s
  | .sand b imm => Sys2Proof.Machine.execSand b imm s
  | .sor b imm => Sys2Proof.Machine.execSor b imm s
  | .sxor b imm => Sys2Proof.Machine.execSxor b imm s
  | .sshl b imm => Sys2Proof.Machine.execSshl b imm s
  | .sshr b imm => Sys2Proof.Machine.execSshr b imm s
  | .scmp b imm => Sys2Proof.Machine.execScmp b imm s
  | .sld b m => Sys2Proof.Machine.execSld b m s
  | .srd b m => Sys2Proof.Machine.execSrd b m s
  | .s2v b => Sys2Proof.Machine.execS2v b s
  | .v2s b => Sys2Proof.Machine.execV2s b s
  | .nsig b => Sys2Proof.Machine.execNsig b s
  | .ld b m disp => Sys2Proof.Machine.execLd b m disp s
  | .st b m disp => Sys2Proof.Machine.execSt b m disp s
  | .lda b m disp => Sys2Proof.Machine.execLda b m disp s
  | .sta b m disp => Sys2Proof.Machine.execSta b m disp s
  | .ldc b m disp => Sys2Proof.Machine.execLdc b m disp s
  | .stc b m disp => Sys2Proof.Machine.execStc b m disp s
  | .atom b m disp => Sys2Proof.Machine.execAtom b m disp s
  | .atoma b m disp => Sys2Proof.Machine.execAtoma b m disp s
  | .red b m disp => Sys2Proof.Machine.execRed b m disp s
  | .pref b m disp => Sys2Proof.Machine.execPref b m disp s
  | .loadReturn id => Sys2Proof.Machine.execLoadReturn id s
  | .invl b m => Sys2Proof.Machine.execInvl b m s
  | .wb b m => Sys2Proof.Machine.execWb b m s
  | .l1Eviction core line => Sys2Proof.Machine.execL1Eviction core line s
  | .fence b => Sys2Proof.Machine.execFence b s
  | .bind b e1 => Sys2Proof.Machine.execBind b e1 s
  | .unbind b => Sys2Proof.Machine.execUnbind b s
  | .acq b => Sys2Proof.Machine.execAcq b s
  | .rel b => Sys2Proof.Machine.execRel b s
  | .rsv b => Sys2Proof.Machine.execRsv b s
  | .rsvClr b => Sys2Proof.Machine.execRsvClr b s
  | .rsvf b e1 => Sys2Proof.Machine.execRsvf b e1 s
  | .rsvq b => Sys2Proof.Machine.execRsvq b s
  | .mma b c => Sys2Proof.Machine.execMma b c s
  | .mmat b c => Sys2Proof.Machine.execMmat b c s
  | .mmz b => Sys2Proof.Machine.execMmz b s
  | .mmw b c w => Sys2Proof.Machine.execMmw b c w s
  | .engineArbitrate quad => Sys2Proof.Machine.execEngineArbitrate quad s
  | .enginePass quad => Sys2Proof.Machine.execEnginePass quad s
  | .meCommandComplete quad cmd => Sys2Proof.Machine.execMeCommandComplete quad cmd s
  | .pugLineFetch quad cmd line => Sys2Proof.Machine.execPugLineFetch quad cmd line s
  | .laneBallastPacket core => Sys2Proof.Machine.execLaneBallastPacket core s
  | .barInit b imm => Sys2Proof.Machine.execBarInit b imm s
  | .barArrive b => Sys2Proof.Machine.execBarArrive b s
  | .barWait b => Sys2Proof.Machine.execBarWait b s
  | .barTest b => Sys2Proof.Machine.execBarTest b s
  | .barInval b => Sys2Proof.Machine.execBarInval b s
  | .barExpect b imm => Sys2Proof.Machine.execBarExpect b imm s
  | .barRead b => Sys2Proof.Machine.execBarRead b s
  | .barWrite b => Sys2Proof.Machine.execBarWrite b s
  | .barwInit b m disp => Sys2Proof.Machine.execBarwInit b m disp s
  | .barwArrive b m disp => Sys2Proof.Machine.execBarwArrive b m disp s
  | .barwWait b m disp => Sys2Proof.Machine.execBarwWait b m disp s
  | .barwPoll t => Sys2Proof.Machine.execBarwPoll t s
  | .step b => Sys2Proof.Machine.execStep b s
  | .monitor b m disp => Sys2Proof.Machine.execMonitor b m disp s
  | .mwait b => Sys2Proof.Machine.execMwait b s
  | .mwaitTimeout t => Sys2Proof.Machine.execMwaitTimeout t s
  | .gset b => Sys2Proof.Machine.execGset b s
  | .gsetOpen b => Sys2Proof.Machine.execGsetOpen b s
  | .gclr b => Sys2Proof.Machine.execGclr b s
  | .cpy b c => Sys2Proof.Machine.execCpy b c s
  | .cpyt b c => Sys2Proof.Machine.execCpyt b c s
  | .cpyr b c => Sys2Proof.Machine.execCpyr b c s
  | .cpyq b => Sys2Proof.Machine.execCpyq b s
  | .cpyqJ b => Sys2Proof.Machine.execCpyqJ b s
  | .slipBeat cmd beat => Sys2Proof.Machine.execSlipBeat cmd beat s
  | .copyComplete cmd => Sys2Proof.Machine.execCopyComplete cmd s
  | .copyReplayStart team => Sys2Proof.Machine.execCopyReplayStart team s
  | .coll b c => Sys2Proof.Machine.execColl b c s
  | .collMatch coll posts => Sys2Proof.Machine.execCollMatch coll posts s
  | .collComplete coll => Sys2Proof.Machine.execCollComplete coll s
  | .collWatchdog coll => Sys2Proof.Machine.execCollWatchdog coll s
  | .enq b q => Sys2Proof.Machine.execEnq b q s
  | .enqTry b q => Sys2Proof.Machine.execEnqTry b q s
  | .deq b q => Sys2Proof.Machine.execDeq b q s
  | .deqt b q => Sys2Proof.Machine.execDeqt b q s
  | .deqtTimeout t => Sys2Proof.Machine.execDeqtTimeout t s
  | .qctlQuery b q => Sys2Proof.Machine.execQctlQuery b q s
  | .qctlCreate b q => Sys2Proof.Machine.execQctlCreate b q s
  | .qctlFreeze b q => Sys2Proof.Machine.execQctlFreeze b q s
  | .qctlThaw b q => Sys2Proof.Machine.execQctlThaw b q s
  | .qctlDrain b q => Sys2Proof.Machine.execQctlDrain b q s
  | .qctlDestroy b q => Sys2Proof.Machine.execQctlDestroy b q s
  | .qctlSetptr b q => Sys2Proof.Machine.execQctlSetptr b q s
  | .hostEnqueue fn off bytes => Sys2Proof.Machine.execHostEnqueue fn off bytes s
  | .launchQueueItem ctx => Sys2Proof.Machine.execLaunchQueueItem ctx s
  | .deviceItemEnqueue item => Sys2Proof.Machine.execDeviceItemEnqueue item s
  | .trap b => Sys2Proof.Machine.execTrap b s
  | .syscall b => Sys2Proof.Machine.execSyscall b s
  | .rft b => Sys2Proof.Machine.execRft b s
  | .rftTarget b => Sys2Proof.Machine.execRftTarget b s
  | .rftSave b => Sys2Proof.Machine.execRftSave b s
  | .rftRest b => Sys2Proof.Machine.execRftRest b s
  | .teamSaved team => Sys2Proof.Machine.execTeamSaved team s
  | .rdsys b e1 => Sys2Proof.Machine.execRdsys b e1 s
  | .wrsys b e1 => Sys2Proof.Machine.execWrsys b e1 s
  | .ctxctlCmd b e1 => Sys2Proof.Machine.execCtxctlCmd b e1 s
  | .ctxctlExm b e1 => Sys2Proof.Machine.execCtxctlExm b e1 s
  | .fresRetry b => Sys2Proof.Machine.execFresRetry b s
  | .fresRetryD b => Sys2Proof.Machine.execFresRetryD b s
  | .fresKill b => Sys2Proof.Machine.execFresKill b s
  | .pgmapLeaf b e1 => Sys2Proof.Machine.execPgmapLeaf b e1 s
  | .pgmapTable b e1 => Sys2Proof.Machine.execPgmapTable b e1 s
  | .pgshare b => Sys2Proof.Machine.execPgshare b s
  | .pgshareCow b => Sys2Proof.Machine.execPgshareCow b s
  | .pgunshare b => Sys2Proof.Machine.execPgunshare b s
  | .pgmove b => Sys2Proof.Machine.execPgmove b s
  | .pageMoveComplete move => Sys2Proof.Machine.execPageMoveComplete move s
  | .pginv b => Sys2Proof.Machine.execPginv b s
  | .pginvAbs b => Sys2Proof.Machine.execPginvAbs b s
  | .pginvTlb b => Sys2Proof.Machine.execPginvTlb b s
  | .pgdirty b => Sys2Proof.Machine.execPgdirty b s
  | .pgdirtyPeek b => Sys2Proof.Machine.execPgdirtyPeek b s
  | .frameReturn frame va => Sys2Proof.Machine.execFrameReturn frame va s
  | .homeUncorrectableError site => Sys2Proof.Machine.execHomeUncorrectableError site s
  | .homeWrite id => Sys2Proof.Machine.execHomeWrite id s
  | .moveOutStart core lane => Sys2Proof.Machine.execMoveOutStart core lane s
  | .moveOutComplete t => Sys2Proof.Machine.execMoveOutComplete t s
  | .recallStart t => Sys2Proof.Machine.execRecallStart t s
  | .recallComplete t => Sys2Proof.Machine.execRecallComplete t s
  | .rendezvousWatchdog team gid => Sys2Proof.Machine.execRendezvousWatchdog team gid s
  | .preemptDeadline ctx => Sys2Proof.Machine.execPreemptDeadline ctx s
  | .nodeSignal ctx node => Sys2Proof.Machine.execNodeSignal ctx node s
  | .placementPass => Sys2Proof.Machine.execPlacementPass s
  | .placementBlockTimeout ctx node => Sys2Proof.Machine.execPlacementBlockTimeout ctx node s
  | .windowBoundary => Sys2Proof.Machine.execWindowBoundary s
  | .rampDeadline request => Sys2Proof.Machine.execRampDeadline request s
  | .clampRaise quad => Sys2Proof.Machine.execClampRaise quad s
  | .clampLower quad => Sys2Proof.Machine.execClampLower quad s
  | .ctxBuild src ctx => Sys2Proof.Machine.execCtxBuild src ctx s
  | .ctxCommit src ctx => Sys2Proof.Machine.execCtxCommit src ctx s
  | .ctxRun src ctx => Sys2Proof.Machine.execCtxRun src ctx s
  | .ctxPreempt src ctx => Sys2Proof.Machine.execCtxPreempt src ctx s
  | .ctxMigrate src ctx => Sys2Proof.Machine.execCtxMigrate src ctx s
  | .ctxAdopt src ctx => Sys2Proof.Machine.execCtxAdopt src ctx s
  | .ctxTeardown src ctx => Sys2Proof.Machine.execCtxTeardown src ctx s
  | .teardownComplete ctx => Sys2Proof.Machine.execTeardownComplete ctx s
  | .spmapWrite tower k value => Sys2Proof.Machine.execSpmapWrite tower k value s
  | .spmapDrainComplete tower => Sys2Proof.Machine.execSpmapDrainComplete tower s
  | .commcfgWrite ctx comm table value => Sys2Proof.Machine.execCommcfgWrite ctx comm table value s
  | .steerWrite tower edge value => Sys2Proof.Machine.execSteerWrite tower edge value s
  | .fxsteerWrite k value => Sys2Proof.Machine.execFxsteerWrite k value s
  | .fxslotWrite k value => Sys2Proof.Machine.execFxslotWrite k value s
  | .registerWrite off value => Sys2Proof.Machine.execRegisterWrite off value s
  | .linkPause blk => Sys2Proof.Machine.execLinkPause blk s
  | .linkResume blk => Sys2Proof.Machine.execLinkResume blk s
  | .linkTrain blk => Sys2Proof.Machine.execLinkTrain blk s
  | .linkDisable blk => Sys2Proof.Machine.execLinkDisable blk s
  | .pauseAcknowledged blk => Sys2Proof.Machine.execPauseAcknowledged blk s
  | .trainingDone blk => Sys2Proof.Machine.execTrainingDone blk s
  | .trainingFailed blk => Sys2Proof.Machine.execTrainingFailed blk s
  | .replayExhausted blk => Sys2Proof.Machine.execReplayExhausted blk s
  | .retrainDone blk => Sys2Proof.Machine.execRetrainDone blk s
  | .retrainFailed blk => Sys2Proof.Machine.execRetrainFailed blk s
  | .adapterReplay blk => Sys2Proof.Machine.execAdapterReplay blk s
  | .readSiWt m => Sys2Proof.Machine.execReadSiWt m s
  | .readOwn m => Sys2Proof.Machine.execReadOwn m s
  | .readUc m => Sys2Proof.Machine.execReadUc m s
  | .write m => Sys2Proof.Machine.execWrite m s
  | .writeBack m => Sys2Proof.Machine.execWriteBack m s
  | .atomic m => Sys2Proof.Machine.execAtomic m s
  | .reduce m => Sys2Proof.Machine.execReduce m s
  | .armMonitor m => Sys2Proof.Machine.execArmMonitor m s
  | .dropMonitor m => Sys2Proof.Machine.execDropMonitor m s
  | .tierRead m => Sys2Proof.Machine.execTierRead m s
  | .tierWrite m => Sys2Proof.Machine.execTierWrite m s
  | .response m => Sys2Proof.Machine.execResponse m s
  | .data m => Sys2Proof.Machine.execData m s
  | .recallMsg m => Sys2Proof.Machine.execRecallMsg m s
  | .copyBeat m => Sys2Proof.Machine.execCopyBeat m s
  | .recallTimeout id => Sys2Proof.Machine.execRecallTimeout id s
  | .hello agent => Sys2Proof.Machine.execHello agent s
  | .ident m => Sys2Proof.Machine.execIdent m s
  | .assign agent => Sys2Proof.Machine.execAssign agent s
  | .accept agent inc => Sys2Proof.Machine.execAccept agent inc s
  | .refuse agent cause => Sys2Proof.Machine.execRefuse agent cause s
  | .failed agent => Sys2Proof.Machine.execFailed agent s
  | .helloTimeout agent => Sys2Proof.Machine.execHelloTimeout agent s
  | .vwBeatReplay slice beat => Sys2Proof.Machine.execVwBeatReplay slice beat s
  | .vwRepair slice bundle halfWorks => Sys2Proof.Machine.execVwRepair slice bundle halfWorks s
  | .hostBar4Read fn off size => Sys2Proof.Machine.execHostBar4Read fn off size s
  | .hostBar4Write fn off bytes => Sys2Proof.Machine.execHostBar4Write fn off bytes s
  | .setop arg => Sys2Proof.Machine.execSetop arg s
  | .ratioChangeComplete quad => Sys2Proof.Machine.execRatioChangeComplete quad s
  | .gate arg => Sys2Proof.Machine.execGate arg s
  | .ungate arg => Sys2Proof.Machine.execUngate arg s
  | .offline arg => Sys2Proof.Machine.execOffline arg s
  | .offlineComplete tower => Sys2Proof.Machine.execOfflineComplete tower s
  | .online arg => Sys2Proof.Machine.execOnline arg s
  | .setbound arg => Sys2Proof.Machine.execSetbound arg s
  | .setfloor arg => Sys2Proof.Machine.execSetfloor arg s
  | .setalarm arg => Sys2Proof.Machine.execSetalarm arg s
  | .thermalAlarm tower tj => Sys2Proof.Machine.execThermalAlarm tower tj s
  | .thermalTrip tower tj => Sys2Proof.Machine.execThermalTrip tower tj s
  | .towerLost tower => Sys2Proof.Machine.execTowerLost tower s
  | .kilnWatchdogReset => Sys2Proof.Machine.execKilnWatchdogReset s
  | .kilnUpdate image => Sys2Proof.Machine.execKilnUpdate image s
  | .deviceReset => Sys2Proof.Machine.execDeviceReset s
  | .attestationStart => Sys2Proof.Machine.execAttestationStart s
  | .attestationComplete => Sys2Proof.Machine.execAttestationComplete s
  | .lcProvision => Sys2Proof.Machine.execLcProvision s
  | .lcCommission => Sys2Proof.Machine.execLcCommission s
  | .lcReturn => Sys2Proof.Machine.execLcReturn s
  | .lcDispose => Sys2Proof.Machine.execLcDispose s
  | .tkdata byte => Sys2Proof.Machine.execTkdata byte s
  | .tkreset => Sys2Proof.Machine.execTkreset s
  | .fetchFault code cause => Sys2Proof.Machine.execFetchFault code cause s
  | .protocolError blk h => Sys2Proof.Machine.execProtocolError blk h s
  | .flitCrcFailure blk lanes => Sys2Proof.Machine.execFlitCrcFailure blk lanes s
  | .pcieDataLinkDown => Sys2Proof.Machine.execPcieDataLinkDown s
  | .pcieDataLinkUp => Sys2Proof.Machine.execPcieDataLinkUp s
  | .coolantFlowLow => Sys2Proof.Machine.execCoolantFlowLow s
  | .kilnHang => Sys2Proof.Machine.execKilnHang s
  | .kilnRestartComplete => Sys2Proof.Machine.execKilnRestartComplete s

end Sys2Proof.Machine
end

