-- ==== Sys2Proof/Machine/Step.lean ====
section
/-! DEFINITION. One step of the machine, and the placing of a word as the instruction that the next step runs. -/

namespace Sys2Proof.Machine

/-- One step: the instruction or event that comes next is executed, or time passes. The machine faults only where the boot
sequence has stopped and nothing is due (R464). -/
def step (s : State) : Host.Outcome State Fault Refusal :=
  match choose s with
  | .stop => .fault .bootStopped
  | .run i s' => endPacket (exec i s')
  | .next s' => .next s'

/-- The state with the instruction of these bits placed where `step` fetches its next instruction (log entry 13). -/
def State.withFetchWord (s : State) (nbits w : Nat) : State := placeWord s nbits w

end Sys2Proof.Machine
end

