-- ==== Sys2Proof/Safety.lean ====
section
/-! DEFINITION. The vocabulary of the claims: when the threads of a packet execute an instruction, what it leaves behind for each
thread, and what stays as it was. -/

namespace Sys2Proof.Machine

/-- The step answers a next state. -/
def Goes (s : State) : Prop := ∃ t, step s = .next t

/-- An instruction answers a next state. -/
def Completes (i : Instr) (s : State) : Prop := ∃ t, exec i s = .next t

/-! ## Forms that act for each thread -/

/-- The guard register of a thread is sound, and the guard is 0: the thread skips the instruction (R33). -/
def skips (o : Opnds) (s : State) (r : ThrRef) : Bool :=
  (regOf (thrOf s r) o.g.gr.toNat).full && !(regOf (thrOf s r) o.g.gr.toNat).poison && !guardBit (thrOf s r) o.g

/-- The packet `p` is being executed, its threads are distinct, and each of them either skips the instruction or is ready for it
and clear of the checks of steps 4, 6 and 7 of R53. -/
def Runs (o : Opnds) (s : State) (p : Packet) : Prop :=
  s.cur = some p ∧ regsOk o (teamOf s p.team).hdr.regs = true ∧ p.refs.Nodup ∧ (∀ r ∈ p.refs, r.gid < 32 ∧ r.lane < 32) ∧
    ∀ r ∈ p.refs, skips o s r = true ∨ takesPart o s r = true

/-- A thread after its instruction, in core clock `now` of its core: READY at `pc`. -/
def stepped (now : Nat) (pc : Word64) (th : Thread) : Thread :=
  { th with stat := .ready, pc := pc, idleSince := now }

/-- Every thread of the packet with guard 1 has the effect `eff` and goes to `pc`; one with guard 0 goes to the next
instruction. Every other thread, and every other part of the state, is unchanged. -/
def Passed (s t : State) (p : Packet) (o : Opnds) (eff : ThrRef → Thread → Thread) (pc : ThrRef → Word64) : Prop :=
  (∀ r ∈ p.refs, thrOf t r =
    if guardBit (thrOf s r) o.g then stepped (thrClock s r) (pc r) (eff r (thrOf s r))
    else stepped (thrClock s r) p.next (thrOf s r)) ∧
  (∀ k, k ∉ p.refs.map thrKey → tget t.threads k = tget s.threads k) ∧ t = { s with threads := t.threads }

/-- The effect of a form of classes 0 to 2 that writes `v` (R40, R54). -/
def writes (u : AluUse) (f : Alu) (v : Word64) (th : Thread) : Thread :=
  if maskBit th f then writeAlu u f v th else skipAlu u f th

/-- An instruction of classes 0 to 2 that writes the value `v` and does nothing else. -/
def WritesValue (i : Instr) (u : AluUse) (f : Alu) (v : State → ThrRef → Word64) : Prop :=
  ∀ s p, Runs (aluOpnds u f) s p →
    ∃ t, exec i s = .next t ∧ Passed s t p (aluOpnds u f) (fun r => writes u f (v s r)) (fun _ => p.next)

/-- The operands a, b, c of a thread. -/
def opA (u : AluUse) (f : Alu) (s : State) (r : ThrRef) : Word64 := aluA s r (thrOf s r) u f
def opB (u : AluUse) (f : Alu) (s : State) (r : ThrRef) : Word64 := aluB s r (thrOf s r) u f
def opC (u : AluUse) (f : Alu) (s : State) (r : ThrRef) : Word64 := aluC s r (thrOf s r) u f

/-- An integer operand of 32 or 64 bits, as a signed or an unsigned number (R6). -/
def numOf (w : Nat) (u : Bool) (x : Word64) : Int := if u then ((x.setWidth w).toNat : Int) else (x.setWidth w).toInt

/-- The number `x` clamped to the signed or unsigned range of `w` bits (R146). -/
def clamped (w : Nat) (u : Bool) (x : Int) : Word64 :=
  (BitVec.ofInt w (if u then max 0 (min x (2 ^ w - 1)) else max (-(2 ^ (w - 1))) (min x (2 ^ (w - 1) - 1)))).setWidth 64

/-- A 32-bit operand extended to 64 bits, with zeros or its sign. -/
def extended (u : Bool) (x : Word32) : Word64 := if u then x.setWidth 64 else x.signExtend 64

/-- The effect of a form of classes 0 to 2 whose value and flags are given (R144). -/
def aluEffect (u : AluUse) (f : Alu) (o : AluOut) (th : Thread) : Thread :=
  if maskBit th f then writeAlu u f o.val { th with fpc := raiseFlags th.fpc o.flags, rng := o.rng } else skipAlu u f th

/-- An instruction of classes 0 to 2 that writes the value, raises the flags and leaves the generator state that `o` gives, where
no flag raised is enabled to trap. -/
def WritesRounded (i : Instr) (u : AluUse) (f : Alu) (o : Thread → Word64 → Word64 → Word64 → AluOut) : Prop :=
  ∀ s p, Runs (aluOpnds u f) s p →
    (∀ r ∈ p.refs, maskBit (thrOf s r) f = true →
      (o (thrOf s r) (opA u f s r) (opB u f s r) (opC u f s r)).flags &&& fpcTraps (thrOf s r).fpc = 0#5) →
    ∃ t, exec i s = .next t ∧ Passed s t p (aluOpnds u f)
      (fun r => aluEffect u f (o (thrOf s r) (opA u f s r) (opB u f s r) (opC u f s r))) (fun _ => p.next)

/-- An asynchronous form (R128 to R130): every executing thread whose mask bit is 1 has its destination marked empty, and a result
in flight that holds the value and flags and is due after `clocks` core clocks; with a trap enable set, a floating form waits for
it. -/
def Launches (i : Instr) (u : AluUse) (f : Alu) (fp : Bool) (clocks : Packet → ThrRef → Nat)
    (o : Thread → Word64 → Word64 → AluOut) : Prop :=
  ∀ s p, Runs (aluOpnds u f) s p →
    (∀ r ∈ p.refs, fp = true → maskBit (thrOf s r) f = true →
      (o (thrOf s r) (opA u f s r) (opB u f s r)).flags &&& fpcTraps (thrOf s r).fpc = 0#5) →
    ∃ t, exec i s = .next t ∧ ∀ r ∈ p.refs,
      let res := o (thrOf s r) (opA u f s r) (opB u f s r)
      (guardBit (thrOf s r) f.g = true → maskBit (thrOf s r) f = true →
        (regOf (thrOf t r) f.dst.toNat).full = decide (f.dst = 0#10) ∧ (thrOf t r).pc = p.next ∧ (thrOf t r).rng = res.rng ∧
        (thrOf t r).stat = (if fp = true ∧ fpcTraps (thrOf s r).fpc ≠ 0#5 then .waiting .result else .ready) ∧
        ∃ id, s.nextId ≤ id ∧ id < t.nextId ∧ (tget t.asyncs id).map (fun a => (a.thr, a.dst, a.val, a.flags)) =
            some (r, f.dst.toNat, lo32 res.val, res.flags) ∧
          Instr.asyncResultWrite id ∈
            tgetD (tgetD t.ctimers (coreQuad p.core) []) (coreClock s p.core + clocks p r) []) ∧
      (guardBit (thrOf s r) f.g = true → maskBit (thrOf s r) f = false →
        thrOf t r = stepped (thrClock s r) p.next (skipAlu u f (thrOf s r))) ∧
      (guardBit (thrOf s r) f.g = false → thrOf t r = stepped (thrClock s r) p.next (thrOf s r))

/-! ## A thread alone in its packet -/

/-- The packet being executed holds the thread `r` alone, which is ready for the instruction and clear of the checks of steps 4, 6
and 7 of R53. -/
def Alone (o : Opnds) (s : State) (p : Packet) (r : ThrRef) : Prop :=
  s.cur = some p ∧ p.refs = [r] ∧ regsOk o (teamOf s p.team).hdr.regs = true ∧ takesPart o s r = true

/-! ## Rendezvous (R170 to R174) -/

/-- The thread of a lane of the packet's group. -/
def atLane (p : Packet) (gid l : Nat) : ThrRef := { team := p.team, gid := gid, lane := l }

/-- The guard with which a lane takes part: of the thread in the packet, or that it has arrived with. -/
def guardAt (o : Opnds) (s : State) (p : Packet) (gid l : Nat) : Bool :=
  if atLane p gid l ∈ p.refs then guardBit (thrOf s (atLane p gid l)) o.g
  else arrivedAt (thrOf s (atLane p gid l)) p.pc == some true

/-- The packet completes a rendezvous of its group: `parts` are the participants, each of them in the packet, with its guard
register sound and the operands of a thread with guard 1 full, or arrived before; `present` are those with guard 1, and they are
clear of steps 6 and 7 of R53. -/
def Meeting (o : Opnds) (all : Bool) (mm : LaneMask) (s : State) (p : Packet) (gid : Nat) (parts present : List Nat) : Prop :=
  s.cur = some p ∧ regsOk o (teamOf s p.team).hdr.regs = true ∧ gid < 32 ∧ p.refs ≠ [] ∧ p.refs.Nodup ∧
  (grpOf s p.team gid).sld = none ∧
  (∀ r ∈ p.refs, r.gid = gid ∧ r.lane ∈ parts ∧ (thrOf s r).pc = p.pc ∧
    parts = lanesOf (participants (grpOf s p.team gid) (thrOf s r).mode all mm) ∧
    (regOf (thrOf s r) o.g.gr.toNat).full = true ∧ (regOf (thrOf s r) o.g.gr.toNat).poison = false ∧
    (guardBit (thrOf s r) o.g = true → missing o (thrOf s r) = [])) ∧
  (∀ l ∈ parts, atLane p gid l ∈ p.refs ∨ (arrivedAt (thrOf s (atLane p gid l)) p.pc).isSome = true) ∧
  present = parts.filter (guardAt o s p gid) ∧
  ∀ l ∈ present, stepSeven o (isUser (teamOf s p.team)) (thrOf s (atLane p gid l)) = none

/-- The rendezvous is done: every participant is READY at the next instruction, those present with the effect `eff`; apart from the
threads, and the watchdog timers of the arrivals (R376), the state is `base`. -/
def Met (base t : State) (s : State) (p : Packet) (gid : Nat) (parts present : List Nat) (eff : Nat → Thread → Thread) : Prop :=
  (∀ l ∈ parts, thrOf t (atLane p gid l) =
    stepped (thrClock s (atLane p gid l)) p.next (if l ∈ present then eff l (thrOf s (atLane p gid l)) else thrOf s (atLane p gid l))) ∧
  (∀ k, (∀ l ∈ parts, k ≠ thrKey (atLane p gid l)) → tget t.threads k = tget s.threads k) ∧
  t = { base with threads := t.threads, timers := t.timers }

/-- The state once every participant has arrived: threads of the packet wait, and watchdog timers run; nothing else has changed. -/
def Gathered (s u : State) (p : Packet) (gid : Nat) (parts : List Nat) : Prop :=
  u = { s with threads := u.threads, timers := u.timers } ∧
  (∀ l ∈ parts, ∃ st i, thrOf u (atLane p gid l) = { thrOf s (atLane p gid l) with stat := st, idleSince := i }) ∧
  ∀ k, (∀ l ∈ parts, k ≠ thrKey (atLane p gid l)) → tget u.threads k = tget s.threads k

/-- The state in which a rendezvous executes: every thread of the packet has arrived at it. -/
def gathered (o : Opnds) (all : Bool) (mm : LaneMask) (s : State) (p : Packet) : State :=
  (p.refs.foldl (fun acc t => arrive o p all mm t acc) (s, [])).1

/-- Every participant goes on to the next instruction. -/
def goOn (p : Packet) (gid : Nat) (parts : List Nat) (s : State) : State :=
  parts.foldl (fun s l => advance s (atLane p gid l) p.next) s

end Sys2Proof.Machine
end

