-- ==== Sys2Proof/Certificates/Slice0/Obligations.lean ====
section
/-! DEFINITION. The statements for the provers, and the words they are written in. A claim that an obligation joins with others
stands before it as a definition of its own, whose name ends in Claim. -/

open Sys2Proof Sys2Proof.Machine

/-! ## Class 0: the integer forms (R146 to R152) -/

/-- A value of 32 bits as a form of one register gives it. -/
def Sys2Proof.word (x : Word32) : Word64 := x.setWidth 64

/-- R146: sums and products are exact, then wrapped, or with SAT clamped to the signed range, or the unsigned one with `.U`;
`.HI` is the high half of the product, `.WIDE` all of it; R147: no flag, no fault. -/
def Obligations.integer_sums_and_products : Prop := ∀ f : Alu,
  WritesValue (.iadd f) (wUse f) f (fun s r =>
    let a := opA (wUse f) f s r; let b := opB (wUse f) f s r; let w := wWidth f
    if f.sat then clamped w (mdU f) (numOf w (mdU f) a + numOf w (mdU f) b) else if mdW f then a + b else word (lo32 a + lo32 b)) ∧
  WritesValue (.isub f) (wUse f) f (fun s r =>
    let a := opA (wUse f) f s r; let b := opB (wUse f) f s r; let w := wWidth f
    if f.sat then clamped w (mdU f) (numOf w (mdU f) a - numOf w (mdU f) b) else if mdW f then a - b else word (lo32 a - lo32 b)) ∧
  (let u : AluUse := { kd := if mdW f then 2 else 1 }
   WritesValue (.imul f) u f (fun s r =>
    let a := lo32 (opA u f s r); let b := lo32 (opB u f s r)
    if mdW f then extended (mdU f) a * extended (mdU f) b
    else if mdHi f then word (hi32 (extended (mdU f) a * extended (mdU f) b))
    else if f.sat then clamped 32 (mdU f) (numOf 32 (mdU f) (word a) * numOf 32 (mdU f) (word b)) else word (a * b))) ∧
  (let u : AluUse := { kc := 1, kd := if mdW f then 2 else 1 }
   WritesValue (.imad f) u f (fun s r =>
    let a := lo32 (opA u f s r); let b := lo32 (opB u f s r); let c := lo32 (opC u f s r)
    if mdW f then extended (mdU f) a * extended (mdU f) b + extended (mdU f) c
    else if f.sat then
      clamped 32 (mdU f) (numOf 32 (mdU f) (word a) * numOf 32 (mdU f) (word b) + numOf 32 (mdU f) (word c))
    else word (a * b + c))) ∧
  WritesValue (.iabs f) { kb := 0 } f (fun s r =>
    let a := lo32 (opA { kb := 0 } f s r)
    if f.sat then clamped 32 false (a.toInt.natAbs : Int) else if a.msb then word (0#32 - a) else word a) ∧
  WritesValue (.ineg f) { kb := 0 } f (fun s r =>
    let a := lo32 (opA { kb := 0 } f s r)
    if f.sat then clamped 32 false (-a.toInt) else word (0#32 - a))

/-- R146: selection, the lesser and the greater value, the bitwise forms; R150: bit i of `LUT3` is the bit of the table that the
bits i of a, c and the old destination name. -/
def Obligations.integer_select_and_logic : Prop := ∀ f : Alu,
  WritesValue (.sel f) { kc := 1 } f (fun s r =>
    if (lo32 (opC { kc := 1 } f s r) = 0#32) = (mdU f = true) then opA { kc := 1 } f s r else opB { kc := 1 } f s r) ∧
  WritesValue (.imin f) {} f (fun s r =>
    let a := lo32 (opA {} f s r); let b := lo32 (opB {} f s r)
    word (if (if mdU f then a.ult b else a.slt b) then a else b)) ∧
  WritesValue (.imax f) {} f (fun s r =>
    let a := lo32 (opA {} f s r); let b := lo32 (opB {} f s r)
    word (if (if mdU f then a.ult b else a.slt b) then b else a)) ∧
  WritesValue (.and f) (wUse f) f (fun s r => opA (wUse f) f s r &&& opB (wUse f) f s r) ∧
  WritesValue (.or f) (wUse f) f (fun s r => opA (wUse f) f s r ||| opB (wUse f) f s r) ∧
  WritesValue (.xor f) (wUse f) f (fun s r => opA (wUse f) f s r ^^^ opB (wUse f) f s r) ∧
  WritesValue (.not f) { kb := 0 } f (fun s r => word (~~~lo32 (opA { kb := 0 } f s r))) ∧
  (let u : AluUse := { kb := 0, kc := 1, old := true }
   ∃ v : State → ThrRef → Word32, WritesValue (.lut3 f) u f (fun s r => word (v s r)) ∧
    ∀ s r imm, f.ext.immOf = some imm → ∀ i, i < 32 →
      (v s r).getLsbD i = imm.getLsbD (b2n ((opA u f s r).getLsbD i) + 2 * b2n ((opC u f s r).getLsbD i)
        + 4 * b2n ((regVal (thrOf s r) f.dst.toNat).getLsbD i)))

/-- R146: shifts take b as an unsigned amount, and an amount of the width or more gives 0, or the sign fill with `.S`; R149: the
field of `BFE` and `BFI` is bits pos to min(pos + len, 32) − 1, pos = b<7:0>, len = b<15:8>; `BREV` sends bit i to bit 31 − i. -/
def Obligations.integer_shifts_and_fields : Prop := ∀ f : Alu,
  WritesValue (.shl f) (wUse f) f (fun s r =>
    let a := opA (wUse f) f s r; let b := lo32 (opB (wUse f) f s r)
    if mdW f then a <<< b else word (lo32 a <<< b)) ∧
  WritesValue (.shr f) (wUse f) f (fun s r =>
    let a := opA (wUse f) f s r; let b := lo32 (opB (wUse f) f s r)
    if mdW f then (if mdU f then a.sshiftRight' b else a >>> b)
    else word (if mdU f then (lo32 a).sshiftRight' b else lo32 a >>> b)) ∧
  WritesValue (.rotl f) {} f (fun s r => word ((lo32 (opA {} f s r)).rotateLeft ((lo32 (opB {} f s r)).toNat % 32))) ∧
  (∃ v : State → ThrRef → Word32, WritesValue (.bfe f) {} f (fun s r => word (v s r)) ∧ ∀ s r i, i < 32 →
    let a := lo32 (opA {} f s r); let pos := (opB {} f s r).toNat % 256; let len := (opB {} f s r).toNat / 256 % 256
    let stop := min (pos + len) 32
    (v s r).getLsbD i =
      if len = 0 ∨ 32 ≤ pos then false else if pos + i < stop then a.getLsbD (pos + i) else mdU f && a.getLsbD (stop - 1)) ∧
  (∃ v : State → ThrRef → Word32, WritesValue (.bfi f) { kc := 1 } f (fun s r => word (v s r)) ∧ ∀ s r i, i < 32 →
    let u : AluUse := { kc := 1 }
    let a := lo32 (opA u f s r); let pos := (opB u f s r).toNat % 256; let len := (opB u f s r).toNat / 256 % 256
    (v s r).getLsbD i = if pos ≤ i ∧ i < min (pos + len) 32 then a.getLsbD (i - pos) else (opC u f s r).getLsbD i) ∧
  (∃ v : State → ThrRef → Word32, WritesValue (.brev f) { kb := 0 } f (fun s r => word (v s r)) ∧
    ∀ s r i, i < 32 → (v s r).getLsbD i = (opA { kb := 0 } f s r).getLsbD (31 - i))

/-- The condition of `CMP` under a code (R151). -/
def Sys2Proof.Compares (md : Nat) (a b : Word32) : Prop :=
  [a.toInt = b.toInt, a.toInt ≠ b.toInt, a.toInt < b.toInt, b.toInt ≤ a.toInt, a.toNat < b.toNat, b.toNat ≤ a.toNat,
    a.toInt ≤ b.toInt, b.toInt < a.toInt].getD md False

/-- The bit that a bit reference names (R151). -/
def Sys2Proof.bitAt (s : State) (r : ThrRef) (x : BitVec 10) : Bool := (regVal (thrOf s r) (x.toNat % 32)).getLsbD (x.toNat / 32)

/-- The operation of `BOP` under a code, at the two bits (R151). -/
def Sys2Proof.bitOp (md : Nat) (a b : Bool) : Bool :=
  [a && b, a || b, xor a b, a && !b, a || !b, !(a && b), !(a || b), !(xor a b)].getD md false

/-- R145, R146: `NOP`, the moves, the counts and `BSEL`; R151: `CMP` and `BOP` write one bit; R152: `LEA`. -/
def Sys2Proof.integerMovesCountsAndBitsClaim : Prop := ∀ f : Alu,
  WritesValue (.nop f) { ka := 0, kb := 0, kd := 0 } f (fun _ _ => 0#64) ∧
  (let k := if f.md = 1#3 then 2 else 1
   let ua : AluUse := { ka := k, kb := 0, kd := k }
   let ub : AluUse := { ka := 0, kb := k, kd := k }
   (f.ext.immOf = none → WritesValue (.mov f) ua f (opA ua f)) ∧
   ∀ imm, f.ext.immOf = some imm →
    WritesValue (.mov f) ub f (fun _ _ => if f.md = 1#3 then imm.signExtend 64 else imm.setWidth 64)) ∧
  (∀ (g : Guard) (dst : BitVec 10) (imm : Word64) s p,
    let o : Opnds := { g := g, dsts := [dst.toNat, dst.toNat + 1] }
    Runs o s p → ∃ t, exec (.movImm64 g dst imm) s = .next t ∧
      Passed s t p o (fun _ th => putPair th dst.toNat imm) (fun _ => p.next)) ∧
  WritesValue (.popc f) { kb := 0 } f (fun s r =>
    BitVec.ofNat 64 ((List.range 32).countP (fun i => (opA { kb := 0 } f s r).getLsbD i))) ∧
  (∃ n : State → ThrRef → Nat, WritesValue (.clz f) { kb := 0 } f (fun s r => BitVec.ofNat 64 (n s r)) ∧ ∀ s r,
    let a := lo32 (opA { kb := 0 } f s r)
    n s r ≤ 32 ∧ (a = 0#32 → n s r = 32) ∧ (∀ i, 32 - n s r ≤ i → a.getLsbD i = false) ∧
      (a ≠ 0#32 → a.getLsbD (31 - n s r) = true)) ∧
  (let u : AluUse := { kc := 1 }
   WritesValue (.bsel f) u f (fun s r => word
    (bselVal (lo32 (opA u f s r)) (lo32 (opB u f s r)) (if f.ext.pfxOf.isSome then lo32 (opC u f s r) else 0#32)))) ∧
  (∃ v : State → ThrRef → Bool, WritesValue (.cmp f) { kbit := 1 } f (fun s r => BitVec.ofNat 64 (b2n (v s r))) ∧
    ∀ s r, v s r = true ↔ Compares f.md.toNat (lo32 (opA { kbit := 1 } f s r)) (lo32 (opB { kbit := 1 } f s r))) ∧
  (∀ s p, let u : AluUse := { ka := 0, kb := 0, kbit := 1 }
    let o : Opnds := { aluOpnds u f with srcs := [(f.sa.toNat % 32, f.ta), (f.sb.toNat % 32, f.tb)] }
    Runs o s p → ∃ t, exec (.bop f) s = .next t ∧ Passed s t p o
      (fun r => writes u f (BitVec.ofNat 64 (b2n (bitOp f.md.toNat (bitAt s r f.sa) (bitAt s r f.sb))))) (fun _ => p.next)) ∧
  WritesValue (.lea f) { ka := 2, kd := 2 } f (fun s r =>
    opA { ka := 2, kd := 2 } f s r
      + ((lo32 (opB { ka := 2, kd := 2 } f s r)).signExtend 64 <<< f.md.toNat))

/-- R149: the byte selector, by the manual's three uses: the byte order reversed, the low half sign-extended, byte 0 reversed. -/
def Sys2Proof.bselBytesClaim : Prop := ∀ a c : Word32,
  bselVal a 0x00010203#32 c = byteOf a 0 ++ byteOf a 1 ++ byteOf a 2 ++ byteOf a 3 ∧
  bselVal a 0x11110100#32 c = (a.setWidth 16).signExtend 32 ∧
  bselVal a 0x00000008#32 c = byteOf a 0 ++ byteOf a 0 ++ byteOf a 0 ++ (byteOf a 0).reverse ∧
  bselVal a 0x20401704#32 c = ~~~byteOf a 0 ++ 0#8 ++ (if (byteOf c 3).msb then 0xFF#8 else 0#8) ++ byteOf c 0

/-- R148: the quotient rounds toward zero and the remainder has the dividend's sign; b = 0 gives all ones and a, and the most
negative number over −1 gives itself and 0; the results come 20 core clocks later, and no flag is raised. -/
def Sys2Proof.integerDivisionClaim : Prop := ∀ f : Alu,
  Launches (.idiv f) {} f false (fun _ _ => 20) (fun th a b =>
    { val := word (if lo32 b = 0#32 then 0xFFFFFFFF#32 else if mdU f then lo32 a / lo32 b else (lo32 a).sdiv (lo32 b)),
      rng := th.rng }) ∧
  Launches (.irem f) {} f false (fun _ _ => 20) (fun th a b =>
    { val := word (if lo32 b = 0#32 then lo32 a else if mdU f then lo32 a % lo32 b else (lo32 a).srem (lo32 b)),
      rng := th.rng })

/-- R89, R123: the generator step, a 64-bit state that is never 0 after a step. -/
def Sys2Proof.stepOf (x : Word64) : Word64 :=
  let x := if x = 0#64 then 0x9E3779B97F4A7C15#64 else x
  let x := x ^^^ (x >>> 12)
  let x := x ^^^ (x <<< 25)
  x ^^^ (x >>> 27)

/-- The output of a state that a step has left. -/
def Sys2Proof.outOf (x : Word64) : Word32 := hi32 (x * 0x2545F4914F6CDD1D#64)

/-- R122, R123: one step for each value; `.F` is u >> 8 times 2^−24 as FP32; `.W` gives the first value low and the second high;
RNGSEED sets the state, and `.MIX` mixes b in. -/
def Obligations.generator_forms : Prop := ∀ f : Alu,
  WritesRounded (.rng f) { ka := 0, kb := 0 } f (fun th _ _ _ => { val := word (outOf (stepOf th.rng)), rng := stepOf th.rng }) ∧
  (∃ v : Word32 → Word32, WritesRounded (.rngF f) { ka := 0, kb := 0 } f (fun th _ _ _ =>
      { val := word (v (outOf (stepOf th.rng))), rng := stepOf th.rng }) ∧
    ∀ u, ∃ m e, fp32.read (v u).toNat = .fin false m e ∧ -149 ≤ e ∧ m * 2 ^ (e + 149).toNat = u.toNat / 256 * 2 ^ 125) ∧
  WritesRounded (.rngW f) { ka := 0, kb := 0, kd := 2 } f (fun th _ _ _ =>
    { val := cat32 (outOf (stepOf (stepOf th.rng))) (outOf (stepOf th.rng)), rng := stepOf (stepOf th.rng) }) ∧
  WritesRounded (.rngseed f) { ka := 2, kb := 0, kd := 0 } f (fun _ a _ _ => { val := 0#64, rng := a }) ∧
  WritesRounded (.rngseedMix f) { ka := 2, kd := 0 } f (fun _ a b _ =>
    { val := 0#64, rng := fmix64 (a ^^^ (word (lo32 b) * 0x9E3779B97F4A7C15#64)) })

def Obligations.integer_moves_bits_and_bytes : Prop := integerMovesCountsAndBitsClaim ∧ bselBytesClaim

/-! ## Class 1 and the conversions (R153 to R162) -/

/-- The rounding code of a form (R41): RM, or the default of `%fpc`. -/
def Sys2Proof.modeOf (f : Alu) (th : Thread) : Nat := if f.rm = 0#3 then (th.fpc.toNat / 2 ^ 10) % 8 else f.rm.toNat

/-- FTZ (R94, R138). -/
def Sys2Proof.ftzOf (th : Thread) : Bool := th.fpc.getLsbD 13

/-- The generator after the step that a rounding takes: SR, code 6, takes one (R89). -/
def Sys2Proof.afterRounding (rc : Nat) (g : Word64) : Word64 := if rc = 6 then stepOf g else g

/-- An FP32 result: the exact result of a form on its inputs, rounded once (R154). -/
def Sys2Proof.roundedOnce (f : Alu) (h : Nat → FVal → FVal → FVal → FRes) (th : Thread) (a b c : Word64) : AluOut :=
  let rc := modeOf f th
  let rd := fun (x : Word64) => fp32.readFtz (ftzOf th) (lo32 x).toNat
  let g := afterRounding rc th.rng
  let r := fp32.finish rc f.sat (ftzOf th) (outOf g).toNat 0#5 (h rc (rd a) (rd b) (rd c))
  { val := BitVec.ofNat 64 r.1, flags := r.2, rng := g }

/-- R153, R154, R158: the FP32 forms round the exact result once under RM or the default; the flags it raises are ORed into
`%fpc`, and where none of them is enabled to trap the result is written. -/
def Sys2Proof.floatRoundingFormsClaim : Prop := ∀ f : Alu,
  WritesRounded (.fadd f) {} f (roundedOnce f (fun rc a b _ => addRes rc a b)) ∧
  WritesRounded (.fsub f) {} f (roundedOnce f (fun rc a b _ => addRes rc a (negate b))) ∧
  WritesRounded (.fmul f) {} f (roundedOnce f (fun _ a b _ => mulRes a b)) ∧
  WritesRounded (.ffma f) { kc := 1 } f (roundedOnce f (fun rc a b c => sumProds rc [a, b, c] [(a, b)] (some c))) ∧
  WritesRounded (.fscale f) {} f (fun th a b c => roundedOnce f (fun _ x _ _ => scaleRes x (lo32 b).toInt) th a a c) ∧
  WritesRounded (.frnd f) { kb := 0 } f (frndOp f) ∧
  WritesRounded (.fdot2 f) { kc := 1 } f (dotOp f)

/-- R154, R155: the special cases of the sums, products and quotients of FP32: 0 × ∞ and ∞ − ∞ and 0/0 and ∞/∞ give the canonical
NaN with NV, a finite value other than 0 over 0 gives a signed infinity with DZ, zeros of one sign add to that zero, and values that
cancel give +0, or −0 under RD (code 4). -/
def Sys2Proof.floatSpecialCasesClaim : Prop := ∀ (rc u : Nat) (ftz : Bool),
  let out := fp32.finish rc false ftz u 0#5
  (∀ p n n', out (mulRes (.fin n 0 p) (.inf n')) = (0x7FC00000, 16#5) ∧ out (mulRes (.inf n') (.fin n 0 p)) = (0x7FC00000, 16#5)) ∧
  (∀ n, out (addRes rc (.inf n) (.inf (!n))) = (0x7FC00000, 16#5)) ∧
  (∀ n n' p q, out (divRes (.fin n 0 p) (.fin n' 0 q)) = (0x7FC00000, 16#5) ∧ out (divRes (.inf n) (.inf n')) = (0x7FC00000, 16#5)) ∧
  (∀ n m p n' q, m ≠ 0 → out (divRes (.fin n m p) (.fin n' 0 q)) = (if n = n' then 0x7F800000 else 0xFF800000, 8#5)) ∧
  (∀ n p q, out (addRes rc (.fin n 0 p) (.fin n 0 q)) = (if n then 0x80000000 else 0, 0#5)) ∧
  (∀ n m p, m ≠ 0 → out (addRes rc (.fin n m p) (negate (.fin n m p))) = (if rc = 4 then 0x80000000 else 0, 0#5)) ∧
  ∀ v, out (addRes rc (.nan false) v) = (0x7FC00000, if v = .nan true then 16#5 else 0#5) ∧
    out (addRes rc (.nan true) v) = (0x7FC00000, 16#5)

/-- Two 16-bit elements in the format of MOD<0> (R153, R159): the flags of both are ORed, and under SR the generator steps twice,
element 0 first. -/
def Sys2Proof.roundedPair (f : Alu) (h : Nat → FVal → FVal → FVal → FRes) (th : Thread) (a b c : Word64) : AluOut :=
  let F := if f.md.getLsbD 0 then bf16 else fp16
  let el := fun (x : Word64) (i : Nat) => F.readFtz (ftzOf th) (x.toNat / 2 ^ (16 * i) % 2 ^ 16)
  let rc := modeOf f th
  let g0 := afterRounding rc th.rng
  let g1 := afterRounding rc g0
  let one := fun (i : Nat) (g : Word64) =>
    F.finish rc f.sat (ftzOf th) (outOf g).toNat 0#5 (h rc (el a i) (el b i) (el c i))
  let r0 := one 0 g0
  let r1 := one 1 g1
  { val := BitVec.ofNat 64 (r0.1 + 2 ^ 16 * r1.1), flags := r0.2 ||| r1.2, rng := g1 }

/-- R153, R155, R159: the packed forms act on each element, in FP16 or with `.BF` in BF16. -/
def Sys2Proof.floatPackedFormsClaim : Prop := ∀ f : Alu,
  WritesRounded (.hadd2 f) {} f (roundedPair f (fun rc a b _ => addRes rc a b)) ∧
  WritesRounded (.hmul2 f) {} f (roundedPair f (fun _ a b _ => mulRes a b)) ∧
  WritesRounded (.hfma2 f) { kc := 1 } f (roundedPair f (fun rc a b c => sumProds rc [a, b, c] [(a, b)] (some c))) ∧
  WritesRounded (.hmin2 f) {} f (pick2Op f false) ∧ WritesRounded (.hmax2 f) {} f (pick2Op f true)

/-- R155: with one NaN the other input is the result, with two the canonical NaN; −0 is below +0; only a signalling NaN raises a
flag, and it is NV. -/
def Sys2Proof.floatMinimumAndMaximumClaim : Prop :=
  (∀ f, WritesRounded (.fmin f) {} f (pickOp false) ∧ WritesRounded (.fmax f) {} f (pickOp true)) ∧
  ∀ (mx ftz : Bool) (x : Nat), x < 2 ^ 32 → isNan (fp32.read x) = false →
    (ftz = false → (fp32.pick ftz mx 0x7FC00000 x) = (x, 0#5) ∧ (fp32.pick ftz mx x 0x7FC00000) = (x, 0#5) ∧
      (fp32.pick ftz mx 0x7F800001 x) = (x, 16#5)) ∧
    fp32.pick ftz mx 0x7FC00000 0x7FC00001 = (0x7FC00000, 0#5) ∧
    fp32.pick ftz false 0x80000000 0 = (0x80000000, 0#5) ∧ fp32.pick ftz true 0 0x80000000 = (0, 0#5)

/-- The condition of `FCMP` under a code on two numbers, by their order (R156). -/
def Sys2Proof.Ordered (code : Nat) (lt eq un : Bool) : Bool :=
  [!un && eq, un || !eq, !un && lt, !un && (lt || eq), !un && !lt && !eq, !un && !lt, un, !un].getD code false

/-- The class of an FP32 code as a bit number (R157). -/
def Sys2Proof.classOf (x : Nat) : Nat :=
  let m := x % 2 ^ 31
  if 0x7F800000 < m then (if m < 0x7FC00000 then 8 else 9)
  else if x < 2 ^ 31 then (if m = 0 then 4 else if m < 0x800000 then 5 else if m < 0x7F800000 then 6 else 7)
  else if m = 0 then 3 else if m < 0x800000 then 2 else if m < 0x7F800000 then 1 else 0

/-- The numbers of a 16-bit element as `HCMP2` reads them (R156), in FP16 or with `.BF` in BF16. -/
def Sys2Proof.packedNum (f : Alu) (th : Thread) (x : Word64) (i : Nat) : FVal :=
  (if f.md.getLsbD 0 then bf16 else fp16).readFtz (ftzOf th) (x.toNat / 2 ^ (16 * i) % 2 ^ 16)

/-- A comparison of two numbers under a code, and the flag it raises (R156). -/
def Sys2Proof.compared (code : Nat) (x y : FVal) : Bool × FpFlags :=
  let un := isNan x || isNan y
  (Ordered code (ltVal x y) (!ltVal x y && !ltVal y x) un,
    if (un = true ∧ 2 ≤ code ∧ code ≤ 5) ∨ x = .nan true ∨ y = .nan true then 16#5 else 0#5)

/-- R156, R157, R161, R162: comparisons write bits, `FCLASS` a mask with one bit set and no flag, the conversions their values;
R92: a conversion of an integer rounds once and never overflows. -/
def Sys2Proof.floatTestsAndConversionsClaim : Prop := ∀ f : Alu,
  WritesRounded (.fcmp f) { kbit := 1 } f (fun th a b _ =>
    let r := compared f.md.toNat (fp32.readFtz (ftzOf th) (lo32 a).toNat) (fp32.readFtz (ftzOf th) (lo32 b).toNat)
    { val := BitVec.ofNat 64 (b2n r.1), flags := r.2, rng := th.rng }) ∧
  WritesRounded (.hcmp2 f) { kbit := 2 } f (fun th a b _ =>
    let r := fun i => compared (f.md.toNat / 2) (packedNum f th a i) (packedNum f th b i)
    { val := BitVec.ofNat 64 (b2n (r 0).1 + 2 * b2n (r 1).1), flags := (r 0).2 ||| (r 1).2, rng := th.rng }) ∧
  (∃ k : State → ThrRef → Nat, WritesValue (.fclass f) { kb := 0 } f (fun s r => BitVec.ofNat 64 (2 ^ k s r)) ∧
    ∀ s r, k s r = classOf (lo32 (opA { kb := 0 } f s r)).toNat) ∧
  WritesRounded (.cvt f) { kb := 0 } f (cvtOp f) ∧
  (∀ th a b c, cvtSrc f = 0x0B → cvtDst f = 0x0B →
    (f.md.getLsbD 0 = f.md.getLsbD 1 → (cvtOp f th a b c).val = word (lo32 a)) ∧
    (f.md.getLsbD 0 ≠ f.md.getLsbD 1 →
      (cvtOp f th a b c).val = word (lo32 (clamped 32 (f.md.getLsbD 1) (numOf 32 (f.md.getLsbD 0) a)))) ∧
    (cvtOp f th a b c).flags = 0#5) ∧
  (∀ th a b c D, cvtSrc f = 0x0B → cvtF (cvtDst f) = some D →
    let rc := modeOf f th
    let r := D.finish rc f.sat (ftzOf th) (outOf (afterRounding rc th.rng)).toNat 0#5 (intRes (int32 (f.md.getLsbD 0) a))
    (cvtOp f th a b c).flags &&& 4#5 = 0#5 ∧
    (r.2 &&& 4#5 = 0#5 → (cvtOp f th a b c).val = BitVec.ofNat 64 r.1 ∧ (cvtOp f th a b c).flags = r.2) ∧
    (r.2 &&& 4#5 ≠ 0#5 → (cvtOp f th a b c).flags = 1#5)) ∧
  (∀ th a b c, cvtSrc f = 0x00 → cvtDst f = 0x0B →
    (isNan (fp32.read (lo32 a).toNat) = true → (cvtOp f th a b c).val = 0#64 ∧ (cvtOp f th a b c).flags = 16#5) ∧
    (fp32.read (lo32 a).toNat = .inf false → (cvtOp f th a b c).flags = 16#5 ∧
      (cvtOp f th a b c).val = if f.md.getLsbD 1 then 0xFFFFFFFF#64 else 0x7FFFFFFF#64)) ∧
  WritesRounded (.pack f) {} f (packOp f) ∧
  (∀ th a b c, f.md = 2#3 ∨ f.md = 3#3 → (packOp f th a b c).flags = 0#5 ∧ ∀ i, i < 2 →
    BitVec.ofNat 16 ((packOp f th a b c).val.toNat / 2 ^ (16 * i)) =
      (clamped 16 (f.md == 3#3) (lo32 (if i = 0 then a else b)).toInt).setWidth 16) ∧
  WritesRounded (.unpack f) { kb := 0, kd := 2 } f (unpackOp f) ∧
  ∀ th a b c, f.md = 2#3 ∨ f.md = 3#3 → (unpackOp f th a b c).flags = 0#5 ∧ ∀ i, i < 2 →
    BitVec.ofNat 32 ((unpackOp f th a b c).val.toNat / 2 ^ (32 * i)) =
      (let x : Half := BitVec.ofNat 16 (a.toNat / 2 ^ (16 * i)); if f.md = 2#3 then x.signExtend 32 else x.setWidth 32)

/-- Where none of its threads has a trap enabled, a form of classes 0 to 2 answers a next state: every thread of the packet stands
READY at the next instruction, and memory is as it was. -/
def Sys2Proof.CompletesUntrapped (i : Instr) (u : AluUse) (f : Alu) : Prop := ∀ s p, Runs (aluOpnds u f) s p →
  (∀ r ∈ p.refs, fpcTraps (thrOf s r).fpc = 0#5) →
  ∃ t, exec i s = .next t ∧ (∀ r ∈ p.refs, (thrOf t r).stat = .ready ∧ (thrOf t r).pc = p.next) ∧ t.mem = s.mem

/-- R95: with no trap enabled, each floating form, conversion and generator form that completes at issue answers a next state. -/
def Sys2Proof.untrappedFormsCompleteClaim : Prop := ∀ f : Alu,
  CompletesUntrapped (.fmin f) {} f ∧ CompletesUntrapped (.fmax f) {} f ∧ CompletesUntrapped (.fcmp f) { kbit := 1 } f ∧
  CompletesUntrapped (.fclass f) { kb := 0 } f ∧ CompletesUntrapped (.hcmp2 f) { kbit := 2 } f ∧
  CompletesUntrapped (.cvt f) { kb := 0 } f ∧ CompletesUntrapped (.pack f) {} f ∧
  CompletesUntrapped (.unpack f) { kb := 0, kd := 2 } f ∧
  CompletesUntrapped (.fadd f) {} f ∧ CompletesUntrapped (.fsub f) {} f ∧ CompletesUntrapped (.fmul f) {} f ∧
  CompletesUntrapped (.ffma f) { kc := 1 } f ∧ CompletesUntrapped (.fscale f) {} f ∧ CompletesUntrapped (.frnd f) { kb := 0 } f ∧
  CompletesUntrapped (.fdot2 f) { kc := 1 } f ∧ CompletesUntrapped (.hadd2 f) {} f ∧ CompletesUntrapped (.hmul2 f) {} f ∧
  CompletesUntrapped (.hfma2 f) { kc := 1 } f ∧ CompletesUntrapped (.hmin2 f) {} f ∧ CompletesUntrapped (.hmax2 f) {} f ∧
  CompletesUntrapped (.rng f) { ka := 0, kb := 0 } f ∧ CompletesUntrapped (.rngF f) { ka := 0, kb := 0 } f ∧
  CompletesUntrapped (.rngW f) { ka := 0, kb := 0, kd := 2 } f ∧ CompletesUntrapped (.rngseed f) { ka := 2, kb := 0, kd := 0 } f ∧
  CompletesUntrapped (.rngseedMix f) { ka := 2, kd := 0 } f

/-- The clock in which a special function gives its result (R129): the threads of a packet pass in groups of 8. -/
def Sys2Proof.passClock (p : Packet) (r : ThrRef) : Nat := p.thrs.findIdx (fun x => x.2 == r.lane) / 8 + 8

/-- R129, R130, R160: `FDIV` and `SQRT` give their results after 12 core clocks, the special functions after 8 and one more for each
earlier group of 8 threads; the special functions round under RNE. -/
def Sys2Proof.asynchronousFloatFormsClaim : Prop := ∀ f : Alu,
  let special := fun (h : FVal → FRes) (th : Thread) (a _b : Word64) =>
    let r := fp32.finish 1 false (ftzOf th) 0 0#5 (h (fp32.readFtz (ftzOf th) (lo32 a).toNat))
    ({ val := BitVec.ofNat 64 r.1, flags := r.2, rng := th.rng } : AluOut)
  Launches (.fdiv f) {} f true (fun _ _ => 12) (fun th a b => roundedOnce f (fun _ x y _ => divRes x y) th a b 0#64) ∧
  Launches (.sqrt f) { kb := 0 } f true (fun _ _ => 12) (fun th a b => roundedOnce f (fun _ x _ _ => sqrtRes x) th a b 0#64) ∧
  Launches (.rcp f) { kb := 0 } f true passClock (special rcpRes) ∧ Launches (.rsq f) { kb := 0 } f true passClock (special rsqRes) ∧
  Launches (.ex2 f) { kb := 0 } f true passClock (special ex2Res) ∧ Launches (.lg2 f) { kb := 0 } f true passClock (special lg2Res) ∧
  Launches (.sin f) { kb := 0 } f true passClock (special sinRes) ∧ Launches (.cos f) { kb := 0 } f true passClock (special cosRes) ∧
  Launches (.tanh f) { kb := 0 } f true passClock (special tanhRes)

/-- R129: when the result of an asynchronous form comes, its register is full and not poisoned and its flags are ORed into `%fpc`;
a thread that waited for it is READY; a return to a thread that has exited writes nothing (R165). While the quad stands in a
ratio stop or the registers of the thread move (R19, R133) the return is held. -/
def Obligations.asynchronous_results_arrive : Prop := ∀ (s : State) (id : Nat) (a : Async), tget s.asyncs id = some a →
  let stop := (quadOf s (coreQuad (thrCore s a.thr))).stopUntil
  let moves := (thrOf s a.thr).res = .movingOut ∨ (thrOf s a.thr).res = .recalling
  (stop = none → ¬ moves → (thrOf s a.thr).stat ≠ .exited →
    ∃ t, exec (.asyncResultWrite id) s = .next t ∧ tget t.asyncs id = none ∧
      (a.dst ≠ 0 → regOf (thrOf t a.thr) a.dst = { val := a.val, full := true, poison := false }) ∧
      (thrOf t a.thr).fpc = (thrOf s a.thr).fpc ||| a.flags.setWidth 32 ∧
      ((thrOf s a.thr).stat = .waiting .result → (thrOf t a.thr).stat = .ready) ∧
      (∀ n, n ≠ a.dst → regOf (thrOf t a.thr) n = regOf (thrOf s a.thr) n) ∧
      ∀ k, k ≠ thrKey a.thr → tget t.threads k = tget s.threads k) ∧
  (stop = none → ¬ moves → (thrOf s a.thr).stat = .exited →
    ∃ t, exec (.asyncResultWrite id) s = .next t ∧ t.threads = s.threads ∧ t.asyncs = tdel id s.asyncs ∧ t.mem = s.mem) ∧
  (stop ≠ none → ∃ t, exec (.asyncResultWrite id) s = .next t ∧ t = { s with quads := t.quads } ∧
    (quadOf t (coreQuad (thrCore s a.thr))).heldReturns = (quadOf s (coreQuad (thrCore s a.thr))).heldReturns ++ [id]) ∧
  (stop = none → moves → ∃ t, exec (.asyncResultWrite id) s = .next t ∧ t = { s with threads := t.threads } ∧
    thrOf t a.thr = { thrOf s a.thr with held := (thrOf s a.thr).held ++ [id] } ∧
    ∀ k, k ≠ thrKey a.thr → tget t.threads k = tget s.threads k)

def Obligations.float_arithmetic : Prop := floatRoundingFormsClaim ∧ floatSpecialCasesClaim ∧ floatPackedFormsClaim

/-- What an INT32 beyond the range of FP16 becomes, and that CVT takes any RM and SAT, are the model's choices (log entries 64 and
65), and so is when CVT steps the generator (log entry 43). -/
def Obligations.float_selection_tests_and_conversions : Prop := floatMinimumAndMaximumClaim ∧ floatTestsAndConversionsClaim ∧ untrappedFormsCompleteClaim

def Obligations.asynchronous_forms_are_launched : Prop := integerDivisionClaim ∧ asynchronousFloatFormsClaim

/-! ## Control transfer and the special registers (R137 to R143, R163 to R165) -/

/-- R163, R164: a branch goes to its target, and a call writes the address after it to `v2:v3` first; the target is the address plus
E1, or a pair, or an s register. A target whose two low bits are 0 is taken. -/
def Obligations.branches_and_calls : Prop := ∀ (b : Base) (e1 : Word32) (s : State) (p : Packet),
  let rel := p.pc + e1.signExtend 64
  let abs := fun (r : ThrRef) => if b.md = 1#4 then thrSreg s r b.sa.toNat else pairVal (thrOf s r) b.sa.toNat
  let used := if b.md = 1#4 then [] else [(b.sa.toNat, b.ta), (b.sa.toNat + 1, b.ta)]
  let plain : Opnds := { g := b.g }
  let calls : Opnds := { g := b.g, dsts := [2, 3] }
  let near : Opnds := { g := b.g, srcs := used }
  let far : Opnds := { g := b.g, srcs := used, dsts := [2, 3] }
  let link := fun (_ : ThrRef) (th : Thread) => putPair th 2 p.next
  (Runs plain s p → rel.toNat % 4 = 0 →
    ∃ t, exec (.bra b e1) s = .next t ∧ Passed s t p plain (fun _ th => th) (fun _ => rel)) ∧
  (Runs calls s p → rel.toNat % 4 = 0 →
    ∃ t, exec (.call b e1) s = .next t ∧ Passed s t p calls link (fun _ => rel)) ∧
  (Runs near s p → (∀ r ∈ p.refs, (abs r).toNat % 4 = 0) →
    (∃ t, exec (.brx b) s = .next t ∧ Passed s t p near (fun _ th => th) abs) ∧
    ∃ t, exec (.ret b) s = .next t ∧ Passed s t p near (fun _ th => th) abs) ∧
  (Runs far s p → (∀ r ∈ p.refs, (abs r).toNat % 4 = 0) →
    ∃ t, exec (.callx b) s = .next t ∧ Passed s t p far link abs)

/-- R137 to R143: `RDSR` gives the value of the special register, in a pair where it is 64 bits wide. -/
def Sys2Proof.specialRegisterReadsClaim : Prop :=
  (∀ (b : Base) (s : State) (p : Packet),
    let wide := srWidth b.sa.toNat = some 64
    let o : Opnds := { g := b.g, dsts := if b.dst = 0#10 then [] else if wide then [b.dst.toNat, b.dst.toNat + 1] else [b.dst.toNat] }
    Runs o s p → ∃ t, exec (.rdsr b) s = .next t ∧ Passed s t p o (fun r th =>
      if wide then putPair th b.dst.toNat (srRead s r b.sa.toNat) else putReg th b.dst.toNat (lo32 (srRead s r b.sa.toNat)))
      (fun _ => p.next)) ∧
  ∀ (s : State) (r : ThrRef),
    let th := thrOf s r
    let tm := teamOf s r.team
    let g := grpOf s r.team r.gid
    let q := quadOf s (coreQuad tm.core)
    srRead s r 0x000 = BitVec.ofNat 64 (r.gid * 32 + r.lane) ∧ srRead s r 0x001 = BitVec.ofNat 64 r.lane ∧
    srRead s r 0x002 = BitVec.ofNat 64 r.gid ∧ srRead s r 0x003 = BitVec.ofNat 64 tm.index ∧
    srRead s r 0x004 = BitVec.ofNat 64 tm.clx ∧ srRead s r 0x005 = BitVec.ofNat 64 tm.cly ∧
    srRead s r 0x006 = BitVec.ofNat 64 tm.core ∧ srRead s r 0x007 = BitVec.ofNat 64 (coreQuad tm.core) ∧
    srRead s r 0x008 = BitVec.ofNat 64 (coreTower tm.core) ∧ srRead s r 0x010 = g.exm.setWidth 64 ∧
    srRead s r 0x011 = g.live.setWidth 64 ∧ srRead s r 0x020 = th.fpc.setWidth 64 ∧ srRead s r 0x021 = th.rng ∧
    (∀ k, k < 8 → srRead s r (0x030 + k) = (tgetD (ctxOf s tm.ctx).seeds k 0#32).setWidth 64) ∧
    (∀ k, 1 ≤ k → k ≤ 6 → srRead s r (0x040 + k) = (leaseOf (ctxOf s tm.ctx) k).setWidth 64) ∧
    srRead s r 0x050 = th.trapcode.setWidth 64 ∧ srRead s r 0x051 = th.trappc ∧ srRead s r 0x052 = th.trapaddr ∧
    (q.gated = false → q.stopUntil = none → q.clkSince ≤ s.now →
      srRead s r 0x060 = BitVec.ofNat 64 (q.clkBase + (s.now - q.clkSince) / period q)) ∧
    (q.gated = true ∨ q.stopUntil ≠ none → srRead s r 0x060 = BitVec.ofNat 64 q.clkBase) ∧
    srRead s r 0x061 = BitVec.ofNat 64 (s.now / 3024) ∧
    srRead s r 0x062 = (if q.pass.toNat = 0 then 1#64 else if q.pass.toNat = 1 then 2#64 else 4#64) ∧
    srRead s r 0x063 = BitVec.ofNat 64 tm.rampslot ∧ srRead s r 0x064 = q.ballast ∧
    srRead s r 0x065 = (if th.linklost then 1#64 else 0#64)

/-- R139, R141, R143: `WRSR` sets `%fpc`, whose reserved bits stay 0 and whose rounding field stores 001 for 000 and 111; `%rng`;
a seed of the context; a lease of the context, where 0 stores 1. Nothing else of the thread but its PC changes. -/
def Sys2Proof.specialRegisterWritesClaim : Prop := ∀ (b : Base) (s : State) (p : Packet) (r : ThrRef),
  let n := b.dst.toNat
  let wide := srWidth n = some 64
  let o : Opnds := { g := b.g, srcs := if b.md = 1#4 then [] else if wide then [(b.sa.toNat, b.ta), (b.sa.toNat + 1, b.ta)]
    else [(b.sa.toNat, b.ta)] }
  let v : Word64 := if b.md = 1#4 then thrSreg s r b.sa.toNat else if wide then pairVal (thrOf s r) b.sa.toNat
    else word (regVal (thrOf s r) b.sa.toNat)
  Alone o s p r → ∃ t, exec (.wrsr b) s = .next t ∧ (thrOf t r).pc = p.next ∧ (thrOf t r).v = (thrOf s r).v ∧
    t.mem = s.mem ∧ t.groups = s.groups ∧
    (n = 0x020 → (thrOf t r).fpc.toNat / 2 ^ 14 = 0 ∧
      (thrOf t r).fpc.toNat / 2 ^ 10 % 8 = (let m := v.toNat / 2 ^ 10 % 8; if m = 0 ∨ m = 7 then 1 else m) ∧
      (thrOf t r).fpc.toNat % 2 ^ 10 = v.toNat % 2 ^ 10 ∧ (thrOf t r).fpc.getLsbD 13 = v.getLsbD 13) ∧
    (n ≠ 0x020 → (thrOf t r).fpc = (thrOf s r).fpc) ∧
    (thrOf t r).rng = (if n = 0x021 then v else (thrOf s r).rng) ∧
    (∀ k, k < 8 → n = 0x030 + k → tgetD (ctxOf t (thrCtx s r)).seeds k 0#32 = lo32 v) ∧
    (∀ k, 1 ≤ k → k ≤ 6 → n = 0x040 + k →
      leaseOf (ctxOf t (thrCtx s r)) k = if v.setWidth 16 = 0#16 then 1#16 else v.setWidth 16)

/-- R165, R167: `EXIT` makes the thread EXITED, in the operation `exitThread`, and its bit of `%live` clears at once, here where others of its
group live on; when the last return has arrived its slot is freed, and with the last of a group's slots the group's. -/
def Sys2Proof.exitAndSlotClaim : Prop :=
  (∀ (b : Base) (s : State) (p : Packet) (r : ThrRef), Alone { g := b.g } s p r → exec (.exit b) s = .next (exitThread s r)) ∧
  (∀ (b : Base) (s : State) (p : Packet) (r : ThrRef), Alone { g := b.g } s p r → (thrOf s r).linklost = false →
    (grpOf s r.team r.gid).live &&& ~~~(1#32 <<< r.lane) ≠ 0#32 → ∃ t, exec (.exit b) s = .next t ∧
      (thrOf t r).stat = .exited ∧ (grpOf t r.team r.gid).live = (grpOf s r.team r.gid).live &&& ~~~(1#32 <<< r.lane) ∧
      (thrOf t r).v = (thrOf s r).v ∧ t.mem = s.mem) ∧
  (∀ (b : Base) (s : State) (p : Packet), Runs { g := b.g } s p → (∀ r ∈ p.refs, skips { g := b.g } s r = true) →
    ∃ t, exec (.exit b) s = .next t ∧ Passed s t p { g := b.g } (fun _ th => th) (fun _ => p.next)) ∧
  ∀ (s : State) (r : ThrRef), (thrOf s r).stat = .exited → returnsOut s r = false →
    (∀ e ∈ s.asyncs, e.2.thr ≠ r) →
    ∃ t, exec (.threadSlotFree r) s = .next t ∧ tget t.threads (thrKey r) = none ∧
      (∀ k, k ≠ thrKey r → tget t.threads k = tget s.threads k) ∧
      ((grpOf s r.team r.gid).state = .exited →
        (∀ e ∈ s.threads, e.1 / 32 = grpKey r.team r.gid → e.1 = thrKey r) → tget t.groups (grpKey r.team r.gid) = none)

/-- R339: outside a pre-emption request `SAFEPT` only moves on. Under one, a thread in mode NORMAL whose registers are full, in a
team whose commands have drained, enters the save routine of its safe point. -/
def Sys2Proof.safePointsClaim : Prop := ∀ (b : Base) (e1 : Word32) (s : State) (p : Packet),
  (Runs { g := b.g } s p → (∀ r ∈ p.refs, (teamOf s r.team).state ≠ .saving ∨ (thrOf s r).mode ≠ .normal) →
    ∃ t, exec (.safept b e1) s = .next t ∧ Passed s t p { g := b.g } (fun _ th => th) (fun _ => p.next)) ∧
  ∀ r sp, Alone { g := b.g } s p r → (teamOf s r.team).state = .saving → (thrOf s r).mode = .normal →
    e1.toNat < (teamOf s r.team).hdr.nsp → tget (teamOf s r.team).hdr.safepts e1.toNat = some sp →
    p.pc = (teamOf s r.team).hdr.addr + BitVec.ofNat 64 sp.pc → (thrOf s r).stat = .ready →
    (thrOf s r).v.all (fun e => e.2.full) = true → drained s r.team = true →
    ∃ t, exec (.safept b e1) s = .next t ∧ (thrOf t r).mode = .save ∧ (thrOf t r).stat = .ready ∧
      (thrOf t r).pc = (teamOf s r.team).hdr.addr + BitVec.ofNat 64 sp.save ∧ (thrOf t r).resume = BitVec.ofNat 8 e1.toNat ∧
      (thrOf t r).v = (thrOf s r).v

/-! ## The group (R170 to R193) -/

/-- What a lane holds for a form of one or two registers. -/
def Sys2Proof.laneWord (s : State) (p : Packet) (gid n : Nat) (wide : Bool) (l : Nat) : Word64 :=
  if wide then pairVal (thrOf s (atLane p gid l)) n else word (regVal (thrOf s (atLane p gid l)) n)

/-- The write of one or two registers. -/
def Sys2Proof.putWord (dst : Nat) (wide : Bool) (v : Word64) (th : Thread) : Thread :=
  if wide then putPair th dst v else putReg th dst (lo32 v)

/-- The mask of a list of lanes, bit by bit. -/
def Sys2Proof.IsMask (m : Word32) (ls : List Nat) : Prop := ∀ l, l < 32 → m.getLsbD l = ls.contains l

/-- R181: a lane receives the value of lane b mod 32 (`.IDX`), l + b mod 32 (`.ROT`), l + b within the group (`.EDGE`), or l xor
b (`.BFLY`), and keeps its own where that lane is not present. R182: `VOTE` and R183: `PEERS` over the present lanes. -/
def Obligations.lane_exchange_and_votes : Prop := ∀ (b : Base) (mm : Option Word32) (s : State) (p : Packet) (gid : Nat)
    (parts present : List Nat),
  let m := mm.getD 0xFFFFFFFF#32
  (let w := b.md.getLsbD 2
   let o := baseOpnds b (if w then 2 else 1) (if b.md.getLsbD 3 then 0 else 1) (if w then 2 else 1)
   let edge := b.md.toNat % 4 = 2
   let v := fun (l : Nat) => regVal (thrOf s (atLane p gid l)) b.sb.toNat
   let bOf : Nat → Int := fun l => if b.md.getLsbD 3 then (if edge then (b.sb.setWidth 6).toInt else (b.sb.toNat % 32 : Nat))
     else if edge then (v l).toInt else ((v l).toNat : Int)
   let to' : Nat → Int := fun l => match b.md.toNat % 4 with
     | 0 => bOf l % 32
     | 1 => ((l : Int) + bOf l) % 32
     | 2 => (l : Int) + bOf l
     | _ => ((l ^^^ (bOf l % 32).toNat : Nat) : Int)
   let from' : Nat → Nat := fun l => if 0 ≤ to' l ∧ (to' l).toNat ∈ present ∧ to' l ≤ 31 then (to' l).toNat else l
   Meeting o false m s p gid parts present →
    ∃ t, exec (.xlane b mm) s = .next t ∧ Met s t s p gid parts present (fun l =>
      putWord b.dst.toNat w (laneWord s p gid b.sa.toNat w (from' l)))) ∧
  (let o : Opnds := { g := b.g, srcs := [(b.sa.toNat % 32, b.ta)], dsts := [b.dst.toNat] }
   let yes := present.filter (fun l => bitAt s (atLane p gid l) b.sa)
   Meeting o false m s p gid parts present →
    ∃ t v, exec (.vote b mm) s = .next t ∧ Met s t s p gid parts present (fun _ th => putReg th b.dst.toNat v) ∧
      (b.md = 0#4 → v = if yes = [] then 0#32 else 0xFFFFFFFF#32) ∧
      (b.md = 1#4 → v = if yes = present then 0xFFFFFFFF#32 else 0#32) ∧
      (b.md = 2#4 → IsMask v yes) ∧ (b.md = 3#4 → v.toNat = yes.length)) ∧
  (let w := b.md.getLsbD 2
   let same := fun (l : Nat) => present.filter (fun k => laneWord s p gid b.sa.toNat w k == laneWord s p gid b.sa.toNat w l)
   Meeting (baseOpnds b (if w then 2 else 1) 0 1) false m s p gid parts present →
    ∃ t, ∃ v : Nat → Word32, exec (.peers b mm) s = .next t ∧
      Met s t s p gid parts present (fun l th => putReg th b.dst.toNat (v l)) ∧ ∀ l ∈ present,
        (b.md.toNat % 4 = 0 → IsMask (v l) (same l)) ∧
        (b.md.toNat % 4 = 1 → if same l = present then IsMask (v l) present else v l = 0#32) ∧
        (b.md.toNat % 4 = 2 → (same l).head? = some (v l).toNat) ∧
        (b.md.toNat % 4 = 3 → (v l).toNat = (same l).length))

/-- R184, R185: `GRED` gives every present lane the reduction of the present values, and a scan the reduction of those of the lower
lanes, with its own unless `.EX`; the sums are modulo 2^32. -/
def Sys2Proof.groupReductionsClaim : Prop := ∀ (b : Base) (mm : Option Word32) (s : State) (p : Packet) (gid : Nat)
    (parts present : List Nat),
  let m := mm.getD 0xFFFFFFFF#32
  let v := fun (l : Nat) => regVal (thrOf s (atLane p gid l)) b.sa.toNat
  Meeting (baseOpnds b 1 0 1) false m s p gid parts present →
   (b.md.toNat < 8 → ∃ t, exec (.gred b mm) s = .next t ∧ Met s t s p gid parts present (fun _ th =>
      putReg th b.dst.toNat ((present.map v).foldl (intRed b.md.toNat) (intIdentity b.md.toNat)))) ∧
   (8 ≤ b.md.toNat → ∃ t, exec (.gred b mm) s = .next t ∧ Met s t s p gid parts present (fun _ th =>
      { putReg th b.dst.toNat (gredVal b.md.toNat (present.map v)).1 with
        fpc := th.fpc ||| (gredVal b.md.toNat (present.map v)).2.setWidth 32 })) ∧
   (b.md = 0#4 → ∃ t, exec (.gred b mm) s = .next t ∧ Met s t s p gid parts present (fun _ th =>
      putReg th b.dst.toNat (BitVec.ofNat 32 ((present.map (fun l => (v l).toNat)).sum)))) ∧
   ∃ t, exec (.scan b mm) s = .next t ∧ Met s t s p gid parts present (fun l th =>
      putReg th b.dst.toNat (((present.filter (fun k => if b.md.getLsbD 3 then decide (k < l) else decide (k ≤ l))).map v).foldl
        (intRed (b.md.toNat % 8)) (intIdentity (b.md.toNat % 8))))

/-- R186: `GSYNC` only meets, once no access of the group is in flight and no store of it has been lost (R420). -/
def Sys2Proof.groupSynchronizationClaim : Prop := ∀ (b : Base) (mm : Option Word32) (s : State) (p : Packet) (gid : Nat)
    (parts present : List Nat),
  Meeting { g := b.g } false (mm.getD 0xFFFFFFFF#32) s p gid parts present → (∀ l, l < 32 → reqsOf s (atLane p gid l) = [] ∧ (thrOf s (atLane p gid l)).linklost = false) →
    ∃ t, exec (.gsync b mm) s = .next t ∧ Met s t s p gid parts present (fun _ th => th)

/-- Operand b of an S-form: sB, or E1 extended with its sign (R188). -/
def Sys2Proof.sOperand (b : Base) (imm : Option Word32) (g : Group) : Word64 :=
  match imm with
  | some v => v.signExtend 64
  | none => sregOf g b.sb.toNat

/-- An S-form writes the value to sD once for the group. -/
def Sys2Proof.WritesSreg (i : Instr) (b : Base) (v : Group → Word64) : Prop :=
  ∀ s p gid parts present, Meeting { g := b.g } false 0xFFFFFFFF#32 s p gid parts present → present ≠ [] →
    ∃ t, exec i s = .next t ∧
      Met (modGrp s p.team gid (fun g => setSreg g b.dst.toNat (v (grpOf s p.team gid)))) t s p gid parts present (fun _ th => th)

/-- R188: the S-forms compute on 64 bits, modulo 2^64; a shift of 64 or more gives 0, or the sign fill; `SCMP` gives 1 or 0. -/
def Sys2Proof.uniformArithmeticClaim : Prop := ∀ (b : Base) (imm : Option Word32),
  let x := fun (g : Group) => sregOf g b.sa.toNat
  let y := fun (g : Group) => sOperand b imm g
  WritesSreg (.smov b imm) b y ∧ WritesSreg (.sadd b imm) b (fun g => x g + y g) ∧
  WritesSreg (.ssub b imm) b (fun g => x g - y g) ∧ WritesSreg (.smul b imm) b (fun g => x g * y g) ∧
  WritesSreg (.sand b imm) b (fun g => x g &&& y g) ∧ WritesSreg (.sor b imm) b (fun g => x g ||| y g) ∧
  WritesSreg (.sxor b imm) b (fun g => x g ^^^ y g) ∧ WritesSreg (.sshl b imm) b (fun g => x g <<< y g) ∧
  WritesSreg (.sshr b imm) b (fun g => if b.md.getLsbD 0 then (x g).sshiftRight' (y g) else x g >>> y g) ∧
  ∃ v : Group → Bool, WritesSreg (.scmp b imm) b (fun g => if v g then 1#64 else 0#64) ∧ ∀ g, v g = true ↔
    [(x g).toInt = (y g).toInt, (x g).toInt ≠ (y g).toInt, (x g).toInt < (y g).toInt, (y g).toInt ≤ (x g).toInt,
      (x g).toNat < (y g).toNat, (y g).toNat ≤ (x g).toNat, (x g).toInt ≤ (y g).toInt,
      (y g).toInt < (x g).toInt].getD (b.md.toNat % 8) False

/-- R189, R190: `S2V` reads the thread's group's s register; `V2S` writes sD from the lane that SB names, or with `.FIRST` from the
lowest present one, and nothing where that lane is absent. R187: a write of `%exm` sets the mask, and 0 makes the group HELD. -/
def Sys2Proof.uniformMovesClaim : Prop := ∀ (b : Base) (s : State) (p : Packet),
  (let o := baseOpnds b 0 0 (if b.md = 1#4 then 2 else 1)
   Runs o s p → ∃ t, exec (.s2v b) s = .next t ∧ Passed s t p o (fun r th =>
      if b.md = 1#4 then putPair th b.dst.toNat (thrSreg s r b.sa.toNat)
      else putReg th b.dst.toNat (if b.md = 2#4 then hi32 (thrSreg s r b.sa.toNat) else lo32 (thrSreg s r b.sa.toNat)))
      (fun _ => p.next)) ∧
  (∀ gid parts present l,
    let w := b.md.getLsbD 0
    let o : Opnds := { g := b.g, srcs := if w then [(b.sa.toNat, b.ta), (b.sa.toNat + 1, b.ta)] else [(b.sa.toNat, b.ta)] }
    Meeting o false 0xFFFFFFFF#32 s p gid parts present →
    (if b.md.getLsbD 1 then present.head? = some l else l = b.sb.toNat) →
    (l ∈ present → ∃ t, exec (.v2s b) s = .next t ∧
      Met (modGrp s p.team gid (fun g => setSreg g b.dst.toNat (laneWord s p gid b.sa.toNat w l))) t s p gid parts present
        (fun _ th => th)) ∧
    (l ∉ present → ∃ t, exec (.v2s b) s = .next t ∧ Met s t s p gid parts present (fun _ th => th))) ∧
  ∀ gid parts present l,
    let o : Opnds := { g := b.g, srcs := if b.md = 1#4 then [] else
      (List.range (if srWidth b.dst.toNat = some 64 then 2 else 1)).map (fun i => (b.sa.toNat + i, b.ta)) }
    let v : Word32 := if b.md = 1#4 then lo32 (sregOf (grpOf s p.team gid) b.sa.toNat)
      else regVal (thrOf s (atLane p gid l)) b.sa.toNat
    Meeting o true 0xFFFFFFFF#32 s p gid parts present → present.head? = some l →
    ∃ t, exec (.wrsrExm b) s = .next t ∧ (grpOf t p.team gid).exm = v ∧
      (grpOf t p.team gid).state = (if v = 0#32 then .held else .active)

def Obligations.special_registers : Prop := specialRegisterReadsClaim ∧ specialRegisterWritesClaim

/-- That a slot is freed when no return is outstanding is the model's reading (log entry 35). -/
def Obligations.exit_and_safe_points : Prop := exitAndSlotClaim ∧ safePointsClaim

def Obligations.group_reductions_and_synchronization : Prop := groupReductionsClaim ∧ groupSynchronizationClaim

def Obligations.uniform_forms : Prop := uniformArithmeticClaim ∧ uniformMovesClaim

/-! ## Memory (R191, R199 to R232) -/

/-- The checks 1 to 6 of R224 let the access of a thread through, at the place `x`, in the state `s'` that the translation leaves; no
ownership request of the core stands in its way, and the packet has issued no request yet. -/
def Sys2Proof.Reaches (s s' : State) (p : Packet) (r : ThrRef) (va : Word64) (width : Nat) (a : Acc) (x : Xl) : Prop :=
  checkGlobal s p.core (thrCtx s r) va width a = .ok x s' ∧ lineBusy s' p (x.pa / 128) = false ∧
  (thrOf s' r).mon ≠ .arming (x.pa / 128) ∧ thrOf s' r = thrOf s r ∧ s'.cur = s.cur ∧ s'.now = s.now ∧
  p.base ≤ s'.nextId ∧ ∀ e ∈ s'.reqs, e.1 < p.base

/-- The state in which the release of a thread has ended: its wait is over, and nothing else of the state is other. -/
def Sys2Proof.freed (s : State) (r : ThrRef) : State := modThr s r (fun th => { th with rel := none })

/-- The release of a thread has nothing to wait for, from the start or any more (R237). -/
def Sys2Proof.Freed (s : State) (r : ThrRef) (scope : Nat) (cover : Option (List (Nat × Nat))) : Prop :=
  release s r scope cover = .done (freed s r)

/-- The thread stands after the instruction: READY, or waiting for the acquire that the access carries (R237). -/
def Sys2Proof.WentOn (s t : State) (p : Packet) (r : ThrRef) (acquires : Bool) : Prop :=
  (thrOf t r).pc = p.next ∧ (thrOf t r).stat = (if acquires then .waiting .acquire else .ready) ∧ (thrOf t r).fpc = (thrOf s r).fpc

/-- The destination registers are empty, and the others as they were (R128). -/
def Sys2Proof.Emptied (s t : State) (r : ThrRef) (dst count : Nat) : Prop :=
  ∀ n, regOf (thrOf t r) n =
    if n ≠ 0 ∧ dst ≠ 0 ∧ dst ≤ n ∧ n < dst + count then { regOf (thrOf s r) n with full := false } else regOf (thrOf s r) n

/-- A request in flight holds one part of a thread. -/
def Sys2Proof.Asks (t : State) (id : Nat) (kind : ReqKind) (line aop : Nat) (r : ThrRef) (off width dst : Nat) (sx : Bool) (val nv : Nat) : Prop :=
  ∃ q, tget t.reqs id = some q ∧ q.id = id ∧ q.kind = kind ∧ q.line = line ∧ q.aop = aop ∧
    q.parts.map (fun y => (y.thr, y.off, y.width, y.dst, y.sx, y.val, y.nv)) = [(some r, off, width, dst, sx, val, nv)]

/-- The words of a load stand in L1 as its kind asks (R211, R213, R215, R216): owned by the core, or for one that does not ask for
ownership valid in a line without owned words, before their expiry. -/
def Sys2Proof.Hits (l : L1Line) (words : BitVec 32) (own : Prop) (now : Nat) : Prop :=
  words &&& ~~~l.own = 0#32 ∨ (¬own ∧ l.own = 0#32 ∧ words &&& ~~~l.valid = 0#32 ∧ ∀ e, l.expiry = some e → now < e)

/-- R211, R223, R225: a load whose line the core's L1 does not hold sends a request of its kind (`.SI` and `.WT` a read, `.OWN` an
ownership request, `.UC` and every access to a host-uncached page an uncached read), marks its destination empty and goes on; no
memory changes. One whose words L1 holds takes its value there, which returns after 8 core clocks (R216, R25). A prefetch that fails a
check, whose page is host-uncached or whose line is poisoned is dropped (R231, R222, R391); so is one to a page being moved or to a line
under an ownership request, by the model's choice (log entry 89). -/
def Sys2Proof.loadsAreSentClaim : Prop :=
  (∀ (b : Base) (m : MemWord) (disp : Option Word32) (s s' : State) (p : Packet) (r : ThrRef) (x : Xl),
    let va := effAddr s r b m disp
    let w := widthBytes m.width
    Alone (memOpnds b m 0 (widthRegs m.width)) s p r →
    Reaches s s' p r va w { read := true, strict := m.ty == 2#2, kind := 1 } x → l1Of s' p.core (x.pa / 128) = {} →
    ∃ t, exec (.ld b m disp) s = .next t ∧ WentOn s t p r (m.ord.getLsbD 0) ∧
      Emptied s t r b.dst.toNat (widthRegs m.width) ∧ t.mem = s'.mem ∧ t.groups = s'.groups ∧
      Asks t s'.nextId (if leafContract x.leaf = 4 ∨ m.ty = 3#2 then .uc else if m.ty = 2#2 then .own else .read)
        (x.pa / 128) 0 r (x.pa % 128) w b.dst.toNat m.sx 0 0) ∧
  (∀ (b : Base) (m : MemWord) (disp : Option Word32) (s s' : State) (p : Packet) (r : ThrRef) (x : Xl),
    let w := widthBytes m.width
    let l := l1Of s' p.core (x.pa / 128)
    Alone (memOpnds b m 0 (widthRegs m.width)) s p r →
    Reaches s s' p r (effAddr s r b m disp) w { read := true, strict := m.ty == 2#2, kind := 1 } x →
    leafContract x.leaf ≠ 4 → m.ty ≠ 3#2 → Hits l (wordMask (x.pa % 128) w) (m.ty = 2#2) s'.now →
    ∃ t q, exec (.ld b m disp) s = .next t ∧ WentOn s t p r (m.ord.getLsbD 0) ∧ Emptied s t r b.dst.toNat (widthRegs m.width) ∧
      t.mem = s'.mem ∧ tget t.reqs s'.nextId = some q ∧ q.performed = true ∧ q.dueClk = some (coreClock s' p.core + 8) ∧
      q.parts.map (fun y => (y.thr, y.width, y.dst, y.sx, y.got.map (·.1))) =
        [(some r, w, b.dst.toNat, m.sx, some (bufNat l.data (x.pa % 128) w))]) ∧
  ∀ (b : Base) (m : MemWord) (disp : Option Word32) (s : State) (p : Packet) (r : ThrRef),
    let check := checkGlobal s p.core (thrCtx s r) (effAddr s r b m disp) (widthBytes m.width) { read := true, kind := 1 }
    Alone (memOpnds b m 0 0) s p r →
    (∀ e ∈ s.reqs, e.1 < p.base) →
    (∀ k u, check = .held k u → exec (.pref b m disp) s = .next (advance s r p.next)) ∧
    (∀ x s', check = .ok x s' →
      leafContract x.leaf = 4 ∨ poisoned s' (x.pa / 128) (wordMask (x.pa % 128) (widthBytes m.width)) = true ∨
        lineBusy s' p (x.pa / 128) = true →
      exec (.pref b m disp) s = .next (advance s r p.next)) ∧
    (∀ f s', check = .fault f s' → f.code = fLINK_DOWN → exec (.pref b m disp) s = .next (advance s r p.next)) ∧
    ∀ f s', check = .fault f s' → f.code ≠ fLINK_DOWN → s'.cur = s.cur → (∀ e ∈ s'.reqs, e.1 < p.base) →
      exec (.pref b m disp) s = .next (advance s' r p.next)

/-- R231: a prefetch whose page is not host-uncached and whose line is neither poisoned nor held by the core's L1 sends a request that
returns nothing, and goes on. -/
def Sys2Proof.prefetchesAreSentClaim : Prop :=
  ∀ (b : Base) (m : MemWord) (disp : Option Word32) (s s' : State) (p : Packet) (r : ThrRef) (x : Xl),
    let w := widthBytes m.width
    Alone (memOpnds b m 0 0) s p r → Reaches s s' p r (effAddr s r b m disp) w { read := true, kind := 1 } x →
    l1Of s' p.core (x.pa / 128) = {} → leafContract x.leaf ≠ 4 → poisoned s' (x.pa / 128) (wordMask (x.pa % 128) w) = false →
    ∃ t q, exec (.pref b m disp) s = .next t ∧ WentOn s t p r false ∧ (thrOf t r).v = (thrOf s r).v ∧ t.mem = s'.mem ∧
      tget t.reqs s'.nextId = some q ∧ q.kind = .prefetch ∧ q.line = x.pa / 128 ∧ q.parts.map (·.thr) = [none] ∧
      q.aop = if m.ty = 2#2 then 2 else if m.ty = 3#2 then 3 else 0

/-- R44: the effective address is base plus offset, plus the signed index times the width, modulo 2^64. -/
def Sys2Proof.effectiveAddressesClaim : Prop := ∀ (s : State) (r : ThrRef) (b : Base) (m : MemWord) (disp : Option Word32),
  let base := if m.bs then thrSreg s r b.sa.toNat else pairVal (thrOf s r) b.sa.toNat
  let off : Int := match disp with | some d => d.toInt | none => m.off.toInt
  let index : Int := if m.ix then (regVal (thrOf s r) b.sb.toNat).toInt * (2 ^ m.width.toNat : Nat) else 0
  effAddr s r b m disp = BitVec.ofInt 64 (base.toNat + off + index)

/-- The bytes of a value that lie at `off` of a line, and the mask of them. -/
def Sys2Proof.LineBytes (d : Mem) (m : BitVec 128) (off width val : Nat) : Prop :=
  (∀ i, i < 128 → m.getLsbD i = decide (off ≤ i ∧ i < off + width)) ∧
  ∀ i, i < width → bufRead d (off + i) = BitVec.ofNat 8 (val / 2 ^ (8 * i))

/-- R211, R212, R226: a store whose line the core's L1 does not hold. As `.SI` with a lease it is written into L1, dirty, and nothing
is sent, where that has room; as `.WT`, `.UC`, or to a host-uncached page it is sent to the home with its bytes; as `.OWN` ownership is asked for. A
release comes first where the store carries one. R211 to R213: a store to a line that L1 holds. Into owned words it is written there,
dirty, and nothing is sent; so is an `.SI` store with a lease into a line without owned words, whose other bytes stay; a `.WT` store
there replaces the bytes of valid words, leaves them clean and goes to the home. -/
def Sys2Proof.storesToOtherLines : Prop :=
  ∀ (b : Base) (m : MemWord) (disp : Option Word32) (s s' : State) (p : Packet) (r : ThrRef) (x : Xl),
    let va := effAddr s r b m disp
    let w := widthBytes m.width
    let o : Opnds := { memOpnds b m (widthRegs m.width) 0 with dsts := [] }
    let val := regsNat (thrOf s r) b.dst.toNat (widthRegs m.width)
    let line := x.pa / 128
    let uc := leafContract x.leaf = 4 ∨ m.ty = 3#2
    let held := m.ty = 0#2 ∧ m.lease ≠ 0#3
    Alone o s p r → Reaches s s' p r va w { write := true, strict := m.ty == 2#2, kind := 2 } x → l1Of s' p.core line = {} →
    (m.ord = 2#2 → Freed s' r m.scope.toNat (lockCover s' r va)) →
    (held → (coreOf s' p.core).l1.length < 1024) →
    ∃ t, exec (.st b m disp) s = .next t ∧ WentOn s t p r false ∧ (thrOf t r).v = (thrOf s r).v ∧ t.mem = s'.mem ∧
      (¬uc → m.ty = 2#2 → Asks t s'.nextId .own line 1 r (x.pa % 128) w 0 false (val % 2 ^ (8 * w)) 0) ∧
      (¬uc → held → t.reqs = s'.reqs ∧ LineBytes (l1Of t p.core line).data (l1Of t p.core line).dirty (x.pa % 128) w val) ∧
      (uc ∨ (m.ty ≠ 2#2 ∧ ¬held) → Asks t s'.nextId .write line (if uc then 1 else 0) r (x.pa % 128) w 0 false (val % 2 ^ (8 * w)) 0 ∧
        ∃ q, tget t.reqs s'.nextId = some q ∧ LineBytes q.data q.mask (x.pa % 128) w val)

/-- A store to a line that the core's L1 holds. -/
def Sys2Proof.storesToHeldLines : Prop :=
  ∀ (b : Base) (m : MemWord) (disp : Option Word32) (s s' : State) (p : Packet) (r : ThrRef) (x : Xl),
    let w := widthBytes m.width
    let o : Opnds := { memOpnds b m (widthRegs m.width) 0 with dsts := [] }
    let val := regsNat (thrOf s r) b.dst.toNat (widthRegs m.width)
    let line := x.pa / 128
    let off := x.pa % 128
    let old := l1Of s' p.core line
    let words := wordMask off w
    let inOwn := words &&& ~~~old.own = 0#32
    Alone o s p r → Reaches s s' p r (effAddr s r b m disp) w { write := true, strict := m.ty == 2#2, kind := 2 } x → m.ord ≠ 2#2 →
    leafContract x.leaf ≠ 4 → m.ty ≠ 3#2 → (tget (coreOf s' p.core).l1 line).isSome = true →
    ∃ t, exec (.st b m disp) s = .next t ∧ WentOn s t p r false ∧ (thrOf t r).v = (thrOf s r).v ∧ t.mem = s'.mem ∧
      let new := l1Of t p.core line
      let written := (∀ i, bufRead new.data i = if off ≤ i ∧ i < off + w then BitVec.ofNat 8 (val / 2 ^ (8 * (i - off))) else bufRead old.data i) ∧
        (∀ i, i < 128 → new.dirty.getLsbD i = (old.dirty.getLsbD i || decide (off ≤ i ∧ i < off + w))) ∧ new.own = old.own ∧
        old.valid &&& ~~~new.valid = 0#32 ∧ ∀ i, tget t.reqs i = tget s'.reqs i
      (inOwn → written) ∧ (old.own = 0#32 → m.ty = 0#2 → m.lease ≠ 0#3 → written) ∧
      (old.own = 0#32 → m.ty = 1#2 → old.valid &&& words = words →
        (∀ i, bufRead new.data i = if off ≤ i ∧ i < off + w then BitVec.ofNat 8 (val / 2 ^ (8 * (i - off))) else bufRead old.data i) ∧
        (∀ i, i < 128 → new.dirty.getLsbD i = (old.dirty.getLsbD i && !decide (off ≤ i ∧ i < off + w))) ∧ new.valid = old.valid ∧
        Asks t s'.nextId .write line 0 r off w 0 false (val % 2 ^ (8 * w)) 0)

def Obligations.stores_are_sent : Prop := storesToOtherLines ∧ storesToHeldLines

/-- R228, R229: an atomic or reduction is sent to the home of its line with its operation and operands, b and for CAS the new value
after it; an atomic marks its destination empty. -/
def Obligations.atomics_are_sent : Prop :=
  ∀ (b : Base) (m : MemWord) (disp : Option Word32) (s s' : State) (p : Packet) (r : ThrRef) (x : Xl),
    let va := effAddr s r b m disp
    let w := widthBytes m.width
    let k := widthRegs m.width
    let line := x.pa / 128
    l1Of s' p.core line = {} → m.scope.toNat < 8 →
    (m.ord.getLsbD 1 = true → Freed s' r m.scope.toNat (lockCover s' r va)) →
    (Alone (atomOpnds b m) s p r → Reaches s s' p r va w { read := true, write := true, strict := true, kind := 3 } x →
      ∃ t, exec (.atom b m disp) s = .next t ∧ WentOn s t p r (m.ord.getLsbD 0) ∧ Emptied s t r b.dst.toNat k ∧ t.mem = s'.mem ∧
        Asks t s'.nextId .atomic line b.md.toNat r (x.pa % 128) w b.dst.toNat false (regsNat (thrOf s r) b.sb.toNat k)
          (regsNat (thrOf s r) (b.sb.toNat + k) k)) ∧
    (Alone { memOpnds b m k 0 with dsts := [] } s p r → m.ord ≠ 1#2 → m.ord ≠ 3#2 →
      Reaches s s' p r va w { write := true, strict := true, kind := 3 } x →
      ∃ t, exec (.red b m disp) s = .next t ∧ WentOn s t p r false ∧ (thrOf t r).v = (thrOf s r).v ∧ t.mem = s'.mem ∧
        Asks t s'.nextId .reduce line b.md.toNat r (x.pa % 128) w 0 false (regsNat (thrOf s r) b.dst.toNat k) 0)

/-- The access `q` of one of this device's cores is at its home: due, no earlier access of its core to the line before it (R234), the
modules on its way ACTIVE and with credits, its line not of another device, and no span over its words whose recall takes time. -/
def Sys2Proof.AtHome (s : State) (q : Req) (words : BitVec 32) : Prop :=
  tget s.reqs q.id = some q ∧ toServe q = true ∧ q.accepted = false ∧ servedAfter s q = false ∧ q.serve ≤ s.now ∧
  pathReady s (reqPath s q) (outChans q) (if answersAtOnce q then backChans q else []) = true ∧
  isFar s (q.line * 128) = false ∧ remoteSpans s q.line words (sparedBy q) = []

/-- The event of the message that a core sends for an access. -/
def Sys2Proof.OwnMsg (m : Msg) (q : Req) : Prop := onWire m = false ∧ m.tag = q.id ∧ localAgent m.src = true ∧ m.sub = q.core ∧ m.line = q.line

/-- R205, R213, R221, R229, R230, R235: an access at its home is performed by the operation of its kind, and what waits looks again; a
store to the host window that the endpoint has accepted (R233) reaches host memory. -/
def Sys2Proof.homesServeClaim : Prop := ∀ (s : State) (q : Req) (m : Msg),
  (q.kind = .write → AtHome s q (reqWords q) →
    exec (.homeWrite q.id) s = .next (servedNow (serveWrite (countIn (countOut s q) q) q))) ∧
  (q.kind = .write → tget s.reqs q.id = some q → q.out = false → q.accepted = true → q.serve ≤ s.now →
    exec (.homeWrite q.id) s = .next (servedNow (serveWrite s q))) ∧
  (OwnMsg m q →
    (q.kind = .read ∨ q.kind = .prefetch → AtHome s q (fetchWords s q) →
      exec (.readSiWt m) s = .next (servedNow (serveRead (countOut s q) q))) ∧
    (q.kind = .own ∨ q.kind = .prefetch → AtHome s q (coverRun (reqWords q)) →
      roomOf s q.line (coverRun (reqWords q)) (sparedBy q) = none →
      exec (.readOwn m) s = .next (servedNow (grantOwn (countOut s q) q))) ∧
    (q.kind = .uc ∨ q.kind = .prefetch → AtHome s q (reqWords q) →
      exec (.readUc m) s = .next (servedNow (serveUc (countOut s q) q))) ∧
    (q.kind = .writeBack → AtHome s q (maskWords q.mask) →
      exec (.writeBack m) s = .next (servedNow (serveWrite (countIn (countOut s q) q) q))) ∧
    (q.kind = .atomic → AtHome s q (reqWords q) → exec (.atomic m) s = .next (servedNow (serveAtomic (countOut s q) q))) ∧
    (q.kind = .reduce → AtHome s q (reqWords q) →
      exec (.reduce m) s = .next (servedNow (serveReduce (countIn (countOut s q) q) q))))

/-- No words of HBM of a W8 are owned, or one core of this device, not the one that asks, owns a run of words of the line that overlaps
the words asked for, with no write-back of it on its way. -/
def Sys2Proof.Owners (s : State) (q : Req) (words : BitVec 32) : Prop :=
  s.spans = [] ∨ ∃ x, s.spans = [x] ∧ x.line = q.line ∧ localAgent x.agent = true ∧ x.sub ≠ q.core ∧
    backsOut s x.sub x.line = [] ∧ x.words &&& words ≠ 0#32

/-- A byte of a line as its owner last wrote it: dirty in the owner's L1, or as the home holds it (R213). -/
def Sys2Proof.lastByte (s : State) (line i : Nat) : Byte :=
  match s.spans with
  | [x] =>
    let l := l1Of s x.sub x.line
    if x.line = line ∧ (l.dirty &&& bytesOf x.words).getLsbD i = true then bufRead l.data i else memRead s.mem (line * 128 + i)
  | _ => memRead s.mem (line * 128 + i)

/-- The number that bytes of a line hold. -/
def Sys2Proof.lastNat (s : State) (line off width : Nat) : Nat := leNat ((List.range width).map (fun i => lastByte s line (off + i)))

/-- R211 to R214, R221, R229, R230: what an access does at a home of HBM of a W8. The owner's span, where one lies on the line, ends, and
its dirty bytes are in memory. A read and an uncached read give every part its bytes, a read with what was dirty in the reader's L1 over
them, and leave no owner; an ownership request leaves the core the owner of the smallest run that covers its words, with the line's bytes
in its L1 and its own stores over them, dirty; a write leaves exactly its masked bytes, and a write-back that gives its span up leaves no
owner; an atomic on one part returns the old value and leaves the new one, and a reduction leaves the new one and returns nothing. -/
def Sys2Proof.homeEffectsClaim : Prop := ∀ (s : State) (q : Req), memWf s.mem = true →
  (∀ i, i < 128 → rangeOf (q.line * 128 + i) = .hbm) → s.t1 = false → (∀ y ∈ q.parts, y.off + y.width ≤ 128) →
  let seen := fun (t : State) => t.spans = [] ∧ (∀ i, i < 128 → memRead t.mem (q.line * 128 + i) = lastByte s q.line i) ∧
    ∀ a, a / 128 ≠ q.line → memRead t.mem a = memRead s.mem a
  (Owners s q (reqWords q) → seen (serveUc s q) ∧ ∃ z, tget (serveUc s q).reqs q.id = some z ∧ z.performed = true ∧
    z.parts = q.parts.map (fun y => { y with
      got := some (lastNat s q.line y.off y.width, poisoned s q.line (wordMask y.off y.width)) })) ∧
  (Owners s q (fetchWords s q) → seen (serveRead s q) ∧ ∃ z, tget (serveRead s q).reqs q.id = some z ∧ z.performed = true ∧
    z.parts = q.parts.map (fun y => { y with
      got := some (leNat ((List.range y.width).map (fun i =>
          if q.mask.getLsbD (y.off + i) = true then bufRead q.data (y.off + i) else lastByte s q.line (y.off + i))),
        poisoned s q.line (wordMask y.off y.width)) }) ∧
    z.fetched = (if q.lease ≠ none ∧ poisoned s q.line (fetchWords s q) = false then fetchWords s q else 0#32) ∧
    (z.fetched ≠ 0#32 → z.home = (List.range 128).map (lastByte s q.line))) ∧
  (let run := coverRun (reqWords q)
   let t := grantOwn s q
   Owners s q run → run ≠ 0#32 → (l1Of s q.core q.line).own = 0#32 →
    (∃ n, t.spans = [{ line := q.line, agent := coreAgent q.core, sub := q.core, words := run, seq := n }]) ∧
    (l1Of t q.core q.line).own = run ∧
    (∀ i, i < 128 → memRead t.mem (q.line * 128 + i) = lastByte s q.line i) ∧
    (q.aop ≠ 1 → (l1Of t q.core q.line).dirty = 0#128 ∧
      ∀ i, (bytesOf run).getLsbD i = true → bufRead (l1Of t q.core q.line).data i = lastByte s q.line i) ∧
    ∀ y, q.aop = 1 → q.parts = [y] → 0 < y.width →
      LineBytes (l1Of t q.core q.line).data (l1Of t q.core q.line).dirty y.off y.width y.val) ∧
  (let t := serveWrite s q
   (Owners s q (maskWords q.mask) → q.mask ≠ 0#128 → t.spans = [] ∧ (∀ a, a / 128 ≠ q.line → memRead t.mem a = memRead s.mem a) ∧
    ∀ i, i < 128 → memRead t.mem (q.line * 128 + i) = if q.mask.getLsbD i then bufRead q.data i else lastByte s q.line i) ∧
   ∀ n, q.kind = .writeBack → q.gives ≠ 0#32 →
    s.spans = [{ line := q.line, agent := coreAgent q.core, sub := q.core, words := q.gives, seq := n }] → t.spans = []) ∧
  ∀ y, q.parts = [y] → y.width = 4 ∨ y.width = 8 → poisoned s q.line 0xFFFFFFFF#32 = false → Owners s q (reqWords q) →
    let old := lastNat s q.line y.off y.width
    let new := (if q.aop = 9 ∧ old ≠ y.val then old else atomVal q.aop (8 * y.width) old y.val y.nv) % 2 ^ (8 * y.width)
    let left := fun (t : State) => t.spans = [] ∧ leNat (physRead t (q.line * 128 + y.off) y.width) = new ∧
      (∀ a, a / 128 ≠ q.line → memRead t.mem a = memRead s.mem a) ∧
      ∀ i, i < 128 → i < y.off ∨ y.off + y.width ≤ i → memRead t.mem (q.line * 128 + i) = lastByte s q.line i
    left (serveAtomic s q) ∧ left (serveReduce s q) ∧ tget (serveReduce s q).reqs q.id = none ∧
    (tget (serveAtomic s q).reqs q.id).map (fun z => z.parts.map (·.got)) = some [some (old, false)]

/-- R215, R225: when a load or atomic that is performed returns, the words that it fetched come into L1 under their lease from that time
on, the request ends and its register holds the value, extended under SX, and is full; then the acquires that wait for it run, and whatever waited for the access looks again. -/
def Obligations.loads_return : Prop :=
  (∀ (s : State) (q : Req) (y : Part) (r : ThrRef), tget s.reqs q.id = some q → q.performed = true →
    (∀ k, q.dueClk = some k → k ≤ coreClock s q.core) → (q.dueClk = none → q.due ≤ s.now) →
    q.kind = .read ∨ q.kind = .uc ∨ (q.kind = .atomic ∧ y.got ≠ none) → q.parts = [y] → y.thr = some r → y.sld = false →
    returnHeld s r = false →
    let far := q.serve ≠ 0 ∧ isFar s (q.line * 128) = false
    (far → pathReady s (reqPath s q) [] (backChans q) = true) →
    let s1 := if far then countIn s q else s
    exec (.loadReturn q.id) s =
      .next (checkExited (afterServe (runAcqs (writePart (landFill { s1 with reqs := tdel q.id s1.reqs } q) y r) q.id)) r)) ∧
  (∀ (s : State) (q : Req) (e : Option Nat), q.lease = some e → q.fetched ≠ 0#32 → q.nokeep = 0#32 → l1Of s q.core q.line = {} →
    (coreOf s q.core).l1.length < 1024 →
    (l1Of (landFill s q) q.core q.line).valid = q.fetched ∧
    (l1Of (landFill s q) q.core q.line).expiry = e.map (fun n => timeNs s * nsTicks + n)) ∧
  ∀ (s : State) (y : Part) (r : ThrRef) (raw : Nat) (bad : Bool), y.got = some (raw, bad) → (thrOf s r).stat = .ready →
    (y.width = 1 ∨ y.width = 2 ∨ y.width = 4 → y.dst ≠ 0 → regOf (thrOf (writePart s y r) r) y.dst =
      { val := BitVec.ofNat 32 (if y.sx ∧ y.width < 4 ∧ 2 ^ (8 * y.width - 1) ≤ raw then raw + 2 ^ 32 - 2 ^ (8 * y.width) else raw),
        full := true, poison := bad }) ∧
    (y.width = 8 ∨ y.width = 16 → ∀ i, i < y.width / 4 → y.dst ≠ 0 → regOf (thrOf (writePart s y r) r) (y.dst + i) =
      { val := BitVec.ofNat 32 (raw / 2 ^ (32 * i)), full := true, poison := bad }) ∧
    (∀ n, n < y.dst ∨ y.dst + (y.width + 3) / 4 ≤ n → regOf (thrOf (writePart s y r) r) n = regOf (thrOf s r) n) ∧
    (thrOf (writePart s y r) r).pc = (thrOf s r).pc ∧ (writePart s y r).mem = s.mem

/-- R199 to R201, R224 to R229: the buffers. `LDA` and `LDC` take the value at issue and return it after the latency; `STA` and `STC`
write it; `ATOMA` returns the old value and leaves the new one. -/
def Sys2Proof.bufferAccessesClaim : Prop :=
  ∀ (b : Base) (m : MemWord) (disp : Option Word32) (s : State) (p : Packet) (r : ThrRef) (k off : Nat),
    let a := effAddr s r b m disp
    let w := widthBytes m.width
    let n := widthRegs m.width
    let val := regsNat (thrOf s r) b.dst.toNat n
    let returns := fun (t : State) (v : Nat) => ∃ id q, s.nextId ≤ id ∧ tget t.reqs id = some q ∧
      q.performed = true ∧ q.parts.map (fun y => (y.thr, y.width, y.dst, y.got.map (·.1))) = [(some r, w, b.dst.toNat, some v)]
    let tile := a.toNat / 4096
    a.toNat % w = 0 → (m.ord.getLsbD 1 = true → Freed s r m.scope.toNat (some [])) →
    (abufAt s r.team a = some (k, off) →
      (Alone (memOpnds b m 0 n) s p r → ∃ t, exec (.lda b m disp) s = .next t ∧ WentOn s t p r (m.ord.getLsbD 0) ∧
        Emptied s t r b.dst.toNat n ∧ returns t (bufNat (teamOf s k).abuf off w) ∧ t.teams = s.teams ∧ t.mem = s.mem) ∧
      (Alone { memOpnds b m n 0 with dsts := [] } s p r → m.ord ≠ 3#2 → ∃ t, exec (.sta b m disp) s = .next t ∧
        (thrOf t r).pc = p.next ∧ t.mem = s.mem ∧
        ∀ i, bufRead (teamOf t k).abuf i =
          if off ≤ i ∧ i < off + w then BitVec.ofNat 8 (val / 2 ^ (8 * (i - off))) else bufRead (teamOf s k).abuf i) ∧
      (Alone (atomOpnds b m) s p r → abufBad s k off w = false → ∃ t, exec (.atoma b m disp) s = .next t ∧
        Emptied s t r b.dst.toNat n ∧ t.mem = s.mem ∧
        let old := bufNat (teamOf s k).abuf off w
        let arg := regsNat (thrOf s r) b.sb.toNat n
        returns t old ∧ (b.md = 0#4 → bufNat (teamOf t k).abuf off w = (old + arg) % 2 ^ (8 * w)) ∧
          (b.md = 8#4 → bufNat (teamOf t k).abuf off w = arg % 2 ^ (8 * w)))) ∧
    (a.toNat < 2 ^ 17 → tile < (teamOf s r.team).hdr.cbuf → a.toNat % 4096 / 128 = r.lane →
      (crowOf (teamOf s r.team) tile r.lane).out = 0 →
      (Alone (memOpnds b m 0 n) s p r → ∃ t, exec (.ldc b m disp) s = .next t ∧ WentOn s t p r (m.ord.getLsbD 0) ∧
        Emptied s t r b.dst.toNat n ∧ returns t (cbufNat (teamOf s r.team) (a.toNat / 4) (w / 4)) ∧ t.teams = s.teams) ∧
      (Alone { memOpnds b m n 0 with dsts := [] } s p r → m.ord ≠ 3#2 → 2 ≤ m.width.toNat → m.width.toNat ≤ 4 →
        ∃ t, exec (.stc b m disp) s = .next t ∧ WentOn s t p r false ∧ t.mem = s.mem ∧
        ∀ i, tgetD (teamOf t r.team).cbuf i 0#32 =
          if a.toNat / 4 ≤ i ∧ i < a.toNat / 4 + w / 4 then BitVec.ofNat 32 (val / 2 ^ (32 * (i - a.toNat / 4)))
          else tgetD (teamOf s r.team).cbuf i 0#32))

/-- A write-back of bytes of a line that the core's L1 holds: a request to the home with exactly those bytes. -/
def Sys2Proof.WritesBack (t : State) (id core line : Nat) (l : L1Line) (m : BitVec 128) (gives : BitVec 32) : Prop :=
  ∃ q, tget t.reqs id = some q ∧ q.kind = .writeBack ∧ q.core = core ∧ q.line = line ∧ q.mask = m ∧ q.gives = gives ∧
    q.performed = false ∧ ∀ i, i < 128 → m.getLsbD i = true → bufRead q.data i = bufRead l.data i

/-- R217, R232: with nothing dirty in the lines they act on and no span of the core there, `INVL` leaves none of those lines valid
and `WB` leaves them as they were; an eviction drops the line. R26, R212, R232: the dirty bytes of every line that they act on start
home, no longer dirty in L1, `INVL` drops the lines with them, and the thread waits until those write-backs are performed; an
eviction writes a dirty line back and drops it; R213: one of a line that the core owns gives the span back, with its dirty bytes
where it has some. Which line an address names in L1 is the model's reading (log entry 14). -/
def Obligations.cache_management : Prop :=
  (∀ (b : Base) (m : MemWord) (s : State) (p : Packet) (r : ThrRef),
    let s1 := rangeTouch s (thrCtx s r) (rangeNamed s r b m)
    let on := fun (l : Nat) => rangeHolds s1 (thrCtx s1 r) (rangeNamed s r b m) l = true
    Alone (rangeOpnds b m) s p r → (thrOf s r).rel = none → (thrOf s1 r).rel = none →
    (∀ l, on l → (l1Of s1 (thrCore s r) l).own = 0#32) → (∀ e ∈ s1.reqs, e.1 < s1.nextId ∧ e.2.kind ≠ .writeBack) →
    ((∀ l, on l → (l1Of s1 (thrCore s r) l).dirty = 0#128) →
      (∃ t, exec (.invl b m) s = .next t ∧ (thrOf t r).pc = p.next ∧ t.mem = s1.mem ∧
        ∀ l, on l → (l1Of t (thrCore s r) l).valid = 0#32) ∧
      ∃ t, exec (.wb b m) s = .next t ∧ (thrOf t r).pc = p.next ∧ t.mem = s1.mem ∧ t.cores = s1.cores) ∧
    ((∃ l, on l ∧ (l1Of s1 (thrCore s r) l).dirty ≠ 0#128) → (thrOf s1 r).pc = (thrOf s r).pc →
      let waits := fun (t : State) => (thrOf t r).stat = .waiting .release ∧ (thrOf t r).pc = (thrOf s r).pc ∧ t.mem = s1.mem ∧
        ∃ w, (thrOf t r).rel = some w ∧ ∀ l, on l → (l1Of s1 (thrCore s r) l).dirty ≠ 0#128 → ∃ id ∈ w.ids,
          WritesBack t id (thrCore s r) l (l1Of s1 (thrCore s r) l) (l1Of s1 (thrCore s r) l).dirty 0#32
      (∃ t, exec (.invl b m) s = .next t ∧ waits t ∧
        ∀ l, on l → (l1Of t (thrCore s r) l).valid = 0#32 ∧ (l1Of t (thrCore s r) l).dirty = 0#128) ∧
      ∃ t, exec (.wb b m) s = .next t ∧ waits t ∧
        ∀ l, on l → (l1Of t (thrCore s r) l).valid = (l1Of s1 (thrCore s r) l).valid ∧ (l1Of t (thrCore s r) l).dirty = 0#128)) ∧
  (∀ (b : Base) (m : MemWord) (s : State) (p : Packet) (r : ThrRef) (w : RelWait), Alone (rangeOpnds b m) s p r →
    (thrOf s r).rel = some w → idsDone s w.ids = true → let t := advance (freed s r) r p.next
    exec (.invl b m) s = .next t ∧ exec (.wb b m) s = .next t) ∧
  ∀ (s : State) (core line : Nat), let l := l1Of s core line
    (l.own = 0#32 → ∃ t, exec (.l1Eviction core line) s = .next t ∧ (l1Of t core line).valid = 0#32 ∧
      (l1Of t core line).dirty = 0#128 ∧ t.mem = s.mem ∧
      (l.dirty = 0#128 → t.reqs = s.reqs) ∧ (l.dirty ≠ 0#128 → WritesBack t s.nextId core line l l.dirty 0#32)) ∧
    ∀ n, isFar s (line * 128) = false → l.own ≠ 0#32 → backsOut s core line = [] →
      s.spans = [{ line := line, agent := coreAgent core, sub := core, words := l.own, seq := n }] →
      ∃ t, exec (.l1Eviction core line) s = .next t ∧ (l1Of t core line).own = 0#32 ∧ t.mem = s.mem ∧
        (l.dirty &&& bytesOf l.own = 0#128 → t.spans = []) ∧
        (l.dirty &&& bytesOf l.own ≠ 0#128 → t.spans = s.spans ∧
          WritesBack t s.nextId core line l (l.dirty &&& bytesOf l.own) l.own)

/-- The group's access has passed its checks, in the state `v` that its translation leaves: it need not wait for its line, the core's
L1 does not hold that, and nothing that the rendezvous stands on has changed since its threads arrived, in `u`. -/
def Sys2Proof.GroupReaches (u v : State) (p : Packet) (gid l : Nat) (parts : List Nat) (va : Word64) (a : Acc) (x : Xl) : Prop :=
  checkGlobal u p.core (teamOf u p.team).ctx va 8 a = .ok x v ∧ accessWaits v p (atLane p gid l) (x.pa / 128) = false ∧
  l1Of v p.core (x.pa / 128) = {} ∧ (∀ j ∈ parts, thrOf v (atLane p gid j) = thrOf u (atLane p gid j)) ∧ v.groups = u.groups ∧
  v.cur = u.cur ∧ v.now = u.now ∧ p.base ≤ v.nextId ∧ ∀ e ∈ v.reqs, e.1 < p.base

/-- R191: `SLD` asks for 8 bytes at sA + OFF once for its group, and the participants wait for it; `SRD` stores sB there, after the
releases of its participants where it carries one, here into a line that the core's L1 does not hold, and the participants go on. -/
def Sys2Proof.uniformMemoryClaim : Prop :=
  ∀ (b : Base) (m : MemWord) (s v : State) (p : Packet) (gid l : Nat) (parts present : List Nat) (x : Xl),
    let u := gathered { g := b.g } false 0xFFFFFFFF#32 s p
    let va := sregOf (grpOf s p.team gid) b.sa.toNat + m.off.signExtend 64
    let t := atLane p gid l
    Meeting { g := b.g } false 0xFFFFFFFF#32 s p gid parts present → present.head? = some l →
    (GroupReaches u v p gid l parts va { read := true, strict := m.ty == 2#2, kind := 1 } x →
      ∃ w id q, exec (.sld b m) s = .next w ∧ (grpOf w p.team gid).sld = some id ∧ tget w.reqs id = some q ∧
        q.parts.map (fun y => (y.thr, y.width, y.dst, y.sld)) = [(some t, 8, b.dst.toNat, true)] ∧
        ∀ j ∈ parts, (arrivedAt (thrOf w (atLane p gid j)) p.pc).isSome = true) ∧
    (GroupReaches u v p gid l parts va { write := true, strict := m.ty == 2#2, kind := 2 } x →
      ∀ v', (if m.ord = 2#2 then releaseLanes p gid m.scope.toNat (lockCover v t va) present v .done = .done v' else v' = v) →
      ∃ w, exec (.srd b m) s = .next w ∧ ∀ j ∈ parts, (thrOf w (atLane p gid j)).pc = p.next ∧ (thrOf w (atLane p gid j)).stat = .ready)

/-! ## Ordering (R235 to R251) -/

/-- R237, R248, R251: with every earlier access of the thread performed and returned, and nothing dirty in the core's L1 on the way, a fence,
`ACQ` and `REL` complete, and a release at SYSTEM scope waits for a flushing read of the host window first; an acquire at CLUSTER scope
or above leaves no SI or WT word of the set covered valid. Two points are the model's choice: which lines count as the set covered (log
entry 14), and that with the PCIe data link down a SYSTEM release makes no flushing read and completes (log entry 102). -/
def Sys2Proof.fencesAndAcquiresClaim : Prop := ∀ (b : Base) (s : State) (p : Packet) (r : ThrRef),
  let core := thrCore s r
  let obj := objectOf s r b.md.toNat b.sa.toNat
  let cover := some (boundTo (teamOf s r.team) b.md.toNat obj)
  Alone { g := b.g } s p r → reqsOf s r = [] → (thrOf s r).rel = none → (thrOf s r).linklost = false →
  (∀ l, (l1Of s core l).dirty = 0#128) → (∀ e ∈ s.reqs, e.2.kind ≠ .writeBack) →
  let plain := b.sb.toNat < 5 ∨ s.pcieUp = false
  ((b.md.getLsbD 1 = true → plain) → ∃ t, exec (.fence b) s = .next t ∧ WentOn s t p r false ∧ t.mem = s.mem ∧
    (b.md.getLsbD 0 = true → 1 ≤ b.sb.toNat → ∀ l ∈ coveredLines s core (thrCtx s r) none, (l1Of t core l).valid = 0#32)) ∧
  (∃ t, exec (.acq b) s = .next t ∧ WentOn s t p r false ∧ t.mem = s.mem ∧
    (1 ≤ b.sb.toNat → ∀ l ∈ coveredLines s core (thrCtx s r) cover, (l1Of t core l).valid = 0#32)) ∧
  (plain → ∃ t, exec (.rel b) s = .next t ∧ WentOn s t p r false ∧ t.mem = s.mem ∧ t.cores = s.cores) ∧
  (¬plain → ∃ t id q, exec (.rel b) s = .next t ∧ (thrOf t r).stat = .waiting .release ∧
    (thrOf t r).rel = some { ids := [id], flushed := true } ∧ tget t.reqs id = some q ∧ q.kind = .uc ∧ q.line = hostBase / 128)

/-- R238, R249, R250: `BIND` puts the region and object into the entry of the team's table, a length of 0 empties it; `UNBIND` empties one
entry or all. -/
def Sys2Proof.bindingsClaim : Prop := ∀ (b : Base) (s : State) (p : Packet) (r : ThrRef), Alone { g := b.g } s p r →
  (∀ e1 : Word32, let obj := objectOf s r b.md.toNat e1.toNat
    let base := thrSreg s r b.sa.toNat
    let len := thrSreg s r b.sb.toNat
    bindFault s r b.md.toNat base len obj = none → ∃ t, exec (.bind b e1) s = .next t ∧ WentOn s t p r false ∧
      tget (teamOf t r.team).binds b.dst.toNat = (if len = 0#64 then none
        else some { base := base.toNat, len := len.toNat, kind := BitVec.ofNat 3 b.md.toNat, obj := obj }) ∧
      ∀ i, i ≠ b.dst.toNat → tget (teamOf t r.team).binds i = tget (teamOf s r.team).binds i) ∧
  ∃ t, exec (.unbind b) s = .next t ∧ WentOn s t p r false ∧
    ∀ i, tget (teamOf t r.team).binds i =
      if b.md.getLsbD 0 = true ∨ i = b.dst.toNat then none else tget (teamOf s r.team).binds i

def Obligations.loads_and_prefetches_are_sent : Prop := loadsAreSentClaim ∧ prefetchesAreSentClaim ∧ effectiveAddressesClaim

def Obligations.homes_serve_accesses : Prop := homesServeClaim ∧ homeEffectsClaim

/-- That buffer accesses take effect at issue is the model's reading (log entry 38), and that an SRD counts as an access of its
lowest present lane is its choice (log entry 74). -/
def Obligations.buffer_and_uniform_accesses : Prop := bufferAccessesClaim ∧ uniformMemoryClaim

def Obligations.fences_acquires_and_bindings : Prop := fencesAndAcquiresClaim ∧ bindingsClaim

/-! ## Glaze and the matrix engine (R107 to R121, R252 to R282) -/

/-- R113 to R121: a Glaze form whose checks pass acts once for its group, on the rows of the present lanes: `GLZQ` narrows them into
the A-buffer and tags its record, `GLZD` reads them from it, `GLZR` rotates them; then the participants go on. A present lane with
a format check that fails is faulted by R116 instead. -/
def Sys2Proof.glazeFormsClaim : Prop := ∀ (b : Base) (c : GlzCtl) (s : State) (p : Packet) (gid : Nat) (parts present : List Nat),
  (Meeting (glzOpnds b c true false) false 0xFFFFFFFF#32 s p gid parts present → present ≠ [] →
    ∀ x y, glzCheck s p gid c true true = .ok (x, y) → glzqRecord (recordOf (teamOf s p.team) b.dst.toNat) c = true →
    ∃ u, Gathered s u p gid parts ∧
      exec (.glzq b c) s = .next (goOn p gid parts (glzqRun b c p gid present x y u)) ∧
      rTag (recordOf (teamOf (glzqRun b c p gid present x y u) p.team) b.dst.toNat) =
        BitVec.ofNat 36 (tagOf (4 + c.rb.toNat) (seedOf s p.team c.seed))) ∧
  (Meeting (glzOpnds b c false true) false 0xFFFFFFFF#32 s p gid parts present → present ≠ [] →
    ∀ x y, glzCheck s p gid c c.rot true = .ok (x, y) → (teamOf s p.team).apoison = [] →
    ∃ u, Gathered s u p gid parts ∧ exec (.glzd b c) s = .next (goOn p gid parts (glzdRun b c p gid present x y u))) ∧
  (Meeting (glzOpnds b c true true) false 0xFFFFFFFF#32 s p gid parts present → present ≠ [] →
    ∀ x y, glzCheck s p gid c true false = .ok (x, y) → ∃ u, Gathered s u p gid parts ∧
    exec (.glzrFwd b c) s = .next (goOn p gid parts (glzrRun false b c p gid present u)) ∧
    exec (.glzrInv b c) s = .next (goOn p gid parts (glzrRun true b c p gid present u)))

/-- R116: the addresses of a Glaze form pass its checks: with a rotation the K base is a multiple of the block; the elements start at
a multiple of 4, and they and the scales lie in the team's own A-buffer. -/
def Sys2Proof.GlzFits (s : State) (p : Packet) (gid : Nat) (c : GlzCtl) (rot mem : Bool) : Prop :=
  let g := grpOf s p.team gid
  let ela := (sregOf g c.ela.toNat).toNat
  (rot = true → (lo32 (sregOf g c.kb.toNat)).toNat % 2 ^ (4 + c.rb.toNat) = 0) ∧
  (mem = true → ela % 4 = 0 ∧ (ownAbuf (teamOf s p.team) ela (glzElemBytes c)).isSome = true ∧
    (c.sck ≠ 0#2 → (ownAbuf (teamOf s p.team) (sregOf g c.sca.toNat).toNat (glzScaleBytes c)).isSome = true))

/-- R113 to R121: where the checks of R116 pass, each Glaze form answers a next state in which every participant stands READY at the
next instruction, and global memory is as it was. -/
def Sys2Proof.glazeFormsCompleteClaim : Prop :=
  ∀ (b : Base) (c : GlzCtl) (s : State) (p : Packet) (gid : Nat) (parts present : List Nat),
    let completes := fun (i : Instr) => ∃ t, exec i s = .next t ∧ t.mem = s.mem ∧
      ∀ l ∈ parts, (thrOf t (atLane p gid l)).stat = .ready ∧ (thrOf t (atLane p gid l)).pc = p.next
    (Meeting (glzOpnds b c true false) false 0xFFFFFFFF#32 s p gid parts present → GlzFits s p gid c true true →
      glzqRecord (recordOf (teamOf s p.team) b.dst.toNat) c = true → completes (.glzq b c)) ∧
    (Meeting (glzOpnds b c false true) false 0xFFFFFFFF#32 s p gid parts present → GlzFits s p gid c c.rot true →
      completes (.glzd b c)) ∧
    (Meeting (glzOpnds b c true true) false 0xFFFFFFFF#32 s p gid parts present → GlzFits s p gid c true false →
      completes (.glzrFwd b c) ∧ completes (.glzrInv b c))

/-- R259 to R261, R275: `RSV` builds a record from four s registers, `RSV.CLR` empties it, `RSVF` changes one field of a built record
(BASE, SCOFF, ROWS, COLS by MOD), where the record that results is valid. -/
def Sys2Proof.reservationRecordsClaim : Prop := ∀ (b : Base) (s : State) (p : Packet) (r : ThrRef),
  let old := recordOf (teamOf s r.team) b.dst.toNat
  let sreg := fun (i : Nat) => thrSreg s r (b.sa.toNat + i)
  let built := fun (x : Record) => BitVec.ofNat 256 (x.toNat % 2 ^ 255 + 2 ^ 255)
  let leaves := fun (t : State) (x : Record) => WentOn s t p r false ∧
    recordOf (teamOf t r.team) b.dst.toNat = x ∧
    ∀ i, i ≠ b.dst.toNat → recordOf (teamOf t r.team) i = recordOf (teamOf s r.team) i
  Alone { g := b.g } s p r → b.dst.toNat < (teamOf s p.team).hdr.rsvn →
  (recordOk (sreg 3 ++ sreg 2 ++ sreg 1 ++ sreg 0) = true →
    ∃ t, exec (.rsv b) s = .next t ∧ leaves t (built (sreg 3 ++ sreg 2 ++ sreg 1 ++ sreg 0))) ∧
  (∃ t, exec (.rsvClr b) s = .next t ∧ leaves t 0#256) ∧
  ∀ e1, rBuilt old = true → recordOk (rsvfNew b.md.toNat e1 old) = true →
    ∃ t, exec (.rsvf b e1) s = .next t ∧ leaves t (built (rsvfNew b.md.toNat e1 old)) ∧
      (b.md = 0#4 → rBase (rsvfNew b.md.toNat e1 old) = (rBase old + (e1.signExtend 64).toNat) % 2 ^ 64) ∧
      (b.md = 2#4 → rRows (rsvfNew b.md.toNat e1 old) = e1.toNat % 2 ^ 16) ∧
      (b.md = 3#4 → rCols (rsvfNew b.md.toNat e1 old) = e1.toNat % 2 ^ 16)

/-- R276: `RSVQ` gives the four words of a record to sD to sD+3; one that is not built reads as zeros. -/
def Sys2Proof.reservationQueryClaim : Prop :=
  ∀ (b : Base) (s : State) (p : Packet) (gid : Nat) (parts present : List Nat),
    Meeting { g := b.g } false 0xFFFFFFFF#32 s p gid parts present → present ≠ [] → b.sa.toNat < (teamOf s p.team).hdr.rsvn →
    ∃ t, exec (.rsvq b) s = .next t ∧
      (∀ k, k < 4 → sregOf (grpOf t p.team gid) (b.dst.toNat + k) =
        (recordOf (teamOf s p.team) b.sa.toNat).extractLsb' (64 * k) 64) ∧
      (∀ n, n < b.dst.toNat ∨ b.dst.toNat + 4 ≤ n → sregOf (grpOf t p.team gid) n = sregOf (grpOf s p.team gid) n) ∧
      t.teams = s.teams ∧ t.mem = s.mem

/-- The packet holds threads of one group, whose executing threads are the lanes of `mask`. -/
def Sys2Proof.OneGroup (o : Opnds) (s : State) (p : Packet) (gid : Nat) (mask : LaneMask) : Prop :=
  Runs o s p ∧ gid < 32 ∧ (∀ r ∈ p.refs, r.gid = gid) ∧ mask ≠ 0#32 ∧
  mask = (p.refs.filter (takesPart o s)).foldl (fun m t => m ||| (1#32 <<< t.lane)) 0#32

/-- The threads of the packet go on, without another effect. -/
def Sys2Proof.allGoOn (o : Opnds) (p : Packet) (s : State) : State := runThreads o p (fun _ s => .done s p.next) s

/-- R253 to R255, R265, R277, R278, R280, R281: a request to the matrix engine that passes its checks, with room in the request table
of the quad, is accepted with what the issuing threads give it, and they go on. -/
def Sys2Proof.engineRequestsClaim : Prop :=
  ∀ (b : Base) (c : MmaCtl) (g : GlzCtl) (w : MmwCtl) (s : State) (p : Packet) (gid : Nat) (mask : LaneMask),
    let o : Opnds := { g := b.g }
    let q := coreQuad p.core
    let tm := teamOf s p.team
    OneGroup o s p gid mask → (quadOf s q).me.length < 64 →
    (∀ tri pages u, mmaIll b c tm = false → mmaCheck tm (mmaCmd s b c tri p gid mask) = none →
      streamPages p.core tm.ctx 4 ((streamRanges (mmaCmd s b c tri p gid mask)).flatMap (fun x => rangePages x.2)) s [] =
        (.ok pages, u) →
      exec (if tri then .mmat b c else .mma b c) s =
        .next (allGoOn o p (acceptCommand u q { mmaCmd s b c tri p gid mask with pages := pages }))) ∧
    (b.dst.toNat + b.md.toNat % 8 < tm.hdr.cbuf → exec (.mmz b) s = .next (allGoOn o p (acceptCommand s q
      { id := 0, team := p.team, gid := gid, kind := .mmz, mask := mask, nb := b.md.toNat % 8, tile := b.dst.toNat,
        todo := (List.range (b.md.toNat % 8 + 1)).map (fun i => (0, i)) }))) ∧
    let pos := sregOf (grpOf s p.team gid) w.pos.toNat
    let e : MeCmd :=
      { id := 0, team := p.team, gid := gid, kind := .mmw, mask := mask, ra := recordOf tm b.dst.toNat, dst := b.dst.toNat,
        m0 := pos.toNat % 2 ^ 16, k0 := pos.toNat / 2 ^ 16 % 2 ^ 16, nb := b.md.toNat % 8, tile := b.sa.toNat, ctl := some g,
        seedv := seedOf s p.team g.seed, bar := if w.barEn then some w.bar.toNat else none, gs := w.gs.toNat,
        todo := (List.range (b.md.toNat % 8 + 1)).map (fun i => (0, i)) }
    b.sa.toNat + b.md.toNat % 8 < tm.hdr.cbuf → b.dst.toNat < tm.hdr.rsvn → mmwCheck tm e g = none →
      exec (.mmw b g w) s = .next (allGoOn o p (acceptCommand
        (setRecord s p.team b.dst.toNat (rput e.ra 208 36 (if g.rot then tagOf (4 + g.rb.toNat) (seedOf s p.team g.seed) else 0)))
        q e))

/-- R255, R256, R267: acceptance puts the command at the end of the request table; with its guard slot TRUE or OPEN it counts on its
barrier register as one arrival to come. -/
def Sys2Proof.engineAcceptanceClaim : Prop := ∀ (s : State) (q : Nat) (e : MeCmd), e.bar.isSome = true →
  slotOf (teamOf s e.team) e.gs ≠ .isFalse → (∀ b, e.bar = some b → (barOf (teamOf s e.team) b).rp = false) →
  (∃ y ∈ (quadOf (acceptCommand s q e) q).me, y.id = s.nextId ∧ y.team = e.team ∧ y.gid = e.gid ∧ y.kind = e.kind ∧ y.mask = e.mask ∧
    y.tile = e.tile ∧ y.held = decide (slotOf (teamOf s e.team) e.gs = .isOpen)) ∧
  ∀ b, e.bar = some b →
    (barOf (teamOf (acceptCommand s q e) e.team) b).exp = (barOf (teamOf s e.team) b).exp + 1 ∧
    (barOf (teamOf (acceptCommand s q e) e.team) b).pend = (barOf (teamOf s e.team) b).pend + 1

/-- R253, R257, R258, R263, R266, R271, R458: the engine's own events, each at its time: arbitration on a clock edge of a quad whose
engine is free, the end of a pass, the completion of a command, the fetch of a line, and an idle core's ballast packet. What a ratio
stop found under way ends at its tick, in the stop too (R460). A line that an integrator's die homes is asked for there (R265,
R433). The clocks of a pass and the lines of a fetch are the model's reading (log entries 46 and 48). -/
def Obligations.engine_events : Prop := ∀ (s : State) (q : Nat),
  let x := quadOf s q
  let ended := fun (k : Nat) (u : Option Nat) => (u = none ∧ k ≤ clockOf s x) ∨ ∃ n, u = some n ∧ n ≤ s.now
  let s1 := modQuad s q (fun x => { x with passTick := none })
  (onEdge s x = true → x.busy = none →
    exec (.engineArbitrate q) s = .next (arbitrate s q)) ∧
  (∀ k n, x.passAt = some k → ended k x.passTick → x.busy = some (0, n) → cmdOf s q 0 = none →
    exec (.enginePass q) s = .next
      (afterPass (modQuad s1 q (fun x => { x with mebal := x.mebal + 1, ballast := x.ballast + 1 })) q)) ∧
  (∀ k id n e pq rest, x.passAt = some k → ended k x.passTick → x.busy = some (id, n) → cmdOf s q id = some e → e.todo = pq :: rest →
    exec (.enginePass q) s = .next (afterPass (runPass s1 q e pq rest) q) ∧
    (passFails (teamOf s e.team) e pq = false → (quadOf (runPass s1 q e pq rest) q).mepass = x.mepass + 1)) ∧
  (∀ id e k, cmdOf s q id = some e → e.doneAt = some k → ended k e.doneTick →
    exec (.meCommandComplete q id) s = .next (endCommand s q e .done)) ∧
  (∀ id line e, cmdOf s q id = some e → line ∈ e.need → clockStands x = false → ¬(x.pugClk = clockOf s x ∧ 4 ≤ x.pugCnt) →
    let path := pathOf s (quadTower q) (line * 128) (lineLeaf e line)
    (isFar s (line * 128) = true → lineLost s line = false → exec (.pugLineFetch q id line) s = .next (pugAsk s q e line)) ∧
    (isFar s (line * 128) = false → pathReady s path [0] [1, 2] = true → backsOut s (teamOf s e.team).core line = [] →
     remoteSpans s line 0xFFFFFFFF#32 = [] →
    exec (.pugLineFetch q id line) s =
      .next (afterServe (pugFetch (countBack (countBack (countPath s path 0) path 1) path 2) q e line)))) ∧
  ∀ core, coreQuad core = q → x.balPending ≠ 0 → coreRuns s core = true → coreReady s core = [] →
    (coreOf s core).nextPick ≤ coreClock s core →
    ∃ t, exec (.laneBallastPacket core) s = .next t ∧ (quadOf t q).balPending = x.balPending - 1 ∧
      (quadOf t q).ballast = x.ballast + 1 ∧ (coreOf t core).nextPick = coreClock s core + passCount x ∧ t.threads = s.threads

/-- Which registers a poisoned word of a GLZD poisons is the model's choice (log entry 66). -/
def Obligations.glaze_forms : Prop := glazeFormsClaim ∧ glazeFormsCompleteClaim

def Obligations.reservations : Prop := reservationRecordsClaim ∧ reservationQueryClaim

def Obligations.engine_requests_and_acceptance : Prop := engineRequestsClaim ∧ engineAcceptanceClaim

/-! ## Barriers, grid steps and monitors (R284 to R301) -/

/-- The packet executes a form that acts once, with `r` the lowest home lane whose guard is 1. -/
def Sys2Proof.Leads (o : Opnds) (s : State) (p : Packet) (r : ThrRef) : Prop :=
  Runs o s p ∧ (p.refs.filter (takesPart o s)).head? = some r

/-- The barrier register that `b` names, of the team of the packet. -/
def Sys2Proof.regAt (s : State) (p : Packet) (b : Base) : Bar := barOf (teamOf s p.team) b.sa.toNat

/-- R284, R286, R288: `BAR.INIT` arms the register with BASE and CYC, EXP = BASE and nothing arrived, keeping PHASE; `BAR.EXPECT`
adds to EXP; `BAR.INVAL` of a register with nothing pending leaves an image of 0 apart from PHASE; `BAR.WRITE` takes the image of a
pair. Each acts once, and the threads go on. That BAR.WRITE wakes released waiters is the model's reading (log entry 49). -/
def Obligations.barrier_register_control : Prop := ∀ (b : Base) (imm : Option Word32) (s : State) (p : Packet) (r : ThrRef),
  let n := b.sa.toNat
  let x := regAt s p b
  let oa := baseOpnds b 0 (if imm.isSome then 0 else 1) 0
  let a := match imm with | some v => v | none => regVal (thrOf s r) b.sb.toNat
  let plain : Opnds := { g := b.g }
  n < 16 → n < (teamOf s p.team).hdr.bars → x.rp = false → x.pend = 0 → x.state ≠ .draining →
  (Leads oa s p r → 1 ≤ a.toNat % 64 → a.toNat % 64 ≤ 32 → a &&& ~~~0x13F#32 = 0#32 →
    ∃ u, exec (.barInit b imm) s = .next (allGoOn oa p u) ∧
      regAt u p b = { phase := x.phase, state := .armed, cyc := a.getLsbD 8, base := a.toNat % 64, exp := a.toNat % 64 } ∧
      (∀ g, arrOf (teamOf u p.team) g n = {}) ∧ u.threads = s.threads ∧ u.mem = s.mem) ∧
  (Leads oa s p r → x.state = .armed → 0 ≤ (x.exp : Int) + a.toInt → (x.exp : Int) + a.toInt ≤ 1023 →
    (x.arr : Int) < (x.exp : Int) + a.toInt →
    ∃ u, exec (.barExpect b imm) s = .next (allGoOn oa p u) ∧ regAt u p b = { x with exp := ((x.exp : Int) + a.toInt).toNat } ∧
      u.threads = s.threads) ∧
  (Leads plain s p r → (∀ t ∈ teamThreads s p.team, ∀ i ph, (thrOf s t).stat = .waiting (.bar i ph) → i ≠ n) →
    ∃ u, exec (.barInval b) s = .next (allGoOn plain p u) ∧ u.threads = s.threads ∧
      regAt u p b = if x.state = .free then x else { phase := x.phase }) ∧
  (Leads (baseOpnds b 0 2 0) s p r → imageOk (pairVal (thrOf s r) b.sb.toNat) = true →
    exec (.barWrite b) s = .next (allGoOn (baseOpnds b 0 2 0) p
      (barChanged (wakeBar (clearArrs (modBar s p.team n (fun _ => barFrom (pairVal (thrOf s r) b.sb.toNat))) p.team n) p.team n)
        p.team n)))

/-- R285: `BAR.ARRIVE` records the lane; the group arrives once every live lane under `%exm` has, and ARR then counts one.
R287: with that the last arrival that EXP asks for, and no load to wait for, the phase moves on: a cyclic register is armed again
with EXP = BASE, another is COMPLETE; with a load to wait for, RP is set and the release stands in the Damper's list (R448). -/
def Obligations.barrier_arrival : Prop :=
  (∀ (b : Base) (s : State) (p : Packet) (r : ThrRef),
    let n := b.sa.toNat
    let x := regAt s p b
    let a := arrOf (teamOf s r.team) r.gid n
    let g := grpOf s r.team r.gid
    Alone { g := b.g } s p r → r.lane < 32 → r.team = p.team → n < (teamOf s p.team).hdr.bars → x.state = .armed →
    a.mask.getLsbD r.lane = false → a.last ≠ some x.phase →
    Freed s r 3 (some (boundTo (teamOf s r.team) objBar (BitVec.ofNat 64 n))) →
    (g.live &&& g.exm &&& ~~~(a.mask ||| (1#32 <<< r.lane)) ≠ 0#32 → ∃ t, exec (.barArrive b) s = .next t ∧
      arrOf (teamOf t r.team) r.gid n = { a with mask := a.mask ||| (1#32 <<< r.lane) } ∧ regAt t p b = x ∧ WentOn s t p r false) ∧
    (g.live &&& g.exm &&& ~~~(a.mask ||| (1#32 <<< r.lane)) = 0#32 → x.rp = false → x.arr + 1 < x.exp →
      ∃ t, exec (.barArrive b) s = .next t ∧ arrOf (teamOf t r.team) r.gid n = { mask := 0#32, last := some x.phase } ∧
        regAt t p b = { x with arr := x.arr + 1 } ∧ WentOn s t p r false) ∧
    (let tm := teamOf s p.team
     let last := fun (t : State) => exec (.barArrive b) s = .next t ∧
       arrOf (teamOf t r.team) r.gid n = { mask := 0#32, last := some x.phase } ∧ WentOn s t p r false
     g.live &&& g.exm &&& ~~~(a.mask ||| (1#32 <<< r.lane)) = 0#32 → x.rp = false → x.exp = x.arr + 1 → x.pend = 0 →
     x.heldExp = 0 → x.heldPend = 0 → x.heldArr = 0 → (x.cyc = true → 1 ≤ x.base) → tm.state ≠ .saved →
      (tm.hdr.load = 0 ∨ quietTeam s p.team = false → ∃ t, last t ∧ regAt t p b = grantPhase { x with arr := x.arr + 1 }) ∧
      (tm.hdr.load ≠ 0 → quietTeam s p.team = true → ∃ t, last t ∧ regAt t p b = { x with arr := x.arr + 1, rp := true } ∧
        ∃ y ∈ t.damper.reqs, y.what = .bar p.team n ∧ y.load = tm.hdr.load ∧ y.release = true))) ∧
  ∀ x : Bar, x.heldExp = 0 → x.heldPend = 0 → x.heldArr = 0 →
    (grantPhase x).phase = x.phase + 1 ∧ (grantPhase x).rp = false ∧
    (x.cyc = true → (grantPhase x).state = x.state ∧ (grantPhase x).exp = x.base ∧ (grantPhase x).arr = 0) ∧
    (x.cyc = false → (grantPhase x).state = .complete)

/-- The phase that a form waits on or tests: a register's low half, or by R289 the phase of the thread's own arrival; none is over
at once. -/
def Sys2Proof.phaseOf (b : Base) (s : State) (r : ThrRef) : Option Half :=
  if b.sb = 0#10 then waitTarget (teamOf s r.team) r b.sa.toNat none
  else some ((regVal (thrOf s r) b.sb.toNat).setWidth 16)

/-- A phase is released when (PHASE − phase) mod 2^16 lies between 1 and 2^15, or the register is COMPLETE (R289). -/
def Sys2Proof.Released (x : Bar) (ph : Option Half) : Prop :=
  match ph with
  | none => True
  | some h => x.state = .complete ∨ (1 ≤ (x.phase - h).toNat ∧ (x.phase - h).toNat ≤ 32768)

/-- R289, R294, R295: `BAR.WAIT` goes on with an acquire where its phase is released, and waits otherwise; `BAR.TEST` writes the bit;
`BAR.READ` gives the image of the register. -/
def Obligations.barrier_waits : Prop := ∀ (b : Base) (s : State) (p : Packet) (r : ThrRef),
  let n := b.sa.toNat
  let x := barOf (teamOf s r.team) n
  let o := baseOpnds b 0 (if b.sb = 0#10 then 0 else 1) 0
  let d := b.dst.toNat % 32
  let acquired := acquire s r 5 (some (boundTo (teamOf s r.team) objBar (BitVec.ofNat 64 n)))
  n < (teamOf s r.team).hdr.bars →
  (Alone o s p r → x.state = .armed ∨ x.state = .complete → (thrOf s r).mode = .normal ∨ (thrOf s r).mode = .trap →
    (Released x (phaseOf b s r) → exec (.barWait b) s = .next (advance acquired r p.next)) ∧
    (∀ h, phaseOf b s r = some h → ¬Released x (some h) → exec (.barWait b) s = .next (makeWait s r (.bar n h.toNat)))) ∧
  (Alone { o with dsts := if d = 0 then [] else [d] } s p r → x.state = .armed ∨ x.state = .complete → d ≠ 0 →
    ∃ t, exec (.barTest b) s = .next t ∧ (thrOf t r).pc = p.next ∧
      ((regVal (thrOf t r) d).getLsbD (b.dst.toNat / 32) = true ↔ Released x (phaseOf b s r)) ∧
      (∀ i, i < 32 → i ≠ b.dst.toNat / 32 → (regVal (thrOf t r) d).getLsbD i = (regVal (thrOf s r) d).getLsbD i) ∧
      ∀ m, m ≠ d → regOf (thrOf t r) m = regOf (thrOf s r) m) ∧
  (let o2 := baseOpnds b 0 0 2
   r.team = p.team → Runs o2 s p → r ∈ p.refs → ∃ t, exec (.barRead b) s = .next t ∧
    Passed s t p o2 (fun _ th => putPair th b.dst.toNat (barImage x)) (fun _ => p.next))

/-- R291, R296, R297: the barrier words, here in an A-buffer that no thread watches: `BARW.INIT` keeps PH, clears CNT and sets EXPW;
`BARW.ARRIVE` counts one, and the count that reaches EXPW flips PH and clears CNT; `BARW.WAIT` waits, its first read of PH to come;
at that read a thread whose word's PH differs from the one it waits on goes on with an acquire. That the first read of PH is not
admitted by the Damper is the model's reading (log entry 53). -/
def Obligations.barrier_words : Prop :=
  (∀ (b : Base) (m : MemWord) (disp : Option Word32) (s : State) (p : Packet) (r : ThrRef) (k off : Nat),
    let a := barwAddr s r b m disp
    let oi : Opnds := { g := b.g, srcs := baseSrcs b m.bs ++ [(b.sb.toNat, b.tb)] }
    let oa : Opnds := { g := b.g, srcs := baseSrcs b m.bs, dsts := if b.dst = 0#10 then [] else [b.dst.toNat, b.dst.toNat + 1] }
    let old := bufNat (teamOf s k).abuf off 8
    let now := fun (t : State) => bufNat (teamOf t k).abuf off 8
    m.ix = true → a.toNat % 8 = 0 → abufAt s r.team a = some (k, off) → abufBad s k off 8 = false →
    (∀ t ∈ s.threads.map (·.2), ∀ w, t.stat ≠ .waiting (.barw w)) →
    (Alone oi s p r → (∀ e ∈ s.reqs, e.1 < p.base) → ∃ t, exec (.barwInit b m disp) s = .next t ∧ WentOn s t p r false ∧
      now t = old / 2 ^ 63 * 2 ^ 63 + (regVal (thrOf s r) b.sb.toNat).toNat % 2 ^ 16 * 2 ^ 32) ∧
    (Alone oa s p r → p.base ≤ s.nextId → (∀ e ∈ s.reqs, e.1 < p.base) →
      Freed s r m.scope.toNat (wordCover s r a) → ∃ t, exec (.barwArrive b m disp) s = .next t ∧
      (let cnt := old % 2 ^ 32; let expw := old / 2 ^ 32 % 2 ^ 16; let ph := old / 2 ^ 63
       now t % 2 ^ 32 = (if expw ≤ cnt + 1 then 0 else cnt + 1) ∧ now t / 2 ^ 32 % 2 ^ 16 = expw ∧
         now t / 2 ^ 63 = (if expw ≤ cnt + 1 then 1 - ph else ph))) ∧
    (Alone oi s p r → (thrOf s r).mode = .normal → ∃ t w, exec (.barwWait b m disp) s = .next t ∧
      (thrOf t r).stat = .waiting (.barw w) ∧ w.ab = some k ∧ w.loc = off ∧ w.first = true ∧ w.watched = false ∧
      w.ph = (regVal (thrOf s r) b.sb.toNat).getLsbD 0 ∧ (thrOf t r).pc = (thrOf s r).pc)) ∧
  ∀ (s : State) (r : ThrRef) (w : BarwWait) (k : Nat), (thrOf s r).stat = .waiting (.barw w) → w.watched = false → w.ab = some k →
    w.first = true → w.woken = false → (bufNat (teamOf s k).abuf w.loc 8 / 2 ^ 63 % 2 == 1) ≠ w.ph →
    exec (.barwPoll r) s = .next (resumeAcq s r w.len 5 (some (boundTo (teamOf s r.team) objWord (BitVec.ofNat 64 w.va))))

/-- R298: `STEP` releases and the thread waits for the grid step; then the step completes if this was the last thread of the grid. -/
def Sys2Proof.gridStepsClaim : Prop := ∀ (b : Base) (s : State) (p : Packet) (r : ThrRef), Alone { g := b.g } s p r →
  (thrOf s r).mode = .normal → Freed s r 3 (some (boundTo (teamOf s r.team) objStep 0#64)) →
  let u := freed s r
  exec (.step b) s = .next (stepSettle (makeWait u r .gridStep) (teamOf s p.team).ctx (teamOf s p.team).node) ∧
  (stepComplete (makeWait u r .gridStep) (teamOf s p.team).ctx (teamOf s p.team).node = false →
    exec (.step b) s = .next (makeWait u r .gridStep))

/-- R293, R299 to R301: `MONITOR` asks the home of its line for a watch; `MWAIT` answers 3 without a monitor, 0 or 1 after a write
or an overflow, 2 when its time is up, and otherwise waits. -/
def Sys2Proof.monitorsClaim : Prop :=
  (∀ (b : Base) (m : MemWord) (disp : Option Word32) (s s' : State) (p : Packet) (r : ThrRef) (x : Xl),
    Alone { g := b.g, srcs := baseSrcs b m.bs } s p r →
    Reaches s s' p r (barwAddr s r b m disp) 1 { read := true, kind := 6 } x →
    rangeOf x.pa = .hbm ∨ rangeOf x.pa = .pinned → leafContract x.leaf ≠ 4 →
    ∃ t, exec (.monitor b m disp) s = .next t ∧ WentOn s t p r false ∧ (thrOf t r).mon = .arming (x.pa / 128) ∧
      (thrOf t r).v = (thrOf s r).v ∧ t.mem = s'.mem) ∧
  (∀ (b : Base) (s : State) (p : Packet) (r : ThrRef),
    Alone (baseOpnds b (if b.md = 1#4 then 1 else 0) 0 1) s p r → (thrOf s r).mode = .normal → b.md.toNat ≤ 2 →
    let time := if b.md = 1#4 then (regVal (thrOf s r) b.sa.toNat).toNat else (lo32 (thrSreg s r b.sa.toNat)).toNat
    let answers := fun (cause : Nat) => ∃ t, exec (.mwait b) s = .next t ∧ WentOn s t p r false ∧ (thrOf t r).mon = .disarmed ∧
      (b.dst ≠ 0#10 → regOf (thrOf t r) b.dst.toNat = { val := BitVec.ofNat 32 cause, full := true, poison := false }) ∧
      ∀ n, n ≠ b.dst.toNat → regOf (thrOf t r) n = regOf (thrOf s r) n
    match (thrOf s r).mon with
    | .disarmed => answers 3
    | .triggered _ o => answers (if o then 1 else 0)
    | _ => (b.md ≠ 0#4 → time = 0 → answers 2) ∧
      (b.md ≠ 0#4 → time ≠ 0 → ∃ t, exec (.mwait b) s = .next t ∧
        (thrOf t r).stat = .waiting (.mwait (some (s.now + time * 3024)) b.dst.toNat) ∧
        .mwaitTimeout r ∈ tgetD t.timers (s.now + time * 3024) []) ∧
      (b.md = 0#4 → exec (.mwait b) s = .next (makeWait s r (.mwait none b.dst.toNat)))) ∧
  ∀ (s : State) (r : ThrRef) (d dst : Nat), (thrOf s r).stat = .waiting (.mwait (some d) dst) → d ≤ s.now →
    (quadOf s (coreQuad (thrCore s r))).stopUntil = none →
    ∃ t, exec (.mwaitTimeout r) s = .next t ∧ (thrOf t r).stat = .ready ∧ (thrOf t r).pc = (thrOf s r).pc + 8 ∧
      (dst ≠ 0 → regVal (thrOf t r) dst = 2#32) ∧ (thrOf t r).mon = .disarmed

/-- R292: `GSET` makes a guard slot of the team TRUE and `GCLR` FALSE, which settles the commands that wait on it; `GSET.OPEN` makes
it OPEN. Every other slot keeps its state. -/
def Sys2Proof.guardSlotsClaim : Prop := ∀ (b : Base) (s : State) (p : Packet) (r : ThrRef), Leads { g := b.g } s p r →
  let n := b.dst.toNat % 8
  let put := fun (v : SlotState) => setSlot s p.team n v
  exec (.gset b) s = .next (allGoOn { g := b.g } p (resolveSlot (put .isTrue) p.team n true)) ∧
  exec (.gclr b) s = .next (allGoOn { g := b.g } p (resolveSlot (put .isFalse) p.team n false)) ∧
  exec (.gsetOpen b) s = .next (allGoOn { g := b.g } p (put .isOpen)) ∧
  ∀ v i, 0 < i → slotOf (teamOf (put v) p.team) i = if i = n then v else slotOf (teamOf s p.team) i

def Obligations.grid_steps_monitors_and_guard_slots : Prop := gridStepsClaim ∧ monitorsClaim ∧ guardSlotsClaim

/-! ## Copies and collectives (R302 to R321) -/

/-- R302 to R307: a copy instruction whose part passes its checks, with an issue-journal entry free, supplies the part once for its
group, under the operation of its own; with none free the group waits. -/
def Sys2Proof.copyInstructionsClaim : Prop :=
  ∀ (b : Base) (c : CopyCtl) (s : State) (p : Packet) (gid : Nat) (parts present : List Nat),
    let u := gathered { g := b.g } false 0xFFFFFFFF#32 s p
    let g := grpOf s p.team gid
    let x := partFrom g b.sa.toNat
    let does := fun (i : Instr) (op : Nat) => partCheck s p.team gid op c x = none →
      (∀ k, freeEntry (teamOf s p.team) = some k → exec i s = .next (goOn p gid parts (supplyPart u p.team gid op c x g b.sa.toNat k))) ∧
      (freeEntry (teamOf s p.team) = none → exec i s = .next (parkArrived u p gid .journal))
    Meeting { g := b.g } false 0xFFFFFFFF#32 s p gid parts present → present ≠ [] →
    does (.cpy b c) opCPY ∧ does (.cpyt b c) opCPYT ∧ does (.cpyr b c) opCPYR

/-- R306: `CPYQ` gives a copy slot's assembly: 1 in bit 0, the groups that have supplied in bits 7:2, those it expects in bits 12:8,
0 where nothing is assembled; `CPYQ.J` counts the journal's entries in use, running and in FAULT_WAIT. -/
def Sys2Proof.copyQueriesClaim : Prop := ∀ (b : Base) (s : State) (p : Packet),
  let o := baseOpnds b 0 0 1
  Runs o s p →
  (∃ t, exec (.cpyq b) s = .next t ∧ Passed s t p o (fun r th => putReg th b.dst.toNat
    (match tget (teamOf s r.team).cslots (b.sa.toNat % 8) with
     | some x => BitVec.ofNat 32 (x.e1.toNat / 8 % 32 * 256 + x.gids.length * 4 + 1)
     | none => 0#32)) (fun _ => p.next)) ∧
  ∃ t, exec (.cpyqJ b) s = .next t ∧ Passed s t p o (fun r th => putReg th b.dst.toNat (BitVec.ofNat 32
    (let n := fun (f : Nat → Bool) => ((teamOf s r.team).journal.filter (fun e => f e.2.st.toNat)).length
     n (· == jFaultWait) * 65536 + n (fun x => x == jRunning || x == jReplay) * 256 + n (· != jFree)))) (fun _ => p.next)

/-- R308 to R316: the events of a copy: a beat whose source is unread reads it; one that is due, with nothing of its copy in its
way, lands, in a member's buffer or at its address, the bytes then in memory, or goes out to another device or die that homes them;
a copy all of whose beats have landed ends; and the copies of a restored cluster are replayed once its teams run and none of their
threads is in a restore routine. How a beat with poisoned bytes lands is the model's reading (log entry 51), and the AOP codes of a
fabric beat are its choice (log entry 71). -/
def Obligations.copy_events : Prop := ∀ (s : State) (id : Nat) (c : CopyCmd), copyOfId s id = some c → c.id = id →
  (∀ b, c.beats.find? (fun y => y.id == b.id) = some b →
    (b.unread = true → exec (.slipBeat id b.id) s = .next (nudgeSave (readStage s c b) c.team)) ∧
    (∀ x, b.unread = false → c.parts[b.part]? = some x → b.due ≤ s.now → (∀ e ∈ s.reqs, e.2.copy ≠ some (id, b.id)) →
      (∀ y ∈ c.beats, beatsClash x y b = false) →
      (∀ k, b.member = some k → exec (.slipBeat id b.id) s = .next (beatDone (landBuffer s c b k) c b)) ∧
      (let way := pathOf s (coreTower c.core) b.pa b.leaf
       let chans := if c.op = opCPYR then [0, 2] else [4]
       (b.member = none → isFar s b.pa = true → pathReady s way chans [1] = true → (freeTag s c.core).isSome = true →
        exec (.slipBeat id b.id) s = .next (landRemote (chans.foldl (fun s v => countPath s way v) s) c b)) ∧
       (b.member = none → isFar s b.pa = false → pathReady s way chans [1] = true →
        remoteSpans s (b.pa / 128) (beatWords b) = [] →
        let u := countBack (chans.foldl (fun s v => countPath s way v) s) way 1
        exec (.slipBeat id b.id) s =
          .next (afterServe (beatDone (if c.op = opCPYR then landReduce u c b else landWrite u b) c b)))))) ∧
  (copyDone c = true → exec (.copyComplete id) s = .next (endCopy s c .done)) ∧
  ∀ k, (∀ e ∈ s.teams, e.2.ctx = (teamOf s k).ctx → e.2.node = (teamOf s k).node → e.2.cluster = (teamOf s k).cluster →
      e.2.freed = false → (e.2.state = .running ∨ e.2.state = .exited) ∧
      ∀ t ∈ teamThreads s e.1, (thrOf s t).mode ≠ .rest) →
    exec (.copyReplayStart k) s =
      .next (s.copies.foldl (fun s e => if e.2.team == k && e.2.state == .replay then replayCopy s e.2 else s) s)

/-- R319, R320: `COLL` whose operands pass its checks, with an entry free and the releases of its participants at an end, is accepted once for its group. -/
def Sys2Proof.collectiveIssueClaim : Prop :=
  ∀ (b : Base) (c : CollCtl) (s : State) (p : Packet) (gid k : Nat) (parts present : List Nat),
    let g := grpOf s p.team gid
    Meeting { g := b.g } false 0xFFFFFFFF#32 s p gid parts present → present ≠ [] →
    let u := gathered { g := b.g } false 0xFFFFFFFF#32 s p
    collCheck s p.team c g b.sa.toNat = none → freeEntry (teamOf s p.team) = some k →
    ∀ v, releaseLanes p gid 4 (some (collBuffers s p.team c g b.sa.toNat)) present u .done = .done v →
      exec (.coll b c) s = .next (goOn p gid parts (acceptColl v p.team gid k c g b.sa.toNat))

/-- R317, R318, R321: a posted collective is matched once a post of every other rank is known; with the table of its communicator
read and its buffers translated and at hand it runs; an INT32 sum is that of the ranks' values modulo 2^32; it ends when its results
are written, with an acquire over its buffers (R244); and it fails when its watchdog period has passed unmatched. -/
def Sys2Proof.collectiveEventsClaim : Prop := (∀ (s : State) (id : Nat) (c : Coll), Machine.collOf s id = some c → c.id = id →
  (∀ posts : List RankPost,
    let others := (List.range (commSize (collComm s c))).filter (· != commRank (collComm s c))
    let c' := { c with state := .matched, posts := posts }
    c.state = .posted → (∀ r ∈ others, ∃ y ∈ posts, y.rank = r) → others.length + 1 = commSize (collComm s c) →
    exec (.collMatch id posts) s = .next (matchedColl (modColl s id (fun _ => c')) c')) ∧
  (∀ tx sx rx s1 s3 s4 d,
    let n := commSize (collComm s c)
    let s2 := modColl (readTable s1 c tx).2 c.id (fun c => { c with devs := tableIds (readTable s1 c tx).1 n })
    c.state = .matched → c.ran = false → collPieces s c false (cutLines (bits (collComm s c).tab 0 56) (2 * n)) = .ok tx s1 →
    collPieces s2 c false (cutLines c.send.toNat (collSendBytes s2 c)) = .ok sx s3 →
    collPieces s3 c true (cutLines c.recv.toNat (collRecvBytes s3 c)) = .ok rx s4 →
    (∀ y ∈ sx, isFar s4 y.1.pa = false) → (∀ y ∈ sx ++ rx, remoteSpans s4 (y.1.pa / 128) (pieceWords y) = [] ∧
      backsOut s4 c.core (y.1.pa / 128) = []) →
    Machine.collOf s4 id = some d →
    exec (.collMatch id []) s = .next (afterServe (runColl s4 d sx rx))) ∧
  (let ivs := rangeLines s (collCtx s c) c.send.toNat (collSendBytes s c) ++ rangeLines s (collCtx s c) c.recv.toNat (collRecvBytes s c)
   let on := fun (l : Nat) => ∃ iv ∈ ivs, iv.1 ≤ l ∧ l ≤ iv.2
   collDone s c = true → (∀ e ∈ s.reqs, e.1 < s.nextId) → ∃ u, exec (.collComplete id) s = .next (endColl u c .done) ∧ u.mem = s.mem ∧
    (∀ l, on l → (l1Of s c.core l).own = 0#32 → (l1Of u c.core l).valid = 0#32) ∧
    ∀ k q, tget s.reqs k = some q → q.core = c.core → q.performed = true ∨ q.out = true → q.kind = .read ∨ q.kind = .prefetch → on q.line →
      ∃ z, tget u.reqs k = some z ∧ z.nokeep = 0xFFFFFFFF#32) ∧
  (let due := c.postedAt + c.wdog * 1000 * 3024
   c.state = .posted → c.wdog ≠ 0 →
   (due ≤ s.now → exec (.collWatchdog id) s = .next (endColl s c .failed)) ∧
   (s.now < due → exec (.collWatchdog id) s = .next s))) ∧
  ∀ (c : CollCtl) (xs : List Nat), c.fmt = 2#2 → c.op = 0#2 → (∀ x ∈ xs, x < 2 ^ 32) → collReduce c xs = xs.sum % 2 ^ 32

def Obligations.copy_forms : Prop := copyInstructionsClaim ∧ copyQueriesClaim

/-- When results are written is the model's reading (log entry 54). -/
def Obligations.collectives : Prop := collectiveIssueClaim ∧ collectiveEventsClaim

/-! ## Queues (R342 to R359) -/

/-- R344, R345, R351, R352: with the queue checked and the release done, `ENQ` gives the 64 bytes of its 16 registers to the queue
and the thread goes on; `ENQ.TRY` also writes 1 to its bit, and where the queue is full it writes 0 and changes nothing else. An
item that is accepted found the queue ACTIVE and a slot free. `ENQ` never waits for room: at a full or FROZEN queue it takes
QUEUE_FAULT at its own PC. R344: enqueues that the unit holds, for a page move or a module on its way, go in the order in which they
came: one that comes while another stands before it joins the order and waits, the first looks again in its turn, and the one that
goes leaves the order. That the queue event acts at issue is the model's reading (log entry 60). -/
def Obligations.enqueues : Prop :=
  (∀ (b : Base) (w : QueueWord) (s : State) (p : Packet) (r : ThrRef),
    let q := queueNo s r w
    let item := leBytes (regsNat (thrOf s r) b.sa.toNat 16) 64
    let d := b.dst.toNat % 32
    let bit := fun (t : State) => (regVal (thrOf t r) d).getLsbD (b.dst.toNat / 32)
    let srcs := (List.range 16).map (fun i => (b.sa.toNat + i, b.ta))
    b.sa.toNat + 16 ≤ (teamOf s p.team).hdr.regs → queueCheck s r q false = true →
    Freed s r 3 (queueCover s r q) →
    (unitBehind (freed s r) q (turnStamp (freed s r) q r) (some r) = true →
      (Alone { g := b.g, srcs := srcs } s p r → exec (.enq b w) s = .next (waitTurn (freed s r) q r)) ∧
      (Alone { g := b.g, srcs := srcs, dsts := if d ≠ 0 then [d] else [] } s p r →
        exec (.enqTry b w) s = .next (waitTurn (freed s r) q r))) ∧
    (unitBehind (freed s r) q (turnStamp (freed s r) q r) (some r) = false →
    (Alone { g := b.g, srcs := srcs } s p r → ∀ u, enqueue (freed s r) q item = .ok u →
      exec (.enq b w) s = .next (advance (leaveTurn u q r) r p.next)) ∧
    (Alone { g := b.g, srcs := srcs } s p r → enqueue (freed s r) q item = .full →
      exec (.enq b w) s = .next (deliver p.core p.pc p.next [(r, { code := 0x0F, addr := BitVec.ofNat 64 q })] (leaveTurn (freed s r) q r))) ∧
    (Alone { g := b.g, srcs := srcs } s p r → ∀ u, enqueue (freed s r) q item = .held u → exec (.enq b w) s = .next (waitTurn u q r)) ∧
    (Alone { g := b.g, srcs := srcs, dsts := if d ≠ 0 then [d] else [] } s p r → d ≠ 0 →
      (∀ u, enqueue (freed s r) q item = .ok u → ∃ t, exec (.enqTry b w) s = .next t ∧ bit t = true ∧
        t.queues = (leaveTurn u q r).queues ∧ t.mem = u.mem ∧
        (thrOf t r).pc = p.next) ∧
      (enqueue (freed s r) q item = .full → ∃ t, exec (.enqTry b w) s = .next t ∧ bit t = false ∧
        t.queues = (leaveTurn s q r).queues ∧ t.mem = s.mem ∧ (thrOf t r).pc = p.next ∧ ∀ n, n ≠ d → regOf (thrOf t r) n = regOf (thrOf s r) n)))) ∧
  (∀ (s : State) (q : Nat) (r : ThrRef), (tget s.threads (thrKey r)).isSome = true →
    (thrOf (waitTurn s q r) r).stat = .waiting .event ∧ (thrOf (waitTurn s q r) r).pc = (thrOf s r).pc ∧
    (∃ x ∈ turnsAt (waitTurn s q r) q, x.thr = r ∧ x.pc = (thrOf s r).pc) ∧
    Instr.deviceItemEnqueue 0 ∈ tgetD (waitTurn s q r).timers (s.now + 3024) []) ∧
  (∀ (s : State) (q : Nat) (r : ThrRef) (x : Turn),
    (x ∈ turnsAt s q → x.stamp ≤ s.nextId → (∀ y ∈ turnsAt s q, y.thr ≠ r) → unitBehind s q (turnStamp s q r) (some r) = true) ∧
    ((turnsAt s q).head? = some x → x.thr = r → (∀ i ∈ itemsOf s q, i.id < x.stamp → itemHeld s i = false) →
      unitBehind s q (turnStamp s q r) (some r) = false)) ∧
  ∀ (s u : State) (q : Nat) (bs : List Byte), enqueue s q bs = .ok u →
    (queueAt s q).state = .active ∧ (queueAt s q).tail - (queueAt s q).head < queueCap (queueAt s q)

/-- R346 to R348, R353: `DEQ` of a queue with an item, at which no thread waits, takes the oldest; of an empty one it waits in the
order of arrival, and `DEQT` also until its time is up: status 1 then, and at once where the time is 0; of an empty DRAINING one it
returns with status 2. The status stands in vD + 16 with bit 31 of vD + 17 set, and the item's registers are 0. That the queue event
acts at issue is the model's reading (log entry 60). -/
def Obligations.dequeues : Prop :=
  (∀ (b : Base) (w : QueueWord) (s : State) (p : Packet) (r : ThrRef) (i : Instr) (o : Opnds) (time : Option Nat),
    let q := queueNo s r w
    let x := queueAt s q
    let dst := b.dst.toNat
    let dsts := (List.range 18).map (fun i => dst + i)
    i = .deq b w ∧ o = { g := b.g, dsts := dsts } ∧ time = none ∨
      i = .deqt b w ∧ o = { g := b.g, srcs := if b.md = 0#4 then [(b.sb.toNat, b.tb)] else [], dsts := dsts } ∧
        time = some (if b.md = 0#4 then (regVal (thrOf s r) b.sb.toNat).toNat else (lo32 (thrSreg s r b.sb.toNat)).toNat) →
    Alone o s p r → dst + 18 ≤ (teamOf s p.team).hdr.regs → (thrOf s r).mode = .normal → queueCheck s r q true = true →
    x.waiters = [] →
    (x.state = .draining → x.tail ≤ x.head → exec i s = .next (statusReturn s r dst 2)) ∧
    (x.state = .active →
    (x.head < x.tail → ∀ y u, ringSlot s q x.head false = .ok y u → exec i s = .next (serveQueue (assignItem u q r dst y) q)) ∧
    (x.tail ≤ x.head → time ≠ some 0 → (teamOf s r.team).state = .running → ∃ t, exec i s = .next t ∧
      (thrOf t r).stat = .waiting (.queue q (time.map (fun n => s.now + n * 3024)) dst) ∧ (queueAt t q).waiters = [r] ∧
      t.mem = s.mem) ∧
    (x.tail ≤ x.head → time = some 0 → (teamOf s r.team).state = .running →
      exec i s = .next (statusReturn s r dst 1)))) ∧
  (∀ (s : State) (r : ThrRef) (dst code : Nat), returnHeld s r = false → dst ≠ 0 → code < 2 ^ 32 →
    let th := thrOf (statusReturn s r dst code) r
    th.stat = .ready ∧ th.pc = (thrOf s r).pc + 12 ∧ (∀ i, i < 16 → regVal th (dst + i) = 0#32) ∧
    regVal th (dst + 16) = BitVec.ofNat 32 code ∧ regVal th (dst + 17) = 0x80000000#32) ∧
  ∀ (s : State) (r : ThrRef) (q d dst : Nat), (thrOf s r).stat = .waiting (.queue q (some d) dst) → d ≤ s.now →
    (quadOf s (coreQuad (thrCore s r))).stopUntil = none →
    exec (.deqtTimeout r) s = .next (withdraw s r q dst 1) ∧ r ∉ (queueAt (withdraw s r q dst 1) q).waiters

/-- R343, R354: supervisor code creates a queue from the ring it names, freezes an ACTIVE one, thaws a FROZEN one, drains or destroys
it, sets the pointers of a FROZEN one; one that comes behind enqueues that the unit holds waits for its turn (R344); a query gives one of the queue's words. -/
def Sys2Proof.queueControlClaim : Prop := ∀ (b : Base) (w : QueueWord) (s : State) (p : Packet) (r : ThrRef),
  let q := queueNo s r w
  let x := queueAt s q
  let o : Opnds := { g := b.g, priv := true }
  let rec' := fun (i : Nat) => thrSreg s r (b.sb.toNat + i)
  let c := (rec' 1).toNat % 32
  let owner := (rec' 1).toNat / 256 % 64
  let behind := unitBehind s q (turnStamp s q r) (some r)
  let s0 := leaveTurn s q r
  let put := fun (f : Queue → Queue) => modQueue s0 q f
  (Leads o s p r → behind = true → ∀ i ∈ [Instr.qctlCreate b w, .qctlFreeze b w, .qctlThaw b w, .qctlSetptr b w, .qctlDrain b w, .qctlDestroy b w],
    exec i s = .next (runThreads o p (fun t s => .left (makeWait s t .event)) (scheduleOnce (joinTurn s q r) (s.now + 3024) lookAgain))) ∧
  (Leads o s p r → behind = false →
    (x.state = .free → 6 ≤ c → c ≤ 20 → (rec' 0).toNat % 4096 = 0 → pointersOk (rec' 2).toNat (rec' 3).toNat c = true →
      let s1 := (ringPages (rec' 0).toNat c).foldl (fun s va => walkTouch s owner va 4) s0
      ringPagesOk s1 owner (rec' 0).toNat c = true →
      exec (.qctlCreate b w) s = .next (allGoOn o p (serveQueue (modQueue s1 q (fun _ =>
        { state := .active, owner := owner, c := c, home := ringHome s1 owner (rec' 0).toNat, base := (rec' 0).toNat,
          head := (rec' 2).toNat, tail := (rec' 3).toNat })) q))) ∧
    (x.state = .active → exec (.qctlFreeze b w) s = .next (allGoOn o p (put (fun x => { x with state := .frozen })))) ∧
    (x.state = .frozen →
      exec (.qctlThaw b w) s = .next (allGoOn o p (serveQueue (put (fun x => { x with state := .active })) q)) ∧
      (pointersOk (rec' 2).toNat (rec' 3).toNat x.c = true → exec (.qctlSetptr b w) s =
        .next (allGoOn o p (put (fun x => { x with head := (rec' 2).toNat, tail := (rec' 3).toNat }))))) ∧
    (x.state = .active ∨ x.state = .frozen → exec (.qctlDrain b w) s =
      .next (allGoOn o p (serveQueue (endItems (put (fun x => { x with state := .draining })) q) q))) ∧
    (x.state ≠ .free → exec (.qctlDestroy b w) s = .next (allGoOn o p (destroyQueue s0 q)))) ∧
  (Alone (baseOpnds b 0 0 2) s p r → (teamOf s r.team).ctx = 0 ∨ (x.state ≠ .free ∧ x.owner = (teamOf s r.team).ctx) →
    ∃ t, exec (.qctlQuery b w) s = .next t ∧ WentOn s t p r false ∧ t.queues = s.queues ∧
      thrOf t r = stepped (thrClock s r) p.next (putPair (thrOf s r) b.dst.toNat (queueValue x w.sel.toNat)) ∧
      queueValue x 1 = BitVec.ofNat 64 x.head ∧ queueValue x 2 = BitVec.ofNat 64 x.tail ∧ queueValue x 3 = x.drop)

/-- R347, R349, R355 to R359: a write of the host to a queue's page is put on the queue, or waits behind an earlier one of its
function or behind what the unit holds; one of another size or offset than 64 bytes at the page's start comes without bytes; an item that waits is tried; a launch
queue's oldest item signals its node, and its head moves on. -/
def Sys2Proof.queueEventsClaim : Prop := ∀ (s : State),
  (∀ fn off bytes', hostReaches s fn = true → off / 4096 < 4096 →
    let bytes := if off % 4096 = 0 ∧ bytes'.length = 64 then bytes' else []
    let wait := fun (s : State) => { s with
      nextId := s.nextId + 1
      items := s.items ++ [({ id := s.nextId, ctx := fn, queue := off / 4096, kind := .host, bytes := bytes } : DevItem)] }
    exec (.hostEnqueue fn off bytes') s = .next
      (if (itemsOf s (off / 4096)).any (fun i => i.kind == .host && i.ctx == fn) || unitBehind s (off / 4096) s.nextId none then wait s else hostPut s fn (off / 4096) bytes wait)) ∧
  (∀ i, s.items.find? (fun j => j.id == i.id) = some i →
    exec (.deviceItemEnqueue i.id) s = .next (afterServe (tryItem s i))) ∧
  (s.items.find? (fun j => j.id == 0) = none →
    exec (.deviceItemEnqueue 0) s =
      .next (afterServe (wakeWhere (s.queues.foldl (fun s e => serveQueue s e.1) s) (fun w => w == .event)))) ∧
  ∀ ctx y u item bad v,
    let c := ctxOf s ctx
    let q := c.sysq.toNat % 4096
    let x := queueAt s q
    c.state ≠ .free → c.state ≠ .building → c.sysq.getLsbD 12 = true → x.owner = ctx → x.state = .active ∨ x.state = .draining →
    x.head < x.tail → ringSlot s q x.head false = .ok y u → slotItem u y = (item, bad, v) →
    let v' := modQueue v q (fun x => { x with head := x.head + 1 })
    exec (.launchQueueItem ctx) s = .next (serveQueue (schedule v' v'.now (.nodeSignal ctx (item % 2 ^ 32))) q)

/-- When launch items are taken is the model's reading (log entry 60). -/
def Obligations.queue_control_and_events : Prop := queueControlClaim ∧ queueEventsClaim

/-! ## Exceptions, contexts and the system registers (R360 to R383) -/

/-- R371, R372: taking an exception of the handler class in mode NORMAL with a handler declared. The code, its flags and its INFO go to
`%trapcode`, the address of the instruction to `%trappc`, the fault's address to `%trapaddr`; the mode becomes TRAP and the PC is
the handler's; registers, `%fpc` and the generator stay, and so do every other thread and the memory. -/
def Sys2Proof.exceptionEntryClaim : Prop := ∀ (s : State) (core : Nat) (pc next : Word64) (r : ThrRef) (f : Flt),
  let hdr := (teamOf s r.team).hdr
  f.wait = false → (thrOf s r).mode = .normal → hdr.traph ≠ 0#64 →
  let t := deliver core pc next [(r, f)] s
  (thrOf t r).mode = .trap ∧ (thrOf t r).stat = .ready ∧ (thrOf t r).pc = hdr.addr + hdr.traph ∧
  (thrOf t r).trapcode = BitVec.ofNat 32 (f.code + f.flags * 2 ^ 8 + f.info * 2 ^ 16) ∧
  (thrOf t r).trappc = (if f.after then next else pc) ∧ (thrOf t r).trapaddr = f.addr ∧
  (thrOf t r).v = (thrOf s r).v ∧ (thrOf t r).fpc = (thrOf s r).fpc ∧ (thrOf t r).rng = (thrOf s r).rng ∧
  (∀ k, k ≠ thrKey r → tget t.threads k = tget s.threads k) ∧ t = { s with threads := t.threads }

/-- R369, R372 to R374: any other fault puts the thread into FAULT_WAIT at its instruction, under a token of its context, group slot
and core; its registers stay. The record goes to the fault queue, and without one the context is FAULTED with the code as its cause. -/
def Sys2Proof.exceptionWaitsClaim : Prop := ∀ (s : State) (core : Nat) (pc next : Word64) (r : ThrRef) (f : Flt),
  let tm := teamOf s r.team
  f.wait = true ∨ (thrOf s r).mode ≠ .normal ∨ tm.hdr.traph = 0#64 →
  let t := deliver core pc next [(r, f)] s
  (∃ tok : Word64, (thrOf t r).stat = .faultWait tok false ∧ tok.toNat / 2 ^ 48 = tm.ctx % 64 ∧ tok.toNat % 2 ^ 12 = core % 2 ^ 12) ∧
  (thrOf t r).pc = pc ∧ (thrOf t r).mode = (thrOf s r).mode ∧ (thrOf t r).v = (thrOf s r).v ∧ (thrOf t r).fpc = (thrOf s r).fpc ∧
  (∀ k, k ≠ thrKey r → tget t.threads k = tget s.threads k) ∧ t.mem = s.mem ∧
  ((ctxOf s tm.ctx).sysq.getLsbD 28 = false → (ctxOf s tm.ctx).state = .running →
    (ctxOf t tm.ctx).state = .faulted ∧ (ctxOf t tm.ctx).cause = BitVec.ofNat 8 f.code) ∧
  ((ctxOf s tm.ctx).sysq.getLsbD 28 = true → ∃ d ∈ t.items, d.queue = (ctxOf s tm.ctx).sysq.toNat / 2 ^ 16 % 4096 ∧
    d.bytes.length = 64 ∧ d.ctx = tm.ctx)

/-- R380, R381: `TRAP n` enters the handler with SOFTWARE, n as its INFO and the address after it in `%trappc`. `SYSCALL n` puts the
thread into FAULT_WAIT after the instruction. R382: `RFT` returns to `%trappc`, `RFT` with a target to that; `RFT.SAVE` ends a save
routine; `RFT.REST` resumes at its target; each sets mode NORMAL but the save, which leaves the thread saved. -/
def Sys2Proof.trapsAndReturnsClaim : Prop := ∀ (b : Base) (s : State) (p : Packet) (r : ThrRef),
  let th := thrOf s r
  let hdr := (teamOf s r.team).hdr
  let pair : Opnds := baseOpnds b 2 0 0
  let keeps := fun (t : State) => (thrOf t r).v = th.v ∧ (thrOf t r).fpc = th.fpc ∧ (thrOf t r).trapcode = th.trapcode ∧ t.mem = s.mem
  let back := fun (i : Instr) (pc : Word64) => ∃ t, exec i s = .next t ∧ (thrOf t r).mode = .normal ∧ (thrOf t r).stat = .ready ∧
    (thrOf t r).pc = pc ∧ keeps t
  (Alone { g := b.g } s p r → th.mode = .normal → hdr.traph ≠ 0#64 →
    ∃ t, exec (.trap b) s = .next t ∧ (thrOf t r).mode = .trap ∧ (thrOf t r).pc = hdr.addr + hdr.traph ∧
      (thrOf t r).trapcode = BitVec.ofNat 32 (0x14 + b.sa.toNat * 2 ^ 16) ∧ (thrOf t r).trappc = p.next ∧
      (thrOf t r).trapaddr = 0#64 ∧ (thrOf t r).v = th.v ∧ t.mem = s.mem) ∧
  (Alone { g := b.g, srcs := [(4, false), (5, false), (6, false), (7, false)] } s p r → 8 ≤ (teamOf s p.team).hdr.regs →
    ∃ t tok, exec (.syscall b) s = .next t ∧ (thrOf t r).stat = .faultWait tok true ∧ (thrOf t r).pc = p.next ∧
      (thrOf t r).mode = th.mode ∧ keeps t) ∧
  (Alone { g := b.g } s p r → th.mode = .trap → back (.rft b) th.trappc) ∧
  (Alone pair s p r → th.mode = .trap → (pairVal th b.sa.toNat).toNat % 4 = 0 → back (.rftTarget b) (pairVal th b.sa.toNat)) ∧
  (Alone pair s p r → th.mode = .rest → (pairVal th b.sa.toNat).toNat % 4 = 0 → back (.rftRest b) (pairVal th b.sa.toNat)) ∧
  (Alone { g := b.g } s p r → th.mode = .save → emptyRegs th = [] → Freed s r 5 none →
    ∃ t, exec (.rftSave b) s = .next t ∧ (thrOf t r).stat = .saved ∧ (thrOf t r).mode = .save ∧ keeps t ∧
      .teamSaved r.team ∈ tgetD t.timers s.now [])

/-- R53: a fetch that faults faults every thread of the packet at the packet's address; one of translation waits for software. -/
def Sys2Proof.fetchFaultsClaim : Prop := ∀ (s : State) (p : Packet) (r : ThrRef) (code : Byte) (cause : Nat),
  s.cur = some p → p.refs = [r] → exec (.fetchFault code cause) s = .next (deliver p.core p.pc p.next [(r,
    { code := code.toNat, addr := p.pc, aux := cause, kind := 0,
      wait := decide (code = 0x06#8 ∨ (code = 0x09#8 ∧ cause ≠ 0)),
      page := if cause = 0 then none else some (p.pc.toNat / 65536) })] s)

/-- R383: supervisor code reads and writes the system registers with `RDSYS` and `WRSYS`, at a multiple of 8 outside the host's block,
once its earlier accesses are performed. -/
def Obligations.system_registers : Prop := ∀ (b : Base) (e1 : Word32) (s : State) (p : Packet) (r : ThrRef),
  let o := (if b.md = 1#4 then lo32 (thrSreg s r b.sa.toNat) + e1 else e1).toNat
  o % 8 = 0 → o < 0xF00000 ∨ 0x1000000 ≤ o → (∀ q ∈ reqsOf s r, q.performed = true) →
  (Alone (baseOpnds b 0 0 2 true) s p r → ∃ t, exec (.rdsys b e1) s = .next t ∧
    thrOf t r = stepped (thrClock s r) p.next (putPair (thrOf s r) b.dst.toNat (sysRead s o)) ∧ t.mem = s.mem ∧ t.ctxs = s.ctxs) ∧
  (Alone (baseOpnds b 0 2 0 true) s p r → exec (.wrsys b e1) s =
    .next (advance (sysWrite s .supervisor o (pairVal (thrOf s r) b.sb.toNat)) r p.next))

/-- R52, R360, R372: an instruction that only supervisor code may execute, executed by a thread of a context other than 0 that is otherwise
ready for it, takes PRIV at its own address and has no effect. -/
def Obligations.privilege : Prop := ∀ (b : Base) (e1 : Word32) (w : QueueWord) (s : State) (p : Packet) (r : ThrRef) (i : Instr) (o : Opnds),
  let one := baseOpnds b 0 0 1 true
  let two := baseOpnds b 0 0 2 true
  let none' : Opnds := { g := b.g, priv := true }
  (i, o) ∈ [(.rdsys b e1, two), (.wrsys b e1, baseOpnds b 0 2 0 true), (.ctxctlCmd b e1, one), (.ctxctlExm b e1, one),
    (.fresRetry b, one), (.fresRetryD b, one), (.fresKill b, one), (.pgmapLeaf b e1, one), (.pgmapTable b e1, one), (.pgmove b, one),
    (.pginv b, one), (.pginvAbs b, one), (.pginvTlb b, one), (.pgdirty b, two), (.pgdirtyPeek b, two), (.qctlCreate b w, none'),
    (.qctlFreeze b w, none'), (.qctlThaw b w, none'), (.qctlDrain b w, none'), (.qctlDestroy b w, none'), (.qctlSetptr b w, none')] →
  s.cur = some p → p.refs = [r] → r.team = p.team → regsOk o (teamOf s p.team).hdr.regs = true →
  (regOf (thrOf s r) o.g.gr.toNat).full = true → (regOf (thrOf s r) o.g.gr.toNat).poison = false →
  guardBit (thrOf s r) o.g = true → missing o (thrOf s r) = [] → (teamOf s r.team).ctx ≠ 0 → (∀ e ∈ s.moves, e.1 < s.nextId) →
  exec i s = .next (deliver p.core p.pc p.next [(r, flt 0x04)] s)

/-- R365, R377 to R379, R384: `CTXCTL` gives the command to a context, and its status to the register: 0, 2 where the controller is
busy, 3 for context 0, and 1 for a command refused; `CTXCTL.EXM` gives a HELD group its execute mask. -/
def Sys2Proof.contextControlInstructionsClaim : Prop := ∀ (b : Base) (e1 : Word32) (s : State) (p : Packet) (r : ThrRef),
  let o := baseOpnds b 0 0 1 true
  let h := thrSreg s r b.sa.toNat
  let status := fun (t : State) (v : Nat) => b.dst ≠ 0#10 → regVal (thrOf t r) b.dst.toNat = BitVec.ofNat 32 v
  Alone o s p r →
  (h.toNat % 64 ≠ 0 → ∀ v u, command s .supervisor (h.toNat % 64) (e1.toNat % 16) = (v, u) → thrOf u r = thrOf s r →
    teamOf u r.team = teamOf s r.team → ∃ t, exec (.ctxctlCmd b e1) s = .next t ∧
      status t (if v = 0 ∨ v = 2 then v else 1) ∧ t.ctxs = u.ctxs ∧ t.mem = u.mem) ∧
  (h.toNat % 64 = 0 → ∃ t, exec (.ctxctlCmd b e1) s = .next t ∧ status t 3 ∧ t.ctxs = s.ctxs ∧ t.mem = s.mem) ∧
  ∀ k gid, h.toNat / 2 ^ 24 % 64 ≠ 0 → groupNamed s h = some (k, gid) → (grpOf s k gid).state = .held → k ≠ r.team →
    lo32 (thrSreg s r b.sb.toNat) ≠ 0#32 → ∃ t, exec (.ctxctlExm b e1) s = .next t ∧ status t 0 ∧
      (grpOf t k gid).exm = lo32 (thrSreg s r b.sb.toNat) ∧ (grpOf t k gid).state = .active

/-- R375, R376: `FRES` gives status 1 where nothing waits under the token; else the release is taken, the threads, copy or collective
that wait under it go on by the form, and the status is 0. -/
def Sys2Proof.faultResolutionClaim : Prop := ∀ (b : Base) (s : State) (p : Packet) (r : ThrRef),
  let tok := thrSreg s r b.sa.toNat
  let v := thrSreg s r b.sb.toNat
  let put := fun (u : State) (n : Word32) => advance (modThr u r (fun th => putReg th b.dst.toNat n)) r p.next
  Alone (baseOpnds b 0 0 1 true) s p r →
  (fresTarget s tok = false → exec (.fresRetry b) s = .next (put s 1#32) ∧ exec (.fresRetryD b) s = .next (put s 1#32) ∧
    exec (.fresKill b) s = .next (put s 1#32)) ∧
  (fresTarget s tok = true → Freed s r 5 none →
    let u := freed s r
    exec (.fresRetry b) s = .next (put (fresAct .retry v u tok) 0#32) ∧
    exec (.fresRetryD b) s = .next (put (fresAct .data v u tok) 0#32) ∧
    exec (.fresKill b) s = .next (put (fresAct .kill v u tok) 0#32))

/-- R364, R366, R368: a command on a context is run, or refused with status 3 for a context that does not exist and 4 for a source that
may not give it (R365: function n RUN and PREEMPT of its own context, supervisor code those of every context but 0, function 0 all); the events
of the seven commands are that. -/
def Obligations.context_commands : Prop := ∀ (s : State) (src : CmdSource) (c : Nat),
  exec (.ctxBuild src c) s = .next (command s src c 1).2 ∧ exec (.ctxCommit src c) s = .next (command s src c 2).2 ∧
  exec (.ctxRun src c) s = .next (command s src c 3).2 ∧ exec (.ctxPreempt src c) s = .next (command s src c 4).2 ∧
  exec (.ctxMigrate src c) s = .next (command s src c 5).2 ∧ exec (.ctxAdopt src c) s = .next (command s src c 6).2 ∧
  exec (.ctxTeardown src c) s = .next (command s src c 7).2 ∧
  (64 ≤ c → ∀ cmd, command s src c cmd = (3, s)) ∧
  (∀ cmd, c < 64 → s.kiln.stopped = false → mayCommand src c cmd = false →
    (command s src c cmd).1 = 4 ∧ (ctxOf (command s src c cmd).2 c).cmdst = 4#8 ∧
    ctxOf (command s src c cmd).2 c = { ctxOf s c with cmdst := 4#8 } ∧ ∀ n, n ≠ c → ctxOf (command s src c cmd).2 n = ctxOf s n) ∧
  (∀ n cmd, mayCommand (.vf n) c cmd = (n == c && (cmd == 3 || cmd == 4))) ∧ (∀ cmd, mayCommand .pf c cmd = true) ∧
  (∀ cmd, mayCommand .supervisor c cmd = (c != 0)) ∧
  ∀ cmd, c < 64 → s.kiln.stopped = false → mayCommand src c cmd = true → ctxStopped s c = false → (ctxOf s c).busy = false →
    let u := (command s src c cmd).2
    ((ctxOf s c).state = .free → (cmd = 1 → (command s src c cmd).1 = 0 ∧ (ctxOf u c).state = .building) ∧
      (cmd ≠ 1 → 1 ≤ cmd → cmd < 8 → (command s src c cmd).1 = 1 ∧ (ctxOf u c).state = .free)) ∧
    ((ctxOf s c).state = .ready → cmd = 3 → (ctxOf u c).state = .running ∧ .placementPass ∈ tgetD u.timers s.now []) ∧
    ((ctxOf s c).state ≠ .free → (ctxOf s c).state ≠ .teardown → cmd = 7 → (ctxOf u c).state = .teardown)

def Obligations.taking_an_exception : Prop := exceptionEntryClaim ∧ exceptionWaitsClaim

/-- Which faults of a fetch wait is the model's reading (log entry 55). -/
def Obligations.traps_returns_and_fetch_faults : Prop := trapsAndReturnsClaim ∧ fetchFaultsClaim

/-- Status 3 for context 0 is the model's reading (log entry 60). -/
def Obligations.context_control_and_fault_resolution : Prop := contextControlInstructionsClaim ∧ faultResolutionClaim

/-! ## The page (R384 to R411) -/

/-- R405, R409: a page instruction whose operands are sound is taken once for its packet: it gets an id, its threads wait for it, and it
runs as far as nothing stands in its way; it goes on when what it waited for is over. -/
def Sys2Proof.pageInstructionsClaim : Prop := ∀ (b : Base) (e1 : Word32) (s : State) (p : Packet) (r : ThrRef) (i : Instr) (k : PageKind) (kd : Nat)
    (priv : Bool),
  (i, k, kd, priv) ∈ [(.pgmapLeaf b e1, .leaf (e1.toNat % 4), 1, true), (.pgmapTable b e1, .table (e1.toNat % 4), 1, true),
    (.pgshare b, .share false, 1, false), (.pgshareCow b, .share true, 1, false), (.pgunshare b, .unshare, 1, false),
    (.pgmove b, .move, 1, true), (.pginv b, .inv 0, 1, true), (.pginvAbs b, .inv 1, 1, true), (.pginvTlb b, .inv 2, 1, true),
    (.pgdirty b, .dirty false, 2, true), (.pgdirtyPeek b, .dirty true, 2, true)] →
  let o := baseOpnds b 0 0 kd priv
  let id := s.nextId
  Leads o s p r → ∀ m, pageOpen k b p r s = .ok m →
    let taken := setMove { s with nextId := id + 1 } id { m with thrs := p.refs.filter (takesPart o s) }
    exec i s = .next (pageRun 16 (runThreads o p (fun t s => .left (makeWait s t (.pageOp id))) taken) id)

/-- An address that no frame record overlaps. -/
def Sys2Proof.OffRecords (s : State) (a : Nat) : Prop := ∀ pa i, frameIndex pa = some i → a + 8 ≤ recordAt s i ∨ recordAt s i + 8 ≤ a

/-- The share counts after a change that gives the frames of `up` one more and takes one from those of `down` (R395, R406). -/
def Sys2Proof.Shares (s t : State) (up down : List Nat) : Prop := ∀ f, (frameIndex (f * 65536)).isSome = true →
  recShare (recOf t f) = recShare (recOf s f) + (if f ∈ up then 1 else 0) - (if f ∈ down then 1 else 0)

/-- The frames counted by an entry: of a valid leaf those it names that have records. -/
def Sys2Proof.framesOf (e : Word64) (level : Nat) : List Nat := if isValidLeaf e then counted e level else []

/-- R406 to R411: what a page instruction writes, on a W8 where no words are owned. `PGMAP.LEAF` writes the entry, gives one more share to
frames that it newly names, the first under the context's OWNER, and takes one from those that it no longer names; `PGMAP.TABLE` writes the
entry; `PGSHARE` writes the source's entry, with A and D clear and COW where it asks for it, which the source's entry then has too, and
gives its frame one more share; `PGUNSHARE` and `PGINV` empty the entry, `PGINV.ABS` leaves it ABSENT, and its frames lose one share;
`PGINV.TLB` writes nothing; `PGDIRTY` gives the D bits and clears them, `PGDIRTY.PEEK` only gives them; `PGMOVE` marks both frames MOVE. A
frame whose share falls to 0 is among those that return (R397). -/
def Sys2Proof.pageTablesClaim : Prop := ∀ (s : State) (m : Move), s.spans = [] → s.t1 = false → memWf s.mem = true →
  (ctxOf s m.ctx).state ≠ .free → (ctxOf s m.ctx2).state ≠ .free →
  let r := actPage s m
  let falls := fun (down : List Nat) (va : Nat) => ∀ f ∈ down, recShare (recOf s f) = 1 → (f, va) ∈ r.m.zeroed
  (∀ level a, m.kind = .leaf level → entryAddr s m.ctx m.va level = some a → OffRecords s a →
    m.entry = 0#64 ∨ (isValidLeaf m.entry = true ∧ newLeafOk s m.entry level m.va = true) →
    (leafV (entryWord s a) = true → leafLeaf (entryWord s a) = true) →
    let new := framesOf m.entry level
    let old := framesOf (entryWord s a) level
    m.ctx = 0 ∨ inFrameTable s new = false → overflows s (without new old) = false →
    r.status = 0 ∧ entryWord r.s a = m.entry ∧ Shares s r.s (without new old) (without old new) ∧
    (∀ f ∈ without new old, recShare (recOf s f) = 0 → recOwner (recOf r.s f) = m.ctx % 64) ∧ falls (without old new) (pageBase m.va level)) ∧
  (∀ level a, m.kind = .table level → entryAddr s m.ctx m.va level = some a →
    m.entry = 0#64 ∨ (leafLeaf m.entry = false ∧ tableEntryOk m.entry = true) →
    r.status = 0 ∧ entryWord r.s a = m.entry ∧ ∀ x, x < a ∨ a + 8 ≤ x → memRead r.s.mem x = memRead s.mem x) ∧
  (∀ cow e a d, m.kind = .share cow → leafAt s m.ctx2 m.va2 = some (e, 3, a) → leafForm e 3 = true → counted e 3 ≠ [] →
    (m.user = true → leafR e = true) → entryAddr s m.ctx m.va 3 = some d → leafV (entryWord s d) = false →
    m.ctx = 0 ∨ inFrameTable s (counted e 3) = false → overflows s (counted e 3) = false → OffRecords s a → OffRecords s d →
    r.status = 0 ∧ Shares s r.s (counted e 3) [] ∧
    entryWord r.s d = (e &&& ~~~(0xE0000#64)) ||| (if leafCow e ∨ cow then 1#64 <<< 19 else 0#64) ∧
    entryWord r.s a = if cow then e ||| (1#64 <<< 19) else e) ∧
  (∀ e a, m.kind = .unshare → leafAt s m.ctx m.va = some (e, 3, a) → leafForm e 3 = true → counted e 3 ≠ [] → OffRecords s a →
    r.status = 0 ∧ entryWord r.s a = 0#64 ∧ Shares s r.s [] (counted e 3) ∧ falls (counted e 3) (pageBase m.va 3)) ∧
  (∀ mode e level a, m.kind = .inv mode → mode < 2 → m.count = 1 → m.va % 65536 = 0 → m.va < 2 ^ 56 →
    leafAt s m.ctx m.va = some (e, level, a) → OffRecords s a →
    r.status = 0 ∧ entryWord r.s a = (if mode = 0 then 0#64 else putBits (putBits e 28 36 0) 12 2 3) ∧
    Shares s r.s [] (counted e level) ∧ falls (counted e level) (pageBase m.va level)) ∧
  (m.kind = .inv 2 → r.s.mem = s.mem) ∧
  (∀ peek, m.kind = .dirty peek → m.result = 0#64 → r.status = 0 ∧ ∀ i, i < 64 →
    let leaf := leafAt s m.ctx (m.va + i * 65536)
    r.m.result.getLsbD i = (match leaf with | some (e, _, _) => leafD e | none => false) ∧
    ∀ e level a, leaf = some (e, level, a) → entryWord r.s a = if peek then e else e &&& ~~~(0x40000#64)) ∧
  ∀ old a, m.kind = .move → leafAt s m.ctx m.va = some (old, 3, a) → leafForm old 3 = true → leafTier old ≠ 3 → isValidLeaf m.entry = true →
    newLeafOk s m.entry 3 m.va = true → leafTier m.entry ≠ 3 → (∀ f ∈ counted old 3, recShare (recOf s f) = 1) →
    (∀ f ∈ counted m.entry 3, recShare (recOf s f) = 0 ∧ recMove (recOf s f) = false) →
    m.ctx = 0 ∨ inFrameTable s (counted m.entry 3) = false → OffRecords s a →
    r.status = 0 ∧ (∀ f ∈ counted old 3 ++ counted m.entry 3, recMove (recOf r.s f) = true) ∧ Shares s r.s [] [] ∧ entryWord r.s a = old

/-- R409: the end of a move, where the two frames differ: the new frame has SHARE 1, the context as OWNER, the old one's POISON and MOVE
clear, the old one SHARE 0 and MOVE clear; the entry is the one given, with A and D as the old entry has them. -/
def Sys2Proof.pageMovedClaim : Prop := ∀ (s : State) (m : Move), s.spans = [] → s.t1 = false → memWf s.mem = true → OffRecords s m.entryAt →
  rangeOf m.entryAt = .hbm ∨ rangeOf m.entryAt = .pinned → moveFrom m ≠ moveTo m → (frameIndex (moveFrom m * 65536)).isSome = true →
  (frameIndex (moveTo m * 65536)).isSome = true →
  let t := remap s m
  let new := recOf t (moveTo m)
  let old := recOf t (moveFrom m)
  recShare new = 1 ∧ recOwner new = m.ctx % 64 ∧ recMove new = false ∧ recPoison new = recPoison (recOf s (moveFrom m)) ∧
  recShare old = 0 ∧ recMove old = false ∧
  entryWord t m.entryAt = (m.entry &&& ~~~(0x60000#64)) ||| (entryWord s m.entryAt &&& 0x60000#64)

/-- R403, R405: an instruction in progress that nothing stands in the way of takes its next part; its first is what it does to the tables,
and it ends at once, its threads given the status, where that is not 0. -/
def Sys2Proof.pageCourseClaim : Prop := ∀ (s : State) (id n : Nat) (m : Move), s.spans = [] → s.t1 = false → tget s.moves id = some m →
  m.kind ≠ .frame → pageBlocked s id m = false →
  pageRun (n + 1) s id = pageRun n (pageStage s id m) id ∧
  (m.stage = 0 → (pageStage s id m).mem = (actPage s m).s.mem) ∧
  ∀ t, m.stage = 0 → (actPage s m).status ≠ 0 → m.thrs = [t] → (thrOf (actPage s m).s t).stat = .waiting (.pageOp id) →
    (∀ peek, m.kind ≠ .dirty peek) →
    (thrOf (pageStage s id m) t).stat = .ready ∧ (thrOf (pageStage s id m) t).pc = (thrOf (actPage s m).s t).pc + BitVec.ofNat 64 m.len ∧
    (m.dst ≠ 0 → regVal (thrOf (pageStage s id m) t) m.dst = BitVec.ofNat 32 (actPage s m).status)

/-- R397, R398, R409: a page operation goes on; a freed frame that no pinned line keeps returns, as an item of the context's frame
queue where it has one. R222, R401: an uncorrectable error of a tier poisons the 32 words of its line; where the line's frame has a record
that is not yet marked, the record is marked and its owner's fault queue gets POISON. R131: a parity error in a register's copy poisons
that register, whose value stays. -/
def Sys2Proof.pageEventsClaim : Prop := ∀ (s : State),
  (∀ id, exec (.pageMoveComplete id) s = .next (pageRun 16 s id)) ∧
  (∀ frame va e, s.moves.find? (fun e => e.2.kind == .frame && e.2.frames == [frame] && e.2.va == va.toNat) = some e →
    (∀ l ∈ pinnedLines s, lineFrame l ≠ frame) →
    let u := touchFrames (dropFrame { s with moves := tdel e.1 s.moves } frame) [frame]
    let x := ctxOf u (recOwner (recOf u frame))
    exec (.frameReturn frame va) s = .next (if x.sysq.getLsbD 44 then
      produce u (recOwner (recOf u frame)) (x.sysq.toNat / 2 ^ 32 % 4096) (.frame (frame * 65536))
        (frameItem frame (recPoison (recOf u frame)) va.toNat) else u)) ∧
  (∀ line words, ∃ u : State, (∀ w, w ∈ u.poison ↔ w ∈ s.poison ∨ w / 32 = line) ∧ u.mem = s.mem ∧ u.threads = s.threads ∧
    (frameIndex (line * 128) = none → exec (.homeUncorrectableError (.tier line words)) s = .next u) ∧
    ∀ i, frameIndex (line * 128) = some i →
      let v := touchRec u (line * 128)
      exec (.homeUncorrectableError (.tier line words)) s = .next (if recPoison (frameRec v i) then v else
        sendRecord (modRec v i (fun r => r ||| (1#64 <<< 16))) (recOwner (frameRec v i)) (BitVec.ofNat 64 (line / 512 * 65536)) 0#64
          (line * 128) 0#64 0 0xFFFFFFFF 5 6 0 0x09 false)) ∧
  ∀ r n, (tget s.threads (thrKey r)).isSome → n ≠ 0 → (regOf (thrOf s r) n).full = true →
    ∃ t, exec (.homeUncorrectableError (.reg r n)) s = .next t ∧ t.mem = s.mem ∧
      regOf (thrOf t r) n = { regOf (thrOf s r) n with poison := true } ∧
      (∀ m, m ≠ n → regOf (thrOf t r) m = regOf (thrOf s r) m) ∧ ∀ k, k ≠ thrKey r → tget t.threads k = tget s.threads k

/-- The frame's address in its item and the return as an event are the model's choice (log entries 57 and 58). -/
def Obligations.page_operations : Prop := pageInstructionsClaim ∧ pageTablesClaim ∧ pageMovedClaim ∧ pageCourseClaim ∧ pageEventsClaim

/-! ## Nodes, saving and residence (R132 to R136, R327 to R336, R364, R376 to R379) -/

/-- R327 to R334: a signal of a node of the graph whose counting word is RESET, with PRED above 0, counts PRED down by one, and the
signal that reaches 0 launches the node; any other is ignored and logged. A placement pass walks the pool in order of priority and
stamp, then fills it; an entry that has placed nothing for 100 µs becomes blocking. -/
def Sys2Proof.nodeEventsClaim : Prop := ∀ (s : State),
  (∀ ctx node, (ctxOf s ctx).gtsize ≤ node → exec (.nodeSignal ctx node) s = .next (signalIgnored s ctx node)) ∧
  (∀ ctx node u0, node < (ctxOf s ctx).gtsize → virtPa s ctx (nodeVa s ctx node + 40) true = (none, u0) →
    exec (.nodeSignal ctx node) s = .next (signalIgnored u0 ctx node)) ∧
  (∀ ctx node pa u0, node < (ctxOf s ctx).gtsize → virtPa s ctx (nodeVa s ctx node + 40) true = (some pa, u0) →
    remoteSpans u0 (pa / 128) (wordMask (pa % 128) 8) = [] →
    let u := unitTouch u0 pa 8
    let x := BitVec.ofNat 64 (leNat (physRead u pa 8))
    let v := devWrite u pa (leBytes (putBits x 0 16 (wordPred x - 1)).toNat 8)
    exec (.nodeSignal ctx node) s = .next (afterServe
      (if wordState x ≠ 0 ∨ wordPred x = 0 then signalIgnored u ctx node else if wordPred x = 1 then launchNode v ctx node else v))) ∧
  (let pool := ((runsOf s).filter (·.pooled)).mergeSort poolBefore
   let u := walkPool pool [] [] s
   exec .placementPass s = .next (fillPool u.nodes.length u)) ∧
  ∀ ctx node run, runOf s ctx node = some run → run.pooled = true → run.since + 100000 * 3024 ≤ s.now →
    ∃ t, exec (.placementBlockTimeout ctx node) s = .next t ∧ (runOf t ctx node).map (·.blocking) = some true

/-- R377, R364, R376: a team whose threads are all saved or exited, with its commands drained, is saved; a context that has not saved
its teams by its deadline is FAULTED with PREEMPT_TIMEOUT; a torn-down context with no write on its way is FREE; the participants of
a rendezvous that has not met by the end of a watchdog period take WATCHDOG, in a ratio stop of their quad when it ends. -/
def Sys2Proof.saveEventsClaim : Prop := ∀ (s : State),
  (∀ k, exec (.teamSaved k) s = .next
    (let u := if saveReady s k then saveTeam s k else s
     ctxSettle u (teamOf u k).ctx)) ∧
  (∀ c t, (ctxOf s c).countSince = some t → (ctxOf s c).state = .preempting →
    (ctxOf s c).limit ≤ (ctxOf s c).counted + (s.now - t) →
    (∃ e ∈ ctxTeams s c, e.2.state ≠ .saved ∧ e.2.state ≠ .exited) →
    exec (.preemptDeadline c) s = .next (ctxFault s c 0x11)) ∧
  (∀ c, (ctxOf s c).state = .teardown → ctxWrites s c = false → ∃ t, exec (.teardownComplete c) s = .next t ∧
    (ctxOf t c).state = .free ∧ (ctxOf t c).busy = false) ∧
  ∀ team gid ls, groupLanes.findSome? (stuckAt s team gid) = some ls →
    let ref := fun (l : Nat) => ({ team := team, gid := gid, lane := l } : ThrRef)
    let q := coreQuad (teamOf s team).core
    exec (.rendezvousWatchdog team gid) s = .next (if (quadOf s q).stopUntil.isSome then
      modQuad s q (fun x => { x with latched := x.latched ++ ls.map (fun l => (ref l, flt 0x18)) })
    else ((ls.map (fun l => (thrOf s (ref l)).pc)).eraseDups).foldl (fun u pc =>
      deliver (teamOf s team).core pc pc
        ((ls.filter (fun l => (thrOf s (ref l)).pc == pc)).map (fun l => (ref l, flt 0x18))) u) s)

/-- R133, R134: a move out of a home lane starts with the victim of the lane, when a thread that would be READY has no room there; when
it ends the thread is BACKED; a backed thread whose bank has room is recalled, and RESIDENT at the end. A move takes one core clock for
each block of 32 registers and then 60 ns; its registers never change. -/
def Sys2Proof.residenceClaim : Prop := ∀ (s : State) (r : ThrRef),
  let k := thrClock s r + ((teamOf s r.team).hdr.regs + 31) / 32
  let quad := coreQuad (thrCore s r)
  let begun := fun (t : State) (e : Instr) => (thrOf t r).move = .clk k ∧ (thrOf t r).v = (thrOf s r).v ∧
    e ∈ tgetD (tgetD t.ctimers quad []) k []
  let tail := fun (e : Instr) => ∀ n, (thrOf s r).move = .clk n → n ≤ thrClock s r → ∃ t, exec e s = .next t ∧
    (thrOf t r).move = .tick (s.now + 60 * 3024) ∧ (thrOf t r).res = (thrOf s r).res ∧ (thrOf t r).v = (thrOf s r).v ∧
    e ∈ tgetD t.timers (s.now + 60 * 3024) []
  let ended := ∃ u, (thrOf s r).move = .tick u ∧ u ≤ s.now
  (∀ core lane, movingOut s core lane = false →
    ((recallable s).any fun t => thrCore s t == core && t.lane == lane && !bankHasRoom s t) = true → bankVictim s core lane = some r →
    ∃ t, exec (.moveOutStart core lane) s = .next t ∧ (thrOf t r).res = .movingOut ∧ begun t (.moveOutComplete r)) ∧
  ((thrOf s r).res = .movingOut → tail (.moveOutComplete r)) ∧
  ((thrOf s r).res = .movingOut → ended → (thrOf s r).held = [] → ∃ t, exec (.moveOutComplete r) s = .next t ∧ (thrOf t r).res = .backed ∧
    (thrOf t r).v = (thrOf s r).v) ∧
  (r ∈ recallable s → bankHasRoom s r = true → ∃ t, exec (.recallStart r) s = .next t ∧ (thrOf t r).res = .recalling ∧
    begun t (.recallComplete r)) ∧
  ((thrOf s r).res = .recalling → tail (.recallComplete r)) ∧
  ((thrOf s r).res = .recalling → ended → (thrOf s r).held = [] → ∃ t, exec (.recallComplete r) s = .next t ∧
    (thrOf t r).res = .resident ∧ (thrOf t r).v = (thrOf s r).v)


/-- Which of two equal victims of two teams moves is the model's choice (log entry 67). -/
def Obligations.register_residence : Prop := residenceClaim

/-! ## The Damper and the clamp (R445 to R457) -/

/-- R447, R448, R450, R452, R456: the grants of a boundary are a prefix of the list, within T + B, and stop at the first that does not
fit; one head request above B is granted alone, and a raw load above T + B grants nothing, both of which count as an excess. A request
that is still in the list when its deadline's boundary has granted what it grants has missed it, unless it was submitted at that very
tick and fits what the boundary left (log entry 27). The estimate falls by at most B unless ballast is dropped, and a quad takes ballast up to its cap, none when gated or offline. A clamp
raise doubles the pass count and a clamp lower halves it, never below the floor. -/
def Sys2Proof.damperClaim : Prop :=
  (∀ (d : Damper) (r0 : Nat), let g := boundaryGrants d r0
    (∃ rest, d.reqs = g.1 ++ rest ∧ (g.2.2 = false → ∀ r, rest.head? = some r → d.t + d.bound < g.2.1 + r.load)) ∧
    g.2.1 = r0 + (g.1.map (·.load)).sum ∧ (g.2.2 = false → g.2.1 ≤ d.t + d.bound) ∧
    (g.2.2 = true → (g.1 = [] ∧ d.t + d.bound < r0) ∨ ∃ r, g.1 = [r] ∧ d.bound < r.load ∧ r0 ≤ d.t)) ∧
  (∀ (s : State) (t0 : Nat), let u := estimate s t0
    let r := rawLoad s
    let g := t0 - s.damper.bound - r
    let x := divide (modelQuads s) s g
    x.1 ≤ g ∧ u.damper.r = r ∧ u.damper.t = r + (g - x.1) ∧ u.damper.short = s.damper.short + BitVec.ofNat 64 x.1 ∧
      (x.1 = 0 → t0 - s.damper.bound ≤ u.damper.t)) ∧
  (∀ (s : State) (q left : Nat), let x := divide [q] s left
    let k := left - x.1
    x.1 ≤ left ∧ k ≤ (quadOf s q).share - activeLoad s q ∧ (takesBallast s q = false → k = 0) ∧
      (quadOf x.2 q).balPending = (quadOf s q).balPending + k ∧ (quadOf x.2 q).share = activeLoad s q + k) ∧
  (∀ s : State, s.now % windowTicks = 0 → s.damper.win < s.now / windowTicks →
    let w := s.now / windowTicks
    let u := (s.quads.map (·.1)).foldl clampQuad (scheduleOnce s (s.now + windowTicks) .windowBoundary)
    let d := u.damper
    let g := boundaryGrants d (rawLoad u)
    let late := d.reqs.filter (fun r => !g.1.contains r && (match r.deadline with | some x => decide (x ≤ w) | none => false))
    let v := { u with damper := { d with
      reqs := d.reqs.filter (fun r => !g.1.contains r), win := w, spent := g.2.2, room := d.t + d.bound - g.2.1,
      excess := if g.2.2 then d.excess + 1 else d.excess } }
    exec .windowBoundary s = .next (lookLeaving (estimate (late.foldl missDeadline (g.1.foldl grantRequest v)) d.t))) ∧
  (∀ (s : State) (id d : Nat) (r : DamperReq), s.damper.reqs.find? (fun r => r.id == id) = some r → r.deadline = some d →
    (d ≤ s.now / windowTicks → d ≤ s.damper.win →
      exec (.rampDeadline id) s = .next (if stillFits s r then grantLate s r else missDeadline s r)) ∧
    (s.now / windowTicks < d ∨ s.damper.win < d → exec (.rampDeadline id) s = .next s)) ∧
  ∀ (s : State) (q : Nat), let x := quadOf s q
    (x.ilim.toNat < x.measure → x.pass.toNat < 2 → ∃ t, exec (.clampRaise q) s = .next t ∧ (quadOf t q).pass = x.pass + 1 ∧
      (quadOf t q).clampev = x.clampev + 1 ∧ t = { s with quads := t.quads }) ∧
    (16 ≤ x.quiet → ∃ t, exec (.clampLower q) s = .next t ∧ (quadOf t q).quiet = 0 ∧
      (quadOf t q).pass = (if x.floor.toNat < x.pass.toNat then x.pass - 1 else x.pass) ∧ t = { s with quads := t.quads })

/-! ## Kiln's commands, and towers (R458 to R462) -/

/-- R442, R444: an interrupt of a function on a vector is sent, or is pending in the PBA while the vector is masked, the function is in
D3hot (log entry 77) or the boot has stopped. -/
def Sys2Proof.Signalled (s t : State) (fn vec : Nat) : Prop :=
  (msixHeld s fn vec = false → t.msix = s.msix ++ [(fn, vec)] ∧ t.msixPend = s.msixPend) ∧
  (msixHeld s fn vec = true → t.msix = s.msix ∧ (fn, vec) ∈ t.msixPend)

/-- The state in which a mailbox command acts: KMARG holds its argument. -/
def Sys2Proof.argued (s : State) (arg : Word64) : State := { s with kiln := { s.kiln with arg := arg } }

/-- R458 to R460: a command while Kiln is busy or down ends with status 2 and one with a bit outside its fields with status 1, nothing
else changing; each end interrupts function 0 on vector 3. SETOP sets what a gated quad takes when it is ungated, changes the entry
at once within a ratio, stops the quad for at most 2 µs otherwise, and is queued behind a stop with status 3, or refused behind a
queued one. GATE, UNGATE, OFFLINE, ONLINE, SETBOUND, SETFLOOR and SETALARM are performed where nothing refuses them; ONLINE is refused
for a lost tower and on a T1 for any but tower 0 (R12). A boot that has stopped under the boot ROM takes no command. -/
def Sys2Proof.mailboxClaim : Prop := ∀ (s : State) (arg : Word64),
  let u := argued s arg
  let q := bits arg 0 10
  let t := bits arg 0 3
  let commands := [Instr.setop arg, .gate arg, .ungate arg, .offline arg, .online arg, .setbound arg, .setfloor arg, .setalarm arg]
  ((s.kiln.stopped && romAnswers s) = true → ∀ i, i ∈ commands → exec i s = .next s) ∧
  ((s.kiln.stopped && romAnswers s) = false →
  (∀ i, i ∈ commands →
    (s.kiln.busy.isSome = true ∨ kilnUp s = false → exec i s = .next (closeMailbox u 2)) ∧
    (kilnUp s = true → s.kiln.busy = none → arg.toNat / 2 ^ 16 ≠ 0 → exec i s = .next (closeMailbox u 1))) ∧
  (kilnUp s = true → s.kiln.busy = none →
    (bits arg 0 14 = arg.toNat → bits arg 10 2 ≠ 3 → bits arg 12 2 ≠ 3 →
      ((quadOf s q).stopUntil = none → ∃ v, exec (.setop arg) s = .next v ∧ v.kiln.status = 0#8 ∧ Signalled s v 0 3 ∧
        (quadOf v q).ratio.toNat = bits arg 10 2 ∧ (quadOf v q).entry.toNat = bits arg 12 2 ∧
        ((quadOf s q).gated = true ∨ (quadOf s q).ratio.toNat = bits arg 10 2 → (quadOf v q).stopUntil = none) ∧
        ((quadOf s q).gated = false → (quadOf s q).ratio.toNat ≠ bits arg 10 2 → ∃ x, (quadOf v q).stopUntil = some x ∧
          x ≤ s.now + 2000 * 3024 ∧ .ratioChangeComplete q ∈ tgetD v.timers x [])) ∧
      ((quadOf s q).stopUntil.isSome = true → (quadOf s q).nextOp = none → ∃ v, exec (.setop arg) s = .next v ∧
        v.kiln.status = 3#8 ∧ (quadOf v q).nextOp = some arg) ∧
      ((quadOf s q).stopUntil.isSome = true → (quadOf s q).nextOp.isSome = true → exec (.setop arg) s = .next (closeMailbox u 2))) ∧
    (bits arg 0 10 = arg.toNat →
      (quadBusy s q = true → exec (.gate arg) s = .next (closeMailbox u 1)) ∧
      (quadBusy s q = false → ∃ v, exec (.gate arg) s = .next v ∧ v.kiln.status = 0#8 ∧ (quadOf v q).gated = true ∧
        (quadOf v q).balPending = 0) ∧
      ((towerOf s (quadTower q)).tstate = 0#2 → exec (.ungate arg) s = .next (closeMailbox (ungateQuad u q) 0)) ∧
      ((towerOf s (quadTower q)).tstate ≠ 0#2 → exec (.ungate arg) s = .next (closeMailbox u 1))) ∧
    (bits arg 0 3 = arg.toNat →
      (online s t = true → 1 < ((List.range 8).filter (online s)).length → ∃ v, exec (.offline arg) s = .next v ∧
        v.kiln.busy = some (4, BitVec.ofNat 64 t) ∧ (towerOf v t).offlining = some s.now ∧ v.mem = s.mem ∧
        .offlineComplete t ∈ tgetD v.timers s.now []) ∧
      (online s t = false ∨ ((List.range 8).filter (online s)).length ≤ 1 → exec (.offline arg) s = .next (closeMailbox u 1)) ∧
      ((towerOf s t).tstate = 3#2 ∨ (s.t1 = true ∧ t ≠ 0) → exec (.online arg) s = .next (closeMailbox u 1)) ∧
      ((towerOf s t).tstate ≠ 3#2 → s.t1 = false ∨ t = 0 → exec (.online arg) s = .next (closeMailbox (bringOnline u t) 0))) ∧
    (bits arg 0 9 = arg.toNat → ∃ v, exec (.setbound arg) s = .next v ∧ v.damper.bound = max 20 (min 400 arg.toNat) ∧
      v.kiln.status = 0#8 ∧ v.damper.t = s.damper.t) ∧
    (bits arg 0 12 = arg.toNat → bits arg 10 2 ≠ 3 → ∃ v, exec (.setfloor arg) s = .next v ∧ v.kiln.status = 0#8 ∧
      (quadOf v q).floor.toNat = bits arg 10 2 ∧ (quadOf v q).pass = (quadOf s q).pass) ∧
    (t + 256 * bits arg 8 8 = arg.toNat → ∃ v, exec (.setalarm arg) s = .next v ∧ v.kiln.status = 0#8 ∧
      (towerOf v t).alarm.toNat = max 70 (min 105 (bits arg 8 8)) ∧
      ((towerOf v t).alrm = true ↔ (towerOf s t).alrm = true ∨ max 70 (min 105 (bits arg 8 8)) ≤ (towerOf s t).tj.toNat))))

/-- R460 to R462, R471: the end of a ratio stop writes the held returns in order, takes the faults latched in it, restarts the engines and the waiting commands, then
performs a queued SETOP; OFFLINE pre-empts the contexts on the tower, then tells the supervisor, and finishes when no pinned frame
is in use; an alarm is raised when the junction reaches ALARM, or the flow falls; a trip or loss stops the tower. -/
def Sys2Proof.towerClaim : Prop := ∀ (s : State),
  (∀ q x, (quadOf s q).stopUntil = some x → x ≤ s.now →
    let u := deliverLatched ((quadOf s q).heldReturns.foldl releaseHeld
      (modQuad s q (fun y => { y with stopUntil := none, heldReturns := [], nextOp := none, clkSince := s.now }))) q
    let w := releaseCommands (resumeSlip (resumeEngine u q) q)
    let v := schedule w w.now .placementPass
    exec (.ratioChangeComplete q) s = .next
      (match (quadOf s q).nextOp with | some arg => closeMailbox (setPoint v q arg).2 0 | none => v)) ∧
  (∀ t, (towerOf s t).offlining.isSome = true → kilnUp s = true →
    let u := (ctxsOn s t).foldl (fun s c => if (ctxOf s c).state = .running ∧ !ctxStopped s c then preemptCtx s c false else s) s
    let v := if (towerOf u t).tstate = 0#2 then interrupt (modTower u t (fun x => { x with tstate := 1#2 })) 0 3 else u
    exec (.offlineComplete t) s = .next
      (if ctxsOn u t ≠ [] then u else
        let v := touchFrames v (pinnedFrames v t)
        if pinnedInUse v t then v else finishOffline v t)) ∧
  (∀ t tj, t < 8 → let u := modTower s t (fun x => { x with tj := tj })
    ((towerOf s t).alarm.toNat ≤ tj.toNat → ∃ v, exec (.thermalAlarm t tj) s = .next v ∧ (towerOf v t).alrm = true ∧
      (towerOf v t).tj = tj ∧ ((towerOf s t).alrm = true → v.msix = s.msix) ∧ ((towerOf s t).alrm = false → Signalled s v 0 3)) ∧
    (tj.toNat < (towerOf s t).alarm.toNat → exec (.thermalAlarm t tj) s = .next u) ∧
    (∀ a, (towerOf s t).alrmAt = some a → a + 20000000 * 3024 ≤ s.now → 110 ≤ tj.toNat → (towerOf s t).tstate.toNat ≤ 1 →
      exec (.thermalTrip t tj) s = .next (wakeWaiting (republish (stopTower (measureTj s t tj) t 2#2)))) ∧
    ((∀ a, (towerOf s t).alrmAt = some a → s.now < a + 20000000 * 3024) ∨ tj.toNat < 110 ∨ 2 ≤ (towerOf s t).tstate.toNat →
      ∃ v, exec (.thermalTrip t tj) s = .next v ∧ exec (.thermalAlarm t tj) s = .next v)) ∧
  (kilnUp s = true → ∃ v, exec .coolantFlowLow s = .next v ∧ v.threads = s.threads ∧ ∀ t, t < 8 → (towerOf v t).alrm = true) ∧
  ∀ t, t < 8 → (towerOf s t).tstate ≠ 3#2 →
    let ls := towerLinks t
    let u := losePicked s (fun s r => ls.any (crosses s (reqPath s r)))
    let u := loseEngines u false (fun s tower pa leaf => ls.any (crosses s (pathOf s tower pa leaf)))
    let u := stopTower (agentGone u (0x10 + t)) t 3#2
    let u := ls.foldl (fun s b => modEnds s b (fun x => { x with state := .failed })) u
    exec (.towerLost t) s = .next (failCutOff (wakeWaiting (interrupt (republish u) 0 2)))

/-! ## Kiln down, identity and life cycle (R463 to R467, R472) -/

/-- R463, R465: Kiln that hangs is down, the Damper, the links, the quads and the towers staying as they were but for a queued SETOP,
and its watchdog resets it after 100 ms; a reset of Kiln changes no memory, context, queue or link, and ends a signing with status
4; it runs steps 1 and 2 of the boot in at most 40 and 900 ms; after them Kiln is up again, at STEP 6 (log entry 101), or stays down at
step 2 with the reason. An update that fails its checks changes nothing. An image is accepted where it is readable, its key of 32 bytes
is enrolled, its signature verifies under FIPS 205 and its version is not below the fused minimum. -/
def Sys2Proof.kilnDownClaim : Prop := ∀ (s : State),
  (kilnUp s = true → s.kiln.stopped = false → ∃ t, exec .kilnHang s = .next t ∧ t.kiln.down = some s.now ∧ t.damper = s.damper ∧
    t.links = s.links ∧ t.towers = s.towers ∧ t.mem = s.mem ∧ (∀ q, (quadOf t q).ratio = (quadOf s q).ratio ∧
      (quadOf t q).gated = (quadOf s q).gated ∧ (quadOf t q).stopUntil = (quadOf s q).stopUntil ∧ (quadOf t q).nextOp = none) ∧
    .kilnWatchdogReset ∈ tgetD t.timers (s.now + 100000000 * 3024) []) ∧
  (∀ d, s.kiln.down = some d → d + 100000000 * 3024 ≤ s.now → s.kiln.restarting = false → s.kiln.stopped = false →
    ∃ t, exec .kilnWatchdogReset s = .next t ∧ t.kiln.restarting = true ∧ t.kiln.down = some d ∧ Signalled s t 0 3 ∧
      t.kiln.step = 1 ∧ (∃ n, n ≤ 40000000 * 3024 ∧ .kilnRestartComplete ∈ tgetD t.timers (s.now + n) []) ∧
      t.kiln.atstatus = (if s.kiln.atbusy then 4#8 else s.kiln.atstatus) ∧ t.kiln.atbusy = false ∧ t.mem = s.mem ∧
      t.ctxs = s.ctxs ∧ t.queues = s.queues ∧ t.links = s.links ∧ t.quads = s.quads ∧ t.towers = s.towers ∧ t.damper = s.damper) ∧
  (s.kiln.restarting = true → s.kiln.step = 1 → ∃ t n, exec .kilnRestartComplete s = .next t ∧ t.kiln.step = 2 ∧ t.kiln.restarting = true ∧
    t.kiln.down = s.kiln.down ∧ n ≤ 900000000 * 3024 ∧ .kilnRestartComplete ∈ tgetD t.timers (s.now + n) [] ∧ t.mem = s.mem) ∧
  (s.kiln.restarting = true → s.kiln.step ≠ 1 →
    (flashFail s ≠ 0 → ∃ t, exec .kilnRestartComplete s = .next t ∧ t.kiln.step = 2 ∧ t.kiln.fail = flashFail s ∧
      t.kiln.down = s.kiln.down ∧ t.kiln.restarting = false) ∧
    (flashFail s = 0 →
      let runs := match s.kiln.flash with
        | some x => { s.kiln with imageVersion := x.version, imageDigest := sha256 (imageBytes x ++ x.sig) }
        | none => s.kiln
      let u := { s with kiln := { runs with restarting := false, down := none, step := 6, fail := 0, unpublished := false } }
      exec .kilnRestartComplete s = .next (wakeWaiting (failCutOff (if s.kiln.unpublished then republish u else u))))) ∧
  ∀ x : KilnImage,
    (imageFail s x = 0 ↔ x.readable = true ∧ x.key.length = 32 ∧ keyEnrolled s (sha256 x.key) = true ∧ x.sig.length = 7856 ∧
      slhDsaVerify x.key (imageBytes x) x.sig = true ∧ Config.fusedMinVersion.toNat ≤ x.version.toNat) ∧
    (imageFail s x ≠ 0 → exec (.kilnUpdate x) s = .next s) ∧
    (imageFail s x = 0 → kilnUp s = true → s.kiln.stopped = false → ∃ t, exec (.kilnUpdate x) s = .next t ∧
      t.kiln.flash = some x ∧ t.kiln.restarting = true ∧ t.kiln.down = some s.now ∧ t.mem = s.mem ∧ t.ctxs = s.ctxs)

/-- R1, R433, R464, R467: a device reset with an image that is accepted, whose discovery finds the package, leaves no context, thread or
cached line, and the pending life-cycle change in effect; what is outside the module stays, and the incarnation is one higher (log
entry 80). A W8 finds the dies of its fixed layout and leaves empty memory; a T1, one compute die with integrator dies, shows those as
agents and has no PCIe endpoint. Discovery that does not find the package stops at step 4 with FAIL 5, its memory zero and no agent
assigned; an image that is refused stops the boot before anything is wiped or trained (log entry 32). Time counts from the reset (log
entry 1). -/
def Sys2Proof.deviceResetClaim : Prop := ∀ (s : State),
  let ds := s.package.dies
  let found := if s.package.t1 then partnersFound ds else layoutFound ds
  let fail := flashFail (resetKeep s)
  ∃ t, exec .deviceReset s = .next t ∧ t.threads = [] ∧ t.ctxs = [] ∧ t.queues = [] ∧ t.cache = [] ∧ t.now = 0 ∧
    t.hostMem = s.hostMem ∧ t.kiln.pending = 7#3 ∧ t.fxInc = s.fxInc + 1 ∧ t.package = s.package ∧
    t.kiln.life = (if s.kiln.pending = 7#3 then s.kiln.life else s.kiln.pending) ∧
    (fail = 0 → found = true → t.kiln.step = 6 ∧ t.kiln.down = none ∧ t.kiln.stopped = false ∧ t.t1 = s.package.t1 ∧ t.poison = [] ∧
      (s.package.t1 = false → t.mem = [] ∧ t.links = resetLinks ∧ t.agents = resetAgents) ∧
      (s.package.t1 = true → t.pcieUp = false ∧ t.links = t1Links ds ∧ t.agents = t1Agents ds ∧
        ∀ k, k < 8 → ((towerOf t k).tstate = 0#2 ↔ k = 0))) ∧
    (fail = 0 → found = false → t.kiln.step = 4 ∧ t.kiln.fail = 5 ∧ t.kiln.stopped = true ∧ t.timers = [] ∧ t.mem = [] ∧
      t.poison = [] ∧ t.agents = []) ∧
    (fail ≠ 0 → t.kiln.step = (if fail = 1 then 1 else 2) ∧ t.kiln.fail = fail ∧ t.kiln.stopped = true ∧ t.timers = [] ∧
      t.mem = s.mem ∧ t.poison = s.poison ∧ t.links = [] ∧ t.agents = [] ∧ t.kiln.down = some 0)

/-- R466: a start while signing, or with Kiln down, gives status 2; with an address outside HBM, or no identity key, status 1; another
signs, in at most 2 s, and the address and the nonce are those that stand then (log entry 31). The report is a body of 256 bytes, which
holds the fields of R466 at places that are free (log entry 101), and a signature of 7,856 bytes over it; it is written at its address,
and vector 3 is sent. -/
def Sys2Proof.attestationClaim : Prop := ∀ (s : State),
  (s.kiln.stopped = false →
    (s.kiln.atbusy = true ∨ kilnUp s = false → ∃ t, exec .attestationStart s = .next t ∧ t.kiln.atstatus = 2#8 ∧
      t = { s with kiln := t.kiln }) ∧
    (s.kiln.atbusy = false → kilnUp s = true → hbmSize < s.kiln.ataddr + 8112 ∨ s.kiln.identity = false →
      ∃ t, exec .attestationStart s = .next t ∧ t.kiln.atstatus = 1#8 ∧ t = { s with kiln := t.kiln }) ∧
    (s.kiln.atbusy = false → kilnUp s = true → s.kiln.ataddr + 8112 ≤ hbmSize → s.kiln.identity = true →
      ∃ t n, exec .attestationStart s = .next t ∧ t.kiln.atbusy = true ∧ t.kiln.ataim = s.kiln.ataddr ∧ t.kiln.atseal = s.kiln.nonce ∧
        n ≤ 2000000000 * 3024 ∧ .attestationComplete ∈ tgetD t.timers (s.now + n) [])) ∧
  (reportBody s).length = 256 ∧
  (∀ n, (report s n).length = 8112 ∧ (report s n).take 256 = reportBody s ∧
    (report s n).drop 256 = fillTo 7856 (slhSign identitySeed (reportBody s) (fillTo 16 (Config.signRand n)))) ∧
  (s.kiln.atbusy = true → kilnUp s = true →
    let v := (newFresh s).2
    let u := unitWrite v s.kiln.ataim (report v (newFresh s).1)
    exec .attestationComplete s = .next
      (interrupt { u with kiln := { u.kiln with atbusy := false, atstatus := 0#8 } } 0 3))

/-- R467, R472: a request that the life cycle permits from its state is accepted, with its next state pending until a device reset; any
other is refused with LCRESULT 3, a provisioning request without a sound token with 2; each discards the token. TKDATA appends up
to 8,112 bytes and TKRESET discards them. In DISPOSED nothing is taken. -/
def Sys2Proof.lifeCycleClaim : Prop := ∀ (s : State),
  (bmcServed s = true → kilnUp s = true → ∀ (i : Instr) (fit : Bool) (life next : BitVec 3),
    (i, fit, life, next) ∈ [(Instr.lcProvision, tokenOk s, 0#3, 1#3), (.lcCommission, true, 1#3, 2#3), (.lcReturn, true, 2#3, 3#3),
      (.lcDispose, true, 3#3, 4#3)] →
    ∃ t, exec i s = .next t ∧ t.kiln.token = [] ∧ t.kiln.life = s.kiln.life ∧ t = { s with kiln := t.kiln } ∧
      t.kiln.lcresult = (if fit = false then 2#2 else if s.kiln.life = life then 1#2 else 3#2) ∧
      t.kiln.pending = (if fit = true ∧ s.kiln.life = life then next else s.kiln.pending)) ∧
  (∀ b, bmcServed s = true → s.kiln.token.length < 8112 → ∃ t, exec (.tkdata b) s = .next t ∧ t.kiln.token = s.kiln.token ++ [b] ∧
    t = { s with kiln := t.kiln }) ∧
  (∀ b, bmcServed s = true → 8112 ≤ s.kiln.token.length → exec (.tkdata b) s = .next s) ∧
  (bmcServed s = true → ∃ t, exec .tkreset s = .next t ∧ t.kiln.token = [] ∧ t = { s with kiln := t.kiln }) ∧
  (bmcServed s = false → ∀ i, i ∈ [Instr.lcProvision, .lcCommission, .lcReturn, .lcDispose, .tkreset] → exec i s = .next s)

/-- Deadlines inside a boundary and the run of quiet windows are the model's reading (log entries 23 and 27). -/
def Obligations.damper_and_clamp : Prop := damperClaim

/-- Commands that take no time, the quads that ONLINE ungates and what a lost tower takes with it are the model's reading (log
entries 21, 22 and 29). -/
def Obligations.power_commands_and_towers : Prop := mailboxClaim ∧ towerClaim

/-- The order of the checks, what a reset keeps, the layout of the report, the MSI-X table at reset and what discovery finds are the
model's reading or choice (log entries 1, 8, 31, 32, 77, 80, 81 and 101). -/
def Obligations.kiln_and_trust : Prop := kilnDownClaim ∧ deviceResetClaim ∧ attestationClaim ∧ lifeCycleClaim

/-! ## Writes of system registers (R203, R204, R318, R361, R415, R439, R440) -/

/-- R1, R361, R362: a write by Kiln of a register that lies on an 8-byte boundary outside the reserved range is performed by its block;
the Kiln argument, the nonce and a core's THRESH take their value, and a read gives it back. The core is one that the device has. In a
boot that has stopped Kiln makes none (R464). -/
def Sys2Proof.registerWritesClaim : Prop := ∀ (s : State) (off : Nat) (v : Word64),
  (s.kiln.stopped = true → exec (.registerWrite (.sys off) v) s = .next s) ∧
  (s.kiln.stopped = false →
  (off % 8 = 0 → off < 0xF00000 ∨ 0x1000000 ≤ off → exec (.registerWrite (.sys off) v) s = .next (sysWrite s .pf off v)) ∧
  (off % 8 ≠ 0 ∨ (0xF00000 ≤ off ∧ off < 0x1000000) → exec (.registerWrite (.sys off) v) s = .next s) ∧
  (∀ o : Nat, o ∈ [0x3008, 0x4018, 0x4020, 0x4028, 0x4030] → ∃ t, exec (.registerWrite (.sys o) v) s = .next t ∧ sysRead t o = v ∧
    t = { s with kiln := t.kiln }) ∧
  ∀ c, c < 4096 → s.t1 = false ∨ c < 512 → ∃ t, exec (.registerWrite (.sys (0x3000000 + 0x1000 * c + 0x40)) v) s = .next t ∧
    (coreOf t c).thresh = v.setWidth 16 ∧ t = { s with cores := t.cores })

/-- R348, R362, R442, R443: the host's BAR0 of a function that it reaches. A write of CTXCMD in the function's own block gives the command,
function 0's as the physical function; function 0 writes every context block; another function writes nothing else of a context. The
size of BAR4 goes from 1 GiB to 64 GiB; a function in D3hot is not reached, and its vectors pend until it is in D0 again (log entry 77);
before step 6 of the boot a configuration request is answered with Configuration Request Retry Status (R464). R472: the management
interface is reached over I3C at 0x3A, or at the dynamic address that it has been given, and over SMBus in blocks of at most 32 bytes; it
writes KMARG and reads LCSTATE, unless the boot ROM answers, which takes no write. -/
def Sys2Proof.hostRegistersClaim : Prop := ∀ (s : State) (fn : Nat) (v : Word64),
  (hostReaches s fn = true →
    (exec (.registerWrite (.bar0 fn 0x1000008) v) s = .next (command s (if fn = 0 then .pf else .vf fn) fn (bits v 0 4)).2) ∧
    (∀ c r, fn = 0 → c < 64 → r < 0x10000 → r % 8 = 0 →
      exec (.registerWrite (.bar0 0 (0x2000000 + 0x10000 * c + r)) v) s = .next (writeCtx s .pf c r v)) ∧
    ∀ o, fn ≠ 0 → o ≠ 0x1000008 → ¬(0x3000000 ≤ o ∧ o < 0x3000040) → exec (.registerWrite (.bar0 fn o) v) s = .next s) ∧
  (hostReaches s fn = false → ∀ o, exec (.registerWrite (.bar0 fn o) v) s = .next s) ∧
  (s.pcieUp = true → fn < 64 → s.kiln.stopped = true → ∀ at', at' = RegPlace.barSize fn ∨ at' = .power fn →
    exec (.registerWrite at' v) s = .next { s with sent := s.sent ++ [.configRetry fn] }) ∧
  (s.pcieUp = true → fn < 64 → s.kiln.stopped = false →
    (30 ≤ v.toNat → v.toNat ≤ 36 → ∃ t, exec (.registerWrite (.barSize fn) v) s = .next t ∧ bar4Size t fn = 2 ^ v.toNat ∧
      t = { s with bar4Log := t.bar4Log }) ∧
    ∃ t, exec (.registerWrite (.power fn) v) s = .next t ∧
      t = { s with d3hot := t.d3hot, msix := t.msix, msixPend := t.msixPend } ∧ (hostReaches t fn = true ↔ v.getLsbD 0 = false) ∧
      (v.getLsbD 0 = true → t.msix = s.msix ∧ t.msixPend = s.msixPend ∧ ∀ vec, msixHeld t fn vec = true) ∧
      (v.getLsbD 0 = false → ∀ vec, (fn, vec) ∈ s.msixPend → msixHeld t fn vec = false → (fn, vec) ∈ t.msix ∧ (fn, vec) ∉ t.msixPend)) ∧
  (let here := s.kiln.dyn.getD 0x3A
   (∀ bs : List Byte, romAnswers s = false → bs.length = 8 →
     exec (.registerWrite (.i3c here 0x18 bs 0) v) s = .next { s with kiln := { s.kiln with arg := BitVec.ofNat 64 (leNat bs) } }) ∧
   (romAnswers s = true → ∀ off bs, exec (.registerWrite (.i3c here off bs 0) v) s = .next s) ∧
   (∀ a off bs n, a ≠ here → exec (.registerWrite (.i3c a off bs n) v) s = .next s) ∧
   (∀ off (bs : List Byte) n, bs.length ≤ 32 → n ≤ 32 → bs = [] ∨ n = 0 →
     exec (.registerWrite (.smbus off bs n) v) s = exec (.registerWrite (.i3c here off bs n) v) s) ∧
   (∀ off (bs : List Byte) n, 32 < bs.length ∨ 32 < n → exec (.registerWrite (.smbus off bs n) v) s = .next s) ∧
   (∀ a, a < 128 → s.kiln.dyn = none →
     exec (.registerWrite (.assign a) v) s = .next { s with kiln := { s.kiln with dyn := some a } }) ∧
   exec (.registerWrite (.i3c here 0x08 [] 8) v) s = .next { s with sent := s.sent ++ [.managed (leBytes
     (s.kiln.life.toNat + s.kiln.pending.toNat * 2 ^ 8 + s.kiln.lcresult.toNat * 2 ^ 16) 8)] })

/-- R203, R204: a write to SPMAPk gives each unit the code of its field, except that a change refused for its unit leaves the old code,
sets ERR and names the lowest such unit; while BUSY is set a write that would change a field is refused whole. A unit that leaves
the cache or the reserve keeps BUSY set until the drain is complete. The records of the pinned units that it changes are read at their
homes first (`spmapReads`). -/
def Sys2Proof.partitionMapClaim : Prop := ∀ (s : State) (t k : Nat) (v : Word64), t < 8 → k < 3 →
  let code := fun (u : Nat) => bits v (4 * (u - 16 * k)) 4
  let mine := fun (u : Nat) => 16 * k ≤ u ∧ u < 16 * k + 16
  let changes := fun (u : Nat) => mine u ∧ spCode s t u ≠ code u
  let r := spmapReads s t k v
  let changed := fun (u : Nat) => mine u ∧ spCode r t u ≠ code u
  let refused := fun (u : Nat) => changed u ∧ unitRefused r t u (code u) = true
  ((∀ u, ¬changes u) → exec (.spmapWrite t k v) s = .next s) ∧
  ((towerOf s t).busy = true → ∀ u, changes u → (∀ x, x < u → ¬changes x) → ∃ w, exec (.spmapWrite t k v) s = .next w ∧
    (towerOf w t).err = true ∧ (towerOf w t).errUnit = u ∧ (∀ x, spCode w t x = spCode s t x) ∧ w = { s with towers := w.towers }) ∧
  ((towerOf s t).busy = false → (∃ u, changes u) → ∃ w, exec (.spmapWrite t k v) s = .next w ∧
    (∀ u, spCode w t u = if mine u ∧ ¬refused u then code u else spCode r t u) ∧
    ((∀ u, ¬refused u) → (towerOf w t).err = (towerOf r t).err) ∧
    (∀ u, refused u → (∀ x, x < u → ¬refused x) → (towerOf w t).err = true ∧ (towerOf w t).errUnit = u) ∧
    ((towerOf w t).busy = true ↔ (towerOf r t).busy = true ∨ ∃ u, changed u ∧ ¬refused u ∧ (spCode r t u = 1 ∨ spCode r t u = 3)) ∧
    ∀ x, x ≠ t → ∀ u, spCode w x u = spCode r x u) ∧
  ((towerOf s t).busy = true → ∃ w, exec (.spmapDrainComplete t) s = .next w ∧ (towerOf w t).busy = false ∧
    (towerOf w t).leaving = [] ∧ ∀ x u, spCode w x u = spCode s x u)

/-- R318, R415, R439, R440: COMMCFG and COMMTAB take the bits that the manual gives them, COMMCFG with SEQ 0, unless a collective on the
communicator is outstanding. A steering register takes a write whole, or refuses it whole and marks the error: where an entry is
out of range, or its old module carries messages. A Fazin-X slot takes VALID and DEVICE, and asks the device it names. -/
def Sys2Proof.routingWritesClaim : Prop := ∀ (s : State) (v : Word64),
  (∀ c n table, c < 64 → n < 64 →
    ((∃ e ∈ s.colls, collCtx s e.2 = c ∧ e.2.ctl.comm.toNat = n) → exec (.commcfgWrite c n table v) s = .next s) ∧
    ((∀ e ∈ s.colls, ¬(collCtx s e.2 = c ∧ e.2.ctl.comm.toNat = n)) → ∃ t, exec (.commcfgWrite c n table v) s = .next t ∧
      (table = true → commOf (ctxOf t c) n = { commOf (ctxOf s c) n with tab := v &&& 0x00FFFFFFFFFFFFFF#64 }) ∧
      (table = false → commOf (ctxOf t c) n = { commOf (ctxOf s c) n with cfg := v &&& 0x83FF01FF00000000#64 }) ∧
      (∀ m, m ≠ n → commOf (ctxOf t c) m = commOf (ctxOf s c) m) ∧ t = { s with ctxs := t.ctxs })) ∧
  (∀ t e, t < 8 → e < 4 →
    let stays := fun (j : Nat) => bits v (4 * j) 4 < edgeModules e ∧
      (bits v (4 * j) 4 ≠ bits (steerOf s t e) (4 * j) 4 → carrying s (towerBlk t e (bits (steerOf s t e) (4 * j) 4)) = false)
    ((∀ j, j < 16 → stays j) → exec (.steerWrite t e v) s =
      .next (wakeWaiting { s with steer := tset (steerBoot (edgeModules e)) (steerKey t e) v s.steer })) ∧
    ((∃ j, j < 16 ∧ ¬stays j) → ∃ u, exec (.steerWrite t e v) s = .next u ∧ u.steer = s.steer ∧
      steerKey t e ∈ u.edgeErr ∧ u = { s with edgeErr := u.edgeErr })) ∧
  (∀ k, k < 4 →
    let old := fun (j : Nat) => bits (fxsteerOf s k) (8 * j) 5
    let clash := fun (j : Nat) => j < 8 ∧ bits v (8 * j) 5 ≠ old j ∧ carrying s (portBlk (old j)) = true
    ((∀ j, ¬clash j) → exec (.fxsteerWrite k v) s =
      .next (wakeWaiting { s with fxsteer := tset (fxsteerBoot k) k (v &&& 0x1F1F1F1F1F1F1F1F#64) s.fxsteer })) ∧
    ((∃ j, clash j) → ∃ u, exec (.fxsteerWrite k v) s = .next u ∧ u.fxsteer = s.fxsteer ∧ u = { s with links := u.links } ∧
      ∀ j, clash j → (linkAt u (portBlk (old j))).err.getLsbD 3 = true)) ∧
  ∀ k, k < 32 → ∃ t, exec (.fxslotWrite k v) s = .next t ∧ tgetD t.fxslots k 0#64 = v &&& 0x80000000000001FF#64 ∧
    (v.getLsbD 63 = true → s.fxSet = true → bits v 0 9 ≠ s.fxself → .hello (.send (0xE00 + bits v 0 9)) ∈ tgetD t.timers s.now [])

/-! ## States of a link (R416, R420 to R424, R437, R438, R493) -/

/-- Both ends of a module are in a state. -/
def Sys2Proof.BothEnds (s : State) (blk : Nat) (st : LinkState) : Prop := ∀ b ∈ ends s blk, (linkAt s b).state = st

/-- R421, R422, R424: each command acts in the states that it is for, at both ends of its module, and elsewhere sets CMDREF and does
nothing else. -/
def Sys2Proof.linkCommandsClaim : Prop := ∀ (s : State) (blk : Nat), blkOk s blk = true →
  let x := linkAt s blk
  let st := x.state
  let refused := fun (i : Instr) => ∃ t, exec i s = .next t ∧ t = { s with links := t.links } ∧
    linkAt t blk = { x with err := x.err ||| 8#4 } ∧ ∀ b, b ≠ blk → linkAt t b = linkAt s b
  (st = .active → ∃ t n, exec (.linkPause blk) s = .next t ∧ BothEnds t blk .pausing ∧
    .pauseAcknowledged blk ∈ tgetD t.timers (s.now + n) []) ∧
  (st ≠ .active → refused (.linkPause blk)) ∧
  (st = .pausing → ∃ t, exec (.pauseAcknowledged blk) s = .next t ∧ BothEnds t blk .paused ∧ t = { s with links := t.links }) ∧
  (st = .paused → exec (.linkResume blk) s = .next (inService s blk)) ∧ (st ≠ .paused → refused (.linkResume blk)) ∧
  (st = .down ∨ st = .paused → x.tgtw.toNat ≤ (if isPort blk then 0 else 1) → ∃ t n, exec (.linkTrain blk) s = .next t ∧
    BothEnds t blk .training ∧ (linkAt t blk).aim = x.tgtw ∧ .trainingFailed blk ∈ tgetD t.timers (s.now + 50000 * 3024) [] ∧
    .trainingDone blk ∈ tgetD t.timers (s.now + n) []) ∧
  (¬((st = .down ∨ st = .paused) ∧ x.tgtw.toNat ≤ (if isPort blk then 0 else 1)) → refused (.linkTrain blk)) ∧
  (st = .paused ∨ st = .error ∨ st = .failed → exec (.linkDisable blk) s =
    .next (failCutOff (modEnds s blk (fun y => { y with state := .down, seqs := [], used := [], held := [] })))) ∧
  (st ≠ .paused → st ≠ .error → st ≠ .failed → refused (.linkDisable blk))

/-- R416, R420, R421, R424, R493: an attempt at a training fails where the lanes of the width do not work, at x64 every lane (log entry 97),
at x32 one half of them, and after three the module is FAILED. A training that ends well leaves a paused module PAUSED, with the error
counters 0 and the sequence counters kept, and otherwise puts it in service and greets the agent at its end; one that fails, an
exhausted replay whose retrain fails, and a header that breaks the format take it out of service; a retrain repairs lanes and keeps the
counters. A replay counts in RETRIES, which sets RTH on reaching RTHRESH, and a flit whose CRC fails in CRCERR and, in LKLANE, on the
lanes in use. -/
def Sys2Proof.linkEventsClaim : Prop := ∀ (s : State) (blk : Nat), blkOk s blk = true →
  let x := linkAt s blk
  let count := fun (n : Word32) => if n = 0xFFFFFFFF#32 then n else n + 1
  let half := fun (u : State) (w : BitVec 2) => halfFor w (lanesLost u blk)
  (∀ lost : List Nat, (halfFor 0#2 lost = some false ↔ lost = []) ∧ (halfFor 0#2 lost = none ↔ lost ≠ []) ∧
    (halfFor 1#2 lost = some false ↔ ∀ l ∈ lost, 32 ≤ l) ∧
    (halfFor 1#2 lost = some true ↔ (∀ l ∈ lost, l < 32) ∧ ∃ l ∈ lost, l < 32)) ∧
  (x.state = .training →
    (half s x.aim = none →
      (x.attempts + 1 < 3 → ∃ t n, exec (.trainingDone blk) s = .next t ∧ (linkAt t blk).state = .training ∧
        (linkAt t blk).attempts = x.attempts + 1 ∧ .trainingDone blk ∈ tgetD t.timers (s.now + n) []) ∧
      (3 ≤ x.attempts + 1 → exec (.trainingDone blk) s = .next (outOfService (stopTraining
        (modEnds s blk (fun y => { y with attempts := y.attempts + 1 })) blk) blk .failed))) ∧
    (∀ up, half s x.aim = some up → x.fromPaused = true → ∃ t, exec (.trainingDone blk) s = .next t ∧ BothEnds t blk .paused ∧
      ∀ b ∈ ends s blk, (linkAt t b).crcerr = 0#32 ∧ (linkAt t b).retries = 0#32 ∧ (linkAt t b).lane = 0#64 ∧
        (linkAt t b).seqs = (linkAt s b).seqs ∧ (linkAt t b).width = (linkAt s b).aim ∧ (linkAt t b).upper = up) ∧
    (∀ up, half s x.aim = some up → x.fromPaused = false →
      let n := sparesUsed (stopTraining s blk) blk
      let u := inService (modEnds (modEnds (stopTraining s blk) blk (fun y =>
        { y with width := y.aim, upper := up, spused := n, crcerr := 0#32, retries := 0#32, lane := 0#64 })) blk
          (fun y => { y with used := [], held := [] })) blk
      let w := newPeer u blk
      exec (.trainingDone blk) s = .next (if isPort blk then u else
        scheduleOnce u u.now (.hello (if w = 0xFFF then .meet blk else .send w)))) ∧
    exec (.trainingFailed blk) s = .next (outOfService (stopTraining s blk) blk .failed)) ∧
  (x.state = .active → ∃ t n, exec (.replayExhausted blk) s = .next t ∧ BothEnds t blk .retraining ∧
    .retrainDone blk ∈ tgetD t.timers (s.now + n) []) ∧
  (x.state = .retraining →
    (let u := autoRepair s blk
     (∀ up, half u (linkAt u blk).width = some up →
       exec (.retrainDone blk) s = .next (inService (modEnds u blk (fun y => { y with upper := up })) blk)) ∧
     (half u (linkAt u blk).width = none → exec (.retrainDone blk) s = .next (outOfService u blk .failed))) ∧
    exec (.retrainFailed blk) s = .next (outOfService ((ends s blk).foldl (fun s b => unschedule s (.retrainDone b)) s) blk .failed)) ∧
  (∃ t, exec (.adapterReplay blk) s = .next t ∧ (linkAt t blk).retries = count x.retries ∧
    ((linkAt t blk).rth = true ↔ x.rth = true ∨ (x.retries ≠ 0xFFFFFFFF#32 ∧ x.rthresh ≠ 0#32 ∧ x.retries + 1 = x.rthresh)) ∧
    ∀ b, b ≠ blk → linkAt t b = linkAt s b) ∧
  (∀ e : LaneErrors, let inUse := if x.width = 1#2 then (if x.upper then 0xFFFFFFFF00000000#64 else 0xFFFFFFFF#64) else BitVec.allOnes 64
    let seen := if isPort blk then 0#64 else e.lanes &&& inUse
    ∃ t, exec (.flitCrcFailure blk e) s = .next t ∧ t = { s with links := t.links } ∧
      linkAt t blk = { x with crcerr := count x.crcerr, lane := x.lane ||| seen, dead := x.dead ||| (seen &&& e.dead) }) ∧
  ∀ h, x.state = .active ∨ x.state = .pausing →
    let bad := 6 ≤ h.cls.toNat ∨ h.rsvHigh ≠ 0#5 ∨ h.rsvLow ≠ 0#28 ∨ h.nmsg = 0#4 ∨ (h.cls = 0 ∧ 11 ≤ h.kind.toNat) ∨
      ((h.cls = 2 ∨ h.cls = 4 ∨ h.cls = 5) ∧ h.nmsg ≠ 1#4) ∨ (h.cls = 5 ∧ (h.opc = 0#8 ∨ 6 < h.opc.toNat))
    (bad → exec (.protocolError blk h) s =
      .next (outOfService ((ends s blk).foldl (fun s b => unschedule s (.pauseAcknowledged b)) s) blk .error)) ∧
    (¬bad → exec (.protocolError blk h) s = .next s)

/-- R437, R438: a beat of 32 bytes whose CRC-8 is right is taken when it is the next of its bundle and direction, and no second time; one
that fails is replayed and counts in REPLAYS; one that has failed four replays makes its bundle fail. A bundle that fails takes a spare
wire, then half width, and then the slice is retired; it resumes from the beat that was not taken. -/
def Sys2Proof.verticalWiresClaim : Prop := ∀ (s : State) (x : Nat), x < 2048 →
  let y := sliceOf s x
  (∀ b : VwBeat, b.bundle < 8 →
    let k := 2 * b.bundle + (if b.up then 1 else 0)
    let next := tgetD y.beats k 0
    let fails := tgetD y.fails k 0
    let good := b.data.length = 32 ∧ crc8 (b.data ++ [b.seq]) = b.crc
    ∃ t, exec (.vwBeatReplay x b) s = .next t ∧ t = { s with slices := t.slices } ∧
      (∀ j, j ≠ k → tgetD (sliceOf t x).beats j 0 = tgetD y.beats j 0 ∧ tgetD (sliceOf t x).fails j 0 = tgetD y.fails j 0) ∧
      (good → b.seq.toNat = next → tgetD (sliceOf t x).beats k 0 = (next + 1) % 256 ∧ tgetD (sliceOf t x).fails k 0 = 0 ∧
        (sliceOf t x).replays = y.replays) ∧
      (good → b.seq.toNat ≠ next → sliceOf t x = y) ∧
      (¬good → tgetD (sliceOf t x).beats k 0 = next ∧ tgetD (sliceOf t x).fails k 0 = (if fails < 5 then fails + 1 else fails) ∧
        (sliceOf t x).replays = if fails < 4 ∧ y.replays ≠ BitVec.allOnes 24 then y.replays + 1 else y.replays)) ∧
  ∀ bundle (works : Bool), bundle < 8 →
    let n := (y.spused.extractLsb' (3 * bundle) 3).toNat
    (y.retired = true ∨ bundleFails y bundle = false → exec (.vwRepair x bundle works) s = .next s) ∧
    (y.retired = false → bundleFails y bundle = true →
      (n < 4 → ∃ t, exec (.vwRepair x bundle works) s = .next t ∧ t = { s with slices := t.slices } ∧
        bundleFails (sliceOf t x) bundle = false ∧ ((sliceOf t x).spused.extractLsb' (3 * bundle) 3).toNat = n + 1) ∧
      (4 ≤ n → works = true → y.half.getLsbD bundle = false → ∃ t, exec (.vwRepair x bundle works) s = .next t ∧
        t = { s with slices := t.slices } ∧ bundleFails (sliceOf t x) bundle = false ∧
        (sliceOf t x).half = y.half ||| (1#8 <<< bundle)) ∧
      (4 ≤ n → works = false ∨ y.half.getLsbD bundle = true → kilnUp s = true →
        exec (.vwRepair x bundle works) s = .next (retireSlice (modSlice s x (resumeBurst bundle)) x)))

/-! ## Messages of other agents (R213, R229, R293, R416 to R420, R426 to R430, R440) -/

/-- R414, R418, R419: a unit's message goes when every module on its way is ACTIVE with a credit of its channel and no earlier message of
the channel waits on the way; else it waits at its sender. A flit that leaves this device raises TXNEXT of its channel modulo 2^16 and
spends one credit there. -/
def Sys2Proof.sendingClaim : Prop := ∀ (s : State) (path : List (Nat × Nat)) (vc : Nat) (x : Sent),
  let m : OutMsg := { path := path, vc := vc, msg := x }
  (outBehind s.outbox m = false → canGo s m = true →
    (post s path vc x).sent = s.sent ++ [x] ∧ (post s path vc x).outbox = s.outbox ∧ (post s path vc x).mem = s.mem) ∧
  (outBehind s.outbox m = true ∨ canGo s m = false → post s path vc x = { s with outbox := s.outbox ++ [m] }) ∧
  ∀ a, vc < 6 → let e := linkAt s a
    let t := countPath s [(a, a)] vc
    txNext (linkAt t a) vc = (txNext e vc + 1) % 65536 ∧ rxNext (linkAt t a) vc = rxNext e vc ∧
    usedOf (linkAt t a) vc = usedOf e vc + 1 ∧ t = { s with links := t.links } ∧ ∀ b, b ≠ a → linkAt t b = linkAt s b

/-- R418, R419, R426, R430: a flit is taken by an end that is ACTIVE or PAUSING when its SEQ is RXNEXT of its channel and it comes with a
credit; a sequence gap or a missing credit sends the module to ERROR. Its message is accepted from an agent that the package has
recorded, under its incarnation and for a DST that is assigned; another counts in BADID or STALE and is discarded. A sequence gap is
looked at before the credits (log entry 16); the messages behind the first of one flit are not counted again (log entry 25); an id that
comes from the wrong side, or is absent, counts as unassigned (log entry 103). -/
def Sys2Proof.arrivalClaim : Prop := ∀ (s : State) (m : Msg) (vc : Nat), m.blk ≠ 0 → m.blk ≠ hubPlace →
  let x := linkAt s m.blk
  let arrives := (blkOk s m.blk && (x.state == .active || x.state == .pausing)) = true
  (wireOk m = false ∨ ¬arrives → receive s m vc = (false, s)) ∧
  (wireOk m = true → arrives →
    (m.later = false → m.seq.toNat ≠ rxNext x vc → receive s m vc = (false, linkError s m.blk 1#4) ∧
      BothEnds (linkError s m.blk 1#4) m.blk .error) ∧
    (m.later = false → m.seq.toNat = rxNext x vc → 32 ≤ heldOf x vc → receive s m vc = (false, linkError s m.blk 2#4) ∧
      BothEnds (linkError s m.blk 2#4) m.blk .error) ∧
    ∀ u, (m.later = true ∧ u = s) ∨ (m.later = false ∧ flitIn s m.blk vc m.seq m.cret = (true, u)) →
      let y := linkAt u m.blk
      (agentOf u m.src = none → ∃ t, receive s m vc = (false, t) ∧
        (m.later = false → t = modLink u m.blk (fun x => { x with badid := bumpSat y.badid }))) ∧
      ∀ a, agentOf u m.src = some a →
        let known := isPort m.blk = decide (0xE00 ≤ m.src) ∧ a.assigned = true ∧ a.state ≠ .absent ∧ dstKnown u m.dst = true
        (known → a.inc = m.inc → a.state ≠ .refused → receive s m vc = (true, u)) ∧
        (¬known → ∃ t, receive s m vc = (false, t) ∧
          (m.later = false → t = modLink u m.blk (fun x => { x with badid := bumpSat y.badid }))) ∧
        (known → a.inc ≠ m.inc ∨ a.state = .refused → ∃ t, receive s m vc = (false, t) ∧
          (m.later = false → t = modLink u m.blk (fun x => { x with stale := bumpSat y.stale, err := y.err ||| 4#4 }))))

/-- R213, R414, R417, R440: a request of another agent that is accepted and has crossed from the hub stands at its home; there one with bytes
waits for its data, one for a line that this device does not serve is answered with status 3, one that meets another agent's span
waits for its recall, an ownership request that would make a fifth span waits for the recall of the oldest, and another is performed by
the operation of its kind. A flit of this package's own agents that arrives beside those counted is a gap where its SEQ is not RXNEXT. A read answers with the line's bytes and changes no
memory; a write leaves exactly its masked bytes. -/
def Sys2Proof.remoteRequestsClaim : Prop :=
  (∀ (f : Msg → Instr) (k : Nat), (f, k) ∈ [(Instr.readSiWt, 0), (.readOwn, 1), (.readUc, 2), (.write, 3), (.writeBack, 4),
      (.atomic, 5), (.reduce, 6)] → ∀ (m : Msg) (s : State), localAgent m.src = false →
    (∀ u, receive s m 0 = (false, u) → exec (f m) s = .next u) ∧
    (∀ u, receive s m 0 = (true, u) → m.src < 0xE00 → exec (f m) s = exec (f (atHome m)) u) ∧
    (∀ u, receive s m 0 = (true, u) → m.blk ≠ 0 → 0xE00 ≤ m.src →
      let way := [hubHop u (homeTower u m.line) m.line]
      (pathReady u way [0] [] = true → exec (f m) s = exec (f (atHome m)) (countPath u way 0)) ∧
      (pathReady u way [0] [] = false → exec (f m) s = .next (waitFor u (f (atHub m))))) ∧
    (m.blk = 0 →
      let d := tget s.msgData (msgKey m 15)
      (3 ≤ k → d = none → exec (f m) s = .next { s with msgData := tput (msgKey m k) m s.msgData }) ∧
      ∀ e, (if k < 3 then e = m else d = some e) →
        (servable s m.line = false → exec (f m) s = .next (respond (takeData s m) m 3#3 0#64)) ∧
        (servable s m.line = true → ∀ u, extRecall s m (extWords k m e) k = some u → exec (f m) s = .next u) ∧
        (servable s m.line = true → extRecall s m (extWords k m e) k = none → k = 1 →
          ∀ x, roomOf s m.line (coverRun m.wmask) (some (m.src, m.sub)) = some x →
          exec (f m) s = .next ((recallRemote s m.line x.words (f m)).getD s)) ∧
        (servable s m.line = true → extRecall s m (extWords k m e) k = none →
            (k = 1 → roomOf s m.line (coverRun m.wmask) (some (m.src, m.sub)) = none) →
          exec (f m) s = .next (afterServe (extServe (if k < 3 then s else takeData s m) k m e))))) ∧
  (∀ (f : Msg → Instr), f ∈ [Instr.readSiWt, .readOwn, .readUc, .write, .writeBack, .atomic, .reduce] → ∀ (m : Msg) (s : State),
    localAgent m.src = true → m.blk ≠ 0 → m.blk ≠ hubPlace → exec (f m) s = .next
      (if flitsArrive s m.blk = true ∧ m.seq.toNat ≠ rxNext (linkAt s m.blk) 0 then linkError s m.blk 1#4 else s)) ∧
  ∀ (m d : Msg) (s : State) (whole : Bool), (∀ x ∈ s.spans, x.line ≠ m.line) →
    (∃ t : State, t.mem = s.mem ∧
      (poisoned s m.line m.wmask = false → extRead s m = sendMsg (respond t m 1#3 0#64) m 2
        (.data m.src m.sub m.tag m.line (bytesOf m.wmask) (physRead t (m.line * 128) 128))) ∧
      (poisoned s m.line m.wmask = true → extRead s m = respond t m 2#3 0#64)) ∧
    ((∀ i, i < 128 → rangeOf (m.line * 128 + i) = .hbm ∧ isFar s (m.line * 128 + i) = false) → s.t1 = false → memWf s.mem = true →
      ∀ i, i < 128 → memRead (extWrite s whole m d).mem (m.line * 128 + i) =
        if d.mask.getLsbD i then d.data.getD i 0#8 else memRead s.mem (m.line * 128 + i))

/-- R210, R293, R417: monitors of other agents, the memory bridges, and copy beats of other agents; a beat of poisoned words leaves
them poisoned (log entry 95). -/
def Sys2Proof.otherMessagesClaim : Prop := ∀ (m : Msg) (s u : State),
  (localAgent m.src = true → isFar s (m.line * 128) = false → exec (.armMonitor m) s = .next (armLocal s (refOf m.tag) m.line)) ∧
  (localAgent m.src = false → toHome s m 0 .armMonitor = (true, u) →
    (servable u m.line = false → exec (.armMonitor m) s = .next (respond u m 3#3 0#64)) ∧
    (servable u m.line = true → 16 ≤ (watchersOf u m.line).length → exec (.armMonitor m) s = .next (respond u m 0#3 0#64)) ∧
    (servable u m.line = true → (watchersOf u m.line).length < 16 → ∃ t, exec (.armMonitor m) s = .next t ∧
      watchersOf t m.line = watchersOf u m.line ++ [.agent m.src m.sub m.tag] ∧ t.mem = u.mem)) ∧
  (localAgent m.src = false → toHome s m 0 .dropMonitor = (true, u) →
    ∃ t, exec (.dropMonitor m) s = .next (respond t m 0#3 0#64) ∧ (∀ tag, .agent m.src m.sub tag ∉ watchersOf t m.line) ∧
      t.mem = u.mem) ∧
  (tierOk s m = true →
    let h := bridgeHop s m.blk
    (pathReady s [h] [0] [1, 2] = true → ∃ t, exec (.tierRead m) s = .next (afterServe t) ∧ t.mem = s.mem ∧
      t.sent = s.sent ++ [.response m.src m.sub m.tag 1#3 0#64,
        .data m.src m.sub m.tag m.line (BitVec.allOnes 128) (physRead t (m.line * 128) 128)]) ∧
    (pathReady s [h] [0] [1] = true → tget s.msgData (msgKey m 15) = none → ∃ t, exec (.tierWrite m) s = .next t ∧ t.mem = s.mem ∧
      tget t.msgData (msgKey m 10) = some (atHome m)) ∧
    (pathReady s [h] [0] [1] = true → ∀ d, tget s.msgData (msgKey m 15) = some d → tget s.cache m.line = none →
      ∃ t v, exec (.tierWrite m) s = .next (afterServe t) ∧ v.mem = s.mem ∧ t.mem = (physPutAt v m.line (msgBytes d)).mem ∧
        t.sent = s.sent ++ [.response m.src m.sub m.tag 0#3 0#64])) ∧
  ∀ v, localAgent m.src = false → receive s m 4 = (true, v) →
    let core := m.line / 2 ^ 33
    crossHub v m 4 (if m.dsp = 0#2 then homeTower v m.line else coreTower core) m.line (fun s => waitFor s (.copyBeat (atHub m))) = (true, u) →
    (m.dsp = 0 → servable u m.line = false → exec (.copyBeat m) s = .next (respond u m 3#3 0#64)) ∧
    (m.dsp = 0 → servable u m.line = true → recallRemote u m.line (maskWords m.mask) (.copyBeat (atHome m)) = none →
      let t := extWrite u false m m
      exec (.copyBeat m) s = .next (afterServe (if m.wmask = 0#32 then t else poisonWords t m.line m.wmask))) ∧
    (m.dsp = 1 → ∀ k, bufferTeam u core (m.line % 2048 * 128) (·.abuf) (fun _ tm => abufHeld u tm) = some k → exec (.copyBeat m) s =
      .next (respondFrom ((msgBytes m).foldl (fun s b => putAbufClean s k (m.line % 2048 * 128 + b.1) [b.2]) u) (coreTower core) m 0#3)) ∧
    (m.dsp = 2 → ∀ k, bufferTeam u core (m.line % 2048 * 128) (·.wbuf) (wbufHeld u) = some k → ∃ t,
      exec (.copyBeat m) s = .next (respondFrom t (coreTower core) m 0#3) ∧ t.mem = u.mem)

/-- R213, R414, R417, R428, R429: a response or data message that is accepted completes the request of this device that it answers, once it
has crossed from the hub; what a tier die answers stands in memory already (log entry 17); an answer to a recall brings the span's bytes to the home and ends the span; a recall by another home takes
the span from its core and answers with the bytes that were dirty; an owner that does not answer within 20 µs fails, and while Kiln
is down that waits. -/
def Sys2Proof.answersClaim : Prop := ∀ (m : Msg) (s v : State), let u := settleHub v
  (receive s m 1 = (true, v) →
    (answered u m = none → exec (.response m) s = .next (afterServe u)) ∧
    ∀ r w, answered u m = some r → crossBack u m 1 r = (true, w) →
      (m.status = 0 → exec (.response m) s = .next (afterServe (remoteDone w r m.val))) ∧
      (m.status = 2 → exec (.response m) s = .next (afterServe (remotePoison w r))) ∧
      (m.status = 3 → exec (.response m) s = .next (afterServe (unreachable w r)))) ∧
  (localAgent m.src = false → receive s m 2 = (true, v) → (∃ a, tget u.agents m.src = some a ∧ a.kind = 3) →
    exec (.data m) s = .next (afterServe u)) ∧
  (localAgent m.src = false → receive s m 2 = (true, v) → (∀ a, tget u.agents m.src = some a → a.kind ≠ 3) →
    (∀ c w, recalled u m = some c → crossIn u m 2 (homeTower u m.line) m.line = (true, w) →
      exec (.data m) s = .next (afterServe (recallAnswer w c m))) ∧
    (recalled u m = none → ∀ r w, answered u m = some r → farLine r.line = m.line → r.performed = false →
      r.kind = .read ∨ r.kind = .own ∨ r.kind = .uc ∨ r.kind = .prefetch → crossBack u m 2 r = (true, w) →
      exec (.data m) s = .next (afterServe (remoteFill w r m.data))) ∧
    (recalled u m = none → answered u m = none → ∀ w, crossIn u m 2 (homeTower u m.line) m.line = (true, w) →
      awaited { w with msgData := tput (msgKey m 15) (atHome m) w.msgData } m = none →
      exec (.data m) s = .next (afterServe { w with msgData := tput (msgKey m 15) (atHome m) w.msgData }))) ∧
  (receive s m 3 = (true, v) → ∀ w, crossIn u m 3 (coreTower m.sub) m.line = (true, w) → ∃ t path mask bytes,
    exec (.recallMsg m) s = .next (afterServe (post t path 2 (.data m.src m.sub m.tag m.line mask bytes))) ∧ t.mem = w.mem ∧
    ∀ x, x ∈ t.spans ↔ x ∈ w.spans ∧ ¬(localAgent x.agent = true ∧ x.sub = m.sub ∧ isFar w (x.line * 128) = true ∧
      farAgent w (x.line * 128) = m.src ∧ farLine x.line = m.line ∧ x.words &&& m.wmask ≠ 0#32)) ∧
  ∀ id c, tget s.recalls id = some c → c.sentAt + 20000 * 3024 ≤ s.now →
    (∃ x ∈ s.spans, x.line = c.line ∧ x.agent = c.agent ∧ x.sub = c.sub) →
    exec (.recallTimeout id) s = .next (if kilnUp s then failAgent s c.agent else waitFor s (.recallTimeout id))

/-! ## Joining (R426, R431 to R433, R436, R497) -/

/-- R432, R433, R436, R497: while Kiln is up, HELLO goes to a die or device, which has 10 ms to answer, and to a die that has no id yet; a
HELLO of another device of the fabric is answered with the IDENT of this one; ASSIGN gives a die its id; REFUSE leaves the entry refused; a
device or integrator die that does not answer is absent, but one that has failed or been refused stays so (log entry 19); an agent
that fails is FAILED, which the homes are told. -/
def Sys2Proof.joiningClaim : Prop := ∀ (s : State) (a : Nat) (x : Agent), kilnUp s = true → agentOf s a = some x →
  let asked := setAgent s a { x with hello := some s.now }
  (a < 0xE00 ∨ (a < 0x1000 ∧ s.fxSet = true ∧ a - 0xE00 ≠ s.fxself ∧ controlPath s a ≠ []) →
    exec (.hello (.send a)) s = .next (schedule (sendControl asked a 1 0#64) (s.now + 10000000 * 3024) (.helloTimeout a))) ∧
  (∀ blk, blkOk s blk = true → isPort blk = false →
    exec (.hello (.meet blk)) s = .next (post s [oneEnd blk] 5 (.control 0xFFF 0x001 1 0#64))) ∧
  (a < 0xE00 → exec (.assign a) s =
    .next (sendControl (setAgent s a { x with assigned := true }) a 3 (BitVec.ofNat 64 a))) ∧
  (∀ c, x.state = .failed ∨ x.state = .refused → 1 ≤ c → c ≤ 3 → exec (.refuse a c) s =
    .next (interrupt (republish (sendControl (setAgent s a { x with state := .refused }) a 5
      (BitVec.ofNat 64 (a + x.inc.toNat * 2 ^ 12 + c * 2 ^ 28)))) 0 2)) ∧
  (∀ t, x.hello = some t → t + 10000000 * 3024 ≤ s.now → 0x100 ≤ a → exec (.helloTimeout a) s = .next (republish (setAgent s a
    { x with hello := none, state := if x.state = .failed ∨ x.state = .refused then x.state else .absent }))) ∧
  (x.state = .active → exec (.failed a) s =
    .next (releasePage (interrupt (republish (agentGone (sendFailed s a) a)) 0 2) 0)) ∧
  ∀ (b : Nat) (f : FlitIn) (u : State), 0xE00 ≤ b → b < 0x1000 → f.dst = 0xE00 + u.fxself → isPort f.blk = true →
    flitIn s f.blk 5 f.seq f.cret = (true, u) → kilnUp u = true → u.fxSet = true →
    exec (.hello (.come b f)) s = .next (afterServe (sendControl u b 2
      (BitVec.ofNat 64 (6 + u.fxInc.toNat * 2 ^ 4 + 32 * 2 ^ 20 + 2 ^ 44 + u.fxself * 2 ^ 45))))

/-- R418, R419, R426, R432, R433: an ACCEPT is a flit like another, counted at its module; one that names an id that is not assigned counts in
BADID and is dropped, and one of a die that was given its id makes it active, under the incarnation that Kiln recorded. -/
def Sys2Proof.acceptClaim : Prop := ∀ (m : AcceptMsg) (s u : State) (a : Nat), flitIn s m.blk 5 m.seq m.cret = (true, u) →
  let known := (m.src = 0xFFF ∨ ∃ y, tget u.agents m.src = some y) ∧ (m.dst = 0 ∨ dstKnown u m.dst = true) ∧ ∃ y, tget u.agents a = some y
  (isPort m.blk = true ∨ ¬known → exec (.accept a m) s = .next (modLink u m.blk (fun y => { y with badid := bumpSat y.badid }))) ∧
  (isPort m.blk = false → known → ∀ x, agentOf u a = some x → kilnUp u = true → a < 0xE00 →
    (x.assigned = true → x.state = .absent → x.inc = m.inc →
      exec (.accept a m) s = .next (republish (showInc (setAgent u a { x with state := .active }) a m.inc))) ∧
    (¬(x.assigned = true ∧ x.state = .absent ∧ x.inc = m.inc) → exec (.accept a m) s = .next u))

/-- R426, R432, R433, R436, R497: an IDENT of an agent that was not asked fails it where it was active; one that was asked stays active under
the same incarnation. An absent device of the fabric joins under the incarnation that it shows, and an absent die
under incarnation 0 (log entry 19); every other joins only under the next incarnation with its memory wiped: another is refused, with
cause 1 for the same incarnation, 2 for memory not wiped and 3 otherwise. An integrator die that has no id presents itself, and another
id is a bad one. -/
def Sys2Proof.identClaim : Prop :=
  (∀ (m : IdentMsg) (s u : State), flitIn s m.blk 5 m.seq m.cret = (true, u) → kilnUp u = true →
    m.dst = 0 ∨ dstKnown u m.dst = true →
    let a := identAgent u m
    let met := a = 0xFFF ∧ isPort m.blk = false
    (∀ x, ¬met → agentOf u a = some x → isPort m.blk = decide (0xE00 ≤ a) → exec (.ident m) s = .next (identKnown u a x m)) ∧
    (met ∨ agentOf u a = none →
      (m.src = 0xFFF → 3 ≤ m.kind.toNat → m.kind.toNat ≤ 5 → exec (.ident m) s = .next (meetDie u m)) ∧
      (m.src ≠ 0xFFF → exec (.ident m) s = .next (badId u m.blk)))) ∧
  ∀ (m : IdentMsg) (s : State) (a : Nat) (x : Agent),
    let asked := unschedule (setAgent s a { x with hello := none }) (.helloTimeout a)
    let cause := if m.inc = x.inc then 1 else if m.wiped = false then 2 else 3
    let fit := m.inc = x.inc + 1 ∧ m.inc ≠ x.inc ∧ m.wiped = true
    let first := 0xE00 ≤ a ∨ (m.inc = 0#16 ∧ x.inc = 0#16)
    let joins := fun (u : State) => admitAgent u a m.inc m.credits.toNat
    (x.hello = none → identKnown s a x m = if x.state = .active then failAgent s a else s) ∧
    (x.hello.isSome = true →
      (x.state = .active → m.inc = x.inc → identKnown s a x m = asked) ∧
      (x.state = .active → m.inc ≠ x.inc → (fit → identKnown s a x m = joins (failAgent asked a)) ∧
        (¬fit → identKnown s a x m = refuseAgent (failAgent asked a) a cause)) ∧
      (x.state = .absent → first → identKnown s a x m = joins asked) ∧
      (x.state = .failed ∨ x.state = .refused ∨ (x.state = .absent ∧ ¬first) → (fit → identKnown s a x m = joins asked) ∧
        (¬fit → identKnown s a x m = refuseAgent asked a cause)))

/-! ## The host (R246, R348, R441 to R443) -/

/-- R348, R441 to R443: a read of the host reaches a function while the link is up, the device has booted and the function is in D0 (log entry 77). In BAR0
a 64-bit word reads its register, of a queue the four values where the function's context owns it and else 0; BAR2 reads 0. -/
def Sys2Proof.hostReadsClaim : Prop := ∀ (s : State) (fn off n : Nat) (at' : BarAddr),
  let answer := fun (bs : List Byte) => Host.Outcome.next { s with sent := s.sent ++ [.hostData fn bs] }
  (hostReaches s fn = false → exec (.hostBar4Read fn at' n) s = .next s) ∧
  (hostReaches s fn = true →
    (off % 8 = 0 → off + 8 ≤ 0x4000000 → exec (.hostBar4Read fn { bar := 0, off := off } 8) s =
      answer (leBytes (bar0Word s fn off).toNat 8)) ∧
    (off + n ≤ 0x1000000 → exec (.hostBar4Read fn { bar := 2, off := off } n) s = answer (List.replicate n 0#8))) ∧
  exec .pcieDataLinkDown s = .next { s with pcieUp := false } ∧
  (s.t1 = false → exec .pcieDataLinkUp s = .next (wakeWaiting { s with pcieUp := true })) ∧
  (s.t1 = true → exec .pcieDataLinkUp s = .next s) ∧
  ∀ q sel, q < 4096 → sel < 4 → let x := queueAt s q
    bar0Word s fn (0x800000 + 32 * q + 8 * sel) = (if x.state ≠ .free ∧ x.owner = fn then queueValue x sel else 0#64)

/-- R246, R443: an access of the host through BAR4 is translated by the function's context: one that faults is aborted and logged, one that
waits for the page or for a module waits; a read of what this device homes answers with the bytes there, a read of what another
device homes asks it (log entry 82), and a write leaves its bytes at their homes, before which no later enqueue of the host goes. -/
def Sys2Proof.hostClaim : Prop := ∀ (s : State) (fn off n : Nat) (bs : List Byte), hostReaches s fn = true →
  let read := Instr.hostBar4Read fn { bar := 4, off := off } n
  let write := Instr.hostBar4Write fn off bs
  (bar4Size s fn < off + n → exec read s = .next s) ∧
  (bar4Size s fn < off + bs.length → exec write s = .next s) ∧
  (off + n ≤ bar4Size s fn → ∀ u, let pieces := bar4Pieces fn false (cutLines (bar4Va s fn off) n) s []
    (∀ f, pieces = (.error (.inl f), u) → exec read s = .next (bar4Abort u fn off f.code)) ∧
    (∀ m, pieces = (.error (.inr m), u) → exec read s = .next (waitFor u read)) ∧
    (∀ ps, pieces = (.ok ps, u) → farPieces u ps ≠ [] → (∀ p ∈ farPieces u ps, bar4Asked u fn off n p = none) →
      exec read s = .next ((farPieces u ps).foldl (fun s p => bar4Send fn off n .uc s p []) u)) ∧
    ∀ p, pieces = (.ok [p], u) → isFar u p.x.pa = false →
      (pathReady u (bar4Path u p) [0] [1, 2] = false → exec read s = .next (waitFor u read)) ∧
      (pathReady u (bar4Path u p) [0] [1, 2] = true → (∀ y ∈ u.spans, y.line ≠ p.line) →
        ∃ v, v.mem = u.mem ∧ v.hostMem = u.hostMem ∧
          (poisoned u p.line p.words = false → exec read s =
            .next (afterServe { v with sent := v.sent ++ [.hostData fn (physRead u p.x.pa p.n)] })) ∧
          (poisoned u p.line p.words = true → exec read s = .next (bar4Abort v fn off 0x09)))) ∧
  (off + bs.length ≤ bar4Size s fn → ∀ u, let pieces := bar4Pieces fn true (cutLines (bar4Va s fn off) bs.length) s []
    (∀ f, pieces = (.error (.inl f), u) → exec write s = .next (bar4Abort u fn off f.code)) ∧
    (∀ m, pieces = (.error (.inr m), u) → exec write s = .next (waitFor u write)) ∧
    ∀ ps, pieces = (.ok ps, u) →
      (bar4Ready u ps [0, 2] [1] = false → exec write s = .next (waitFor u write)) ∧
      (bar4Ready u ps [0, 2] [1] = true → bar4Recall u ps write = none → exec write s =
        .next (afterServe (schedule (bar4PutAll fn off bs.length u bs ps) u.now lookAgain))))

/-! ## Groups that fork, and node signals (R192, R245, R341) -/

/-- R192, R245: `FORK` answers 0 where the count or the capacity does not fit; otherwise it makes that many groups, which arrive on its
register, after a release of every participant at CORE scope, and answers the count. R341: `NSIG` of a node of the graph signals it once, after a release. -/
def Sys2Proof.forkClaim : Prop :=
  (∀ (b : Base) (e1 : Word32) (s : State) (p : Packet) (gid l : Nat) (parts rest : List Nat),
    let tm := teamOf s p.team
    let j := b.md.toNat
    let n := (sregOf (grpOf s p.team gid) b.sa.toNat).toNat
    let put := fun (u : State) (v : Nat) => modGrp u p.team gid (fun g => setSreg g b.dst.toNat (BitVec.ofNat 64 v))
    let u := gathered { g := b.g } false 0xFFFFFFFF#32 s p
    let fits := 1 ≤ n ∧ n ≤ 31 ∧ capacityFor u p.team n = true
    Meeting { g := b.g } false 0xFFFFFFFF#32 s p gid parts (l :: rest) → j < tm.hdr.bars → barTakes (barOf tm j) = true →
    (p.pc + e1.signExtend 64).toNat % 4 = 0 →
    (¬fits → exec (.fork b e1) s = .next (goOn p gid parts (put u 0))) ∧
    (fits → ∀ v, releaseLanes p gid 0 none (arrivedLanes u p gid) u .done = .done v →
      exec (.fork b e1) s = .next (goOn p gid parts (put (forkGroups v p.team gid j n (p.pc + e1.signExtend 64)) n)))) ∧
  ∀ (b : Base) (s s' : State) (p : Packet) (r : ThrRef) (x : Xl),
    let c := thrCtx s r
    let i := if b.md = 0#4 then (regVal (thrOf s r) b.sa.toNat).toNat else (lo32 (thrSreg s r b.sa.toNat)).toNat
    Alone (baseOpnds b (if b.md = 0#4 then 1 else 0) 0 0) s p r → i < (ctxOf s c).gtsize →
    Reaches s s' p r (BitVec.ofNat 64 (nodeVa s c i + 40)) 8 { write := true, kind := 2 } x → Freed s' r 3 none →
    exec (.nsig b) s = .next (advance (schedule (freed s' r) s'.now (.nodeSignal c i)) r p.next)

/-- The drain of the partition map is the model's reading (log entry 30), and what reads of BAR0 that are not of 64 bits return, and
that a function in D3hot is not reached, are its choices (log entries 78 and 77). -/
def Obligations.system_register_writes : Prop := registerWritesClaim ∧ hostRegistersClaim ∧ partitionMapClaim ∧ routingWritesClaim

/-- The lanes that a retrain repairs, that Kiln retires a slice, and which of a gap and a credit violation is seen first, are the
model's choice and reading (log entries 16, 20, 28 and 79). -/
def Obligations.link_states_and_vertical_wires : Prop := linkCommandsClaim ∧ linkEventsClaim ∧ verticalWiresClaim

/-- The team of a copy beat, the answer to a monitor, the poison that a whole-line write clears and when credits go back are the
model's choice and reading (log entries 26, 59, 68 and 75), and so are the order of a gap and a missing credit, the messages behind
the first of a flit, ids that are absent or on the wrong side, the poison of a beat and what a tier die answers (log entries 16, 25,
103, 95 and 17). -/
def Obligations.fabric_messages : Prop :=
  sendingClaim ∧ arrivalClaim ∧ remoteRequestsClaim ∧ otherMessagesClaim ∧ answersClaim

/-- The incarnations of agents that join, and that an unanswered HELLO leaves a failed or refused agent so, are the model's reading
(log entry 19), and those that this device shows another its choice (log entry 80); that a function in D3hot is not reached, and
what a BAR4 access of another device's line sends, are its choice and reading (log entries 77 and 82); a BAR4 read of poisoned data
is aborted by choice (log entry 33). -/
def Obligations.joining_and_host : Prop := joiningClaim ∧ acceptClaim ∧ identClaim ∧ hostReadsClaim ∧ hostClaim

/-- Whose cores a blocking entry blocks, and signals that fail to translate, are the model's reading (log entry 56); when seeds are
checked and what an exited member's buffer holds are its choices (log entries 72 and 73). -/
def Obligations.forks_node_events_and_saves : Prop := forkClaim ∧ nodeEventsClaim ∧ saveEventsClaim

/-! ## The machine as a whole -/

/-- Device memory and host memory are in their canonical form: addresses rise, and no entry equals what an unlisted address reads
as. -/
def Sys2Proof.MemoriesCanonical (s : State) : Prop := memWf s.mem = true ∧ bufWf s.hostMem = true

/-- R364, R19, R202, R433, R445, R447, R455, R457, R462, R464: what the manual says the device holds at step 6 of its boot: no
thread, team or group, every context FREE with a pre-emption limit of 50, every quad gated at ratio A, entry 0 and pass count 1 with
its clamp limit 40, every tower online with alarm threshold 100 and every unit in the cache partition, the Damper with B = 120 and T
= 0, every module of the package ACTIVE and every Fazin-X port DOWN, and BOOTSTAT at step 6 without a failure. The memories are in
their canonical form. That the time base starts at 0 is the model's choice (log entry 1). -/
def Obligations.reset_state : Prop :=
  let s := State.reset
  s.now = 0 ∧ s.threads = [] ∧ s.groups = [] ∧ s.teams = [] ∧ s.poison = [] ∧ s.reqs = [] ∧ s.spans = [] ∧
  (∀ c, (ctxOf s c).state = .free ∧ (ctxOf s c).predl = 50#16 ∧ (ctxOf s c).busy = false ∧ (ctxOf s c).cause = 0#8) ∧
  (∀ q, (quadOf s q).gated = true ∧ (quadOf s q).ratio = 0#2 ∧ (quadOf s q).entry = 0#2 ∧ (quadOf s q).pass = 0#2 ∧
    (quadOf s q).floor = 0#2 ∧ (quadOf s q).ilim = 40#16 ∧ (quadOf s q).stopUntil = none) ∧
  (∀ t, (towerOf s t).tstate = 0#2 ∧ (towerOf s t).alarm = 100#8 ∧ (towerOf s t).alrm = false ∧ ∀ u, spCode s t u = 1) ∧
  s.damper.bound = 120 ∧ s.damper.t = 0 ∧ s.damper.reqs = [] ∧
  (∀ p, p < 32 → (linkAt s (portBlk p)).state = .down) ∧
  (∀ t, t < 8 → ∀ e, e < 4 → ∀ m, m < edgeModules e → (linkAt s (towerBlk t e m)).state = .active) ∧
  sysRead s 0x4000 = 6#64 ∧ sysRead s 0x3010 = 0#64 ∧ MemoriesCanonical s

/-- The words of an instruction, padded with zeros to four. -/
def Sys2Proof.wordOf (i : Instr) (k : Nat) : Word32 := (encode i).getD k 0#32

/-- R27 to R51: the words of every well-formed instruction of the opcode map decode to that instruction, and LEN says how many they
are. -/
def Obligations.decode_reads_what_encode_writes : Prop := ∀ i : Instr, instrWf i = true → hasWords i = true →
  decodeWords (wordOf i 0) (wordOf i 1) (wordOf i 2) (wordOf i 3) = some i ∧ lenOf (wordOf i 0) = some (4 * (encode i).length)

/-- R27, R36, R53: words that decode are exactly the words of the instruction that they decode to, which is well-formed: no other words
mean the same, and no bit of an instruction's words is ignored. -/
def Obligations.encode_writes_what_decode_reads : Prop := ∀ (w0 w1 e1 e2 : Word32) (i : Instr), decodeWords w0 w1 e1 e2 = some i →
  instrWf i = true ∧ lenOf w0 = some (4 * (encode i).length) ∧ encode i = [w0, w1, e1, e2].take (encode i).length

/-- The manual's worked encodings decode to the instructions that they stand for. -/
def Sys2Proof.workedEncodingsClaim : Prop :=
  let always : Guard := { gr := 0#10, gb := 0#5, gn := false }
  (∃ f : Alu, decodeWords 0x0000410D#32 0x00601605#32 0x2042200D#32 0#32 = some (.ffma f) ∧ f.dst = 10#10 ∧ f.sa = 11#10 ∧
    f.sb = 12#10 ∧ f.sc = 13#10 ∧ f.rm = 2#3) ∧
  (∃ f : Alu, decodeWords 0x8503800D#32 0x00000C02#32 0x00000100#32 0#32 = some (.iadd f) ∧ f.dst = 5#10 ∧ f.sa = 6#10 ∧
    f.ext = .imm 0x100#32 ∧ f.g.gr = 40#10 ∧ f.g.gb = 3#5 ∧ f.g.gn = true) ∧
  decodeWords 0x8000000D#32 0x00000C02#32 0x100#32 0#32 = some (.iadd
    { g := always, md := 0#3, dst := 5#10, sa := 6#10, sb := 0#10, ta := false, tb := false, tc := false, ext := .imm 0x100#32 }) ∧
  (∃ g, decodeWords 6#32 0xB#32 0#32 1#32 = some (.movImm64 g 22#10 0x100000000#64)) ∧
  (∃ b, decodeWords 0x1600#32 0x200#32 0#32 0#32 = some (.barWait b) ∧ b.sa = 1#10) ∧
  (∃ b, decodeWords 0x700#32 0x2200#32 0#32 0#32 = some (.trap b) ∧ b.sa = 17#10) ∧
  (∃ b, decodeWords 0xF0D#32 0x605#32 0x40#32 0#32 = some (.rdsys b 0x40#32) ∧ b.dst = 10#10 ∧ b.sa = 3#10) ∧
  (∃ b m d, decodeWords 0x401#32 0x80A#32 0x0040024C#32 0#32 = some (.ld b m d) ∧ b.dst = 20#10 ∧ m.off = 0x40#16) ∧
  decodeWords 0xFFFFFFFF#32 0#32 0#32 0#32 = none

/-- The threads of a list stand at `pc`. -/
def Sys2Proof.standingAt (ts : List ThrRef) (pc : Word64) (s : State) : State :=
  ts.foldl (fun s t => modThr s t (fun th => { th with pc := pc })) s

/-- R51: the opcodes that are unassigned. -/
def Sys2Proof.unassigned (op : Nat) : Prop :=
  (0x01E ≤ op ∧ op ≤ 0x03F) ∨ (0x05A ≤ op ∧ op ≤ 0x07F) ∨ (0x088 ≤ op ∧ op ≤ 0x0BF) ∨ (0x0DF ≤ op ∧ op ≤ 0x0FF) ∨
    (0x111 ≤ op ∧ op ≤ 0x13F) ∨ (0x147 ≤ op ∧ op ≤ 0x17F) ∨ (0x190 ≤ op ∧ op ≤ 0x1BF) ∨ (0x1CD ≤ op ∧ op ≤ 0x1FF)

/-- R51: an unassigned opcode raises ILLOP at any length, before any effect: the fetch of such a word inside its block finds no
instruction, and its packet takes the fault; and every word is an instruction, a pad word, or one at which the fetch faults. -/
def Sys2Proof.unassignedOpcodesClaim : Prop :=
  (∀ w0 w1 e1 e2 : Word32, unassigned (w0.toNat / 4 % 512) → decodeWords w0 w1 e1 e2 = none) ∧
  (∀ (bs : List Byte) (n : Nat) (pc : Word64), let w := wordAt bs (pc.toNat % 32)
    unassigned (w.toNat / 4 % 512) → w ≠ 0xFFFFFFFF#32 → (∀ len, lenOf w = some len → pc.toNat % 32 + len ≤ 32) →
    scanBlock bs (n + 1) pc = .bad fILLOP pc 0) ∧
  (∀ (bs : List Byte) (pc : Word64), wordAt bs (pc.toNat % 32) ≠ 0xFFFFFFFF#32 →
    (∃ i n, scanBlock bs 8 pc = .instr i pc n) ∨ scanBlock bs 8 pc = .bad fILLOP pc 0 ∨ scanBlock bs 8 pc = .bad fFETCH_SPLIT pc 0) ∧
  ∀ (s u : State) (core code aux : Nat) (l : ThrRef × Thread) (pc : Word64) (rest : List Act),
    let v := { s with agenda := rest }
    let ready := coreReady v core
    let ts := fillPacket ready l false
    let c := countCycle u core ts
    let p : Packet := { core := core, team := l.1.team, pc := pc, len := 0, thrs := ts.map (fun t => (t.gid, t.lane)), base := c.nextId }
    s.agenda = .pick core :: rest → leader v ready = some l →
    fetchOver core (teamOf v l.1.team) (2 ^ 51 + 1) l.2.pc v = (.bad code pc aux, u) →
    step s = endPacket (exec (.fetchFault (BitVec.ofNat 8 code) aux) { standingAt ts pc c with cur := some p })

/-- R27 to R30: the bytes of a block at an address decode to the instruction at their head, where it does not leave its block; of a page
that another die homes they are the words that its home has answered for this fetch. R177: a picker cycle whose leader fetches it runs it for the packet of the leader, and an event
that is due runs in its turn; the packet is over after it. -/
def Sys2Proof.stepRunsTheDecodedInstructionClaim : Prop :=
  (∀ (s u : State) (core : Nat) (tm : Team) (pc : Word64) (x : Xl) (i : Instr) (n : Nat),
    let o := pc.toNat % 32
    let bs := codeBlock u tm (pc.toNat - o) x.pa
    pc.toNat < 2 ^ 56 → translate s (some core) tm.ctx (pc.toNat - o) fetchAccess = .ok x u →
    isFar u x.pa = false → poisoned u (x.pa / 128) (wordMask (x.pa % 128) 32) = false → lenOf (wordAt bs o) = some n → o + n ≤ 32 →
    decodeBytes (bs.drop o) = some i → bs.length = 32 →
    instrWf i = true ∧ fetchAt s core tm pc =
      (.instr i pc n, { u with fresh := u.fresh + 1, codeFrames := addSorted (x.pa / 65536) u.codeFrames })) ∧
  (∀ (s u : State) (core : Nat) (tm : Team) (pc : Word64) (x : Xl) (f : FarRead) (i : Instr) (n : Nat),
    let o := pc.toNat % 32
    let bs := (f.bytes.drop (x.pa % 128)).take 32
    pc.toNat < 2 ^ 56 → translate s (some core) tm.ctx (pc.toNat - o) fetchAccess = .ok x u → isFar u x.pa = true →
    farRead u (x.pa / 128) = some f → f.bad = false → bs.length = 32 → lenOf (wordAt bs o) = some n → o + n ≤ 32 →
    decodeBytes (bs.drop o) = some i → instrWf i = true ∧ fetchAt s core tm pc = (.instr i pc n, dropFarReads u [x.pa / 128])) ∧
  (∀ (s v u : State) (core n : Nat) (l : ThrRef × Thread) (i : Instr) (pc : Word64) (rest : List Act),
    let ready := coreReady v core
    let ts := fillPacket ready l (isRendezvous i)
    let c := countCycle u core ts
    let p : Packet := { core := core, team := l.1.team, pc := pc, len := n, thrs := ts.map (fun t => (t.gid, t.lane)), base := c.nextId }
    (s.agenda = .pick core :: rest ∧ v = { s with agenda := rest }) ∨
      (s.agenda = [] ∧ dueEvent s = none ∧ dueSave s = none ∧ dueMove s = none ∧ duePicker s = some core ∧ v = s) →
    leader v ready = some l → fetchOver core (teamOf v l.1.team) (2 ^ 51 + 1) l.2.pc v = (.instr i pc n, u) →
    usesSfu i = false ∨ (coreOf u core).sfuUntil ≤ coreClock u core → standIndex c l i pc = none →
    step s = endPacket (exec i { standingAt ts pc c with cur := some p })) ∧
  (∀ (s u : State) (i : Instr), s.agenda = [] → dueEvent s = some (i, u) → step s = endPacket (exec i u)) ∧
  ∀ (s : State) (i : Instr) (rest : List Act), s.agenda = .ev i :: rest → step s = endPacket (exec i { s with agenda := rest })

/-- R464: a device whose boot has stopped, and for which nothing is due, makes no further step; every other step of a device whose boot
has not stopped answers a next state where its instruction does. R3: with nothing due, time passes. -/
def Sys2Proof.timePassesClaim : Prop := ∀ s : State, s.agenda = [] → dueEvent s = none → dueSave s = none → dueMove s = none →
  duePicker s = none → dueBallast s = none →
  (s.kiln.stopped = true → step s = .fault .bootStopped) ∧
  (s.kiln.stopped = false → ∃ n, s.now < n ∧ step s = .next { s with now := n })

/-- Every step keeps the memories in their canonical form. The canonical form is the model's own. -/
def Obligations.steps_keep_memories_canonical : Prop := ∀ s t : State, MemoriesCanonical s → step s = .next t → MemoriesCanonical t

def Obligations.encodings_of_the_manual : Prop := workedEncodingsClaim ∧ unassignedOpcodesClaim

/-- The order of what acts next is the model's own (log entry 10). -/
def Obligations.a_step_runs_the_decoded_instruction : Prop := stepRunsTheDecodedInstructionClaim ∧ timePassesClaim
end

