-- ==== Sys2Proof/Laws/Tab.lean ====
section
/-! SUPPORT. The laws of tables: reading after writing. -/

namespace Sys2Proof.Machine

variable {α : Type}

theorem tget_tput (k j : Nat) (x : α) (t : Tab α) : tget (tput k x t) j = if j = k then some x else tget t j := by
  induction t with
  | nil => simp only [tput, tget]
  | cons e r ih =>
    obtain ⟨i, y⟩ := e
    by_cases h1 : k < i
    · simp only [tput, if_pos h1, tget]
    · by_cases h2 : k = i
      · subst h2; simp only [tput, h1, if_false, if_true, tget]; split <;> simp_all
      · simp only [tput, h1, h2, if_false, tget, ih]
        by_cases h3 : j = i
        · subst h3; have : j ≠ k := fun h => h2 h.symm
          simp [this]
        · simp [h3]

theorem tget_tdel (k j : Nat) (t : Tab α) : tget (tdel k t) j = if j = k then none else tget t j := by
  induction t with
  | nil => simp [tdel, tget]
  | cons e r ih =>
    obtain ⟨i, y⟩ := e
    by_cases h : k = i
    · subst h; simp only [tdel, if_true, ih, tget]; split <;> simp_all
    · simp only [tdel, h, if_false, tget, ih]
      by_cases h3 : j = i
      · subst h3; have : j ≠ k := fun h' => h h'.symm
        simp [this]
      · simp [h3]

theorem tgetD_tput (k j : Nat) (x d : α) (t : Tab α) : tgetD (tput k x t) j d = if j = k then x else tgetD t j d := by
  simp only [tgetD, tget_tput]; split <;> rfl

theorem tgetD_tset [DecidableEq α] (d : α) (k j : Nat) (x : α) (t : Tab α) :
    tgetD (tset d k x t) j d = if j = k then x else tgetD t j d := by
  unfold tset; split
  · simp only [tgetD, tget_tdel]; split <;> simp_all
  · exact tgetD_tput k j x d t

end Sys2Proof.Machine
end

