-- ==== Sys2Proof/Laws/Thread.lean ====
section
/-! SUPPORT. The laws of the accessors of threads, and what a form that acts for each thread does (`perThread_passed`). -/

namespace Sys2Proof.Machine

theorem thrKey_inj {a b : ThrRef} (ha : a.gid < 32 ∧ a.lane < 32) (hb : b.gid < 32 ∧ b.lane < 32)
    (h : thrKey a = thrKey b) : a = b := by
  obtain ⟨a1, a2, a3⟩ := a
  obtain ⟨b1, b2, b3⟩ := b
  simp only [thrKey] at *
  have h1 : a1 = b1 := by omega
  have h2 : a2 = b2 := by omega
  have h3 : a3 = b3 := by omega
  subst h1 h2 h3; rfl

@[simp] theorem thrOf_setThr_self (s : State) (r : ThrRef) (x : Thread) : thrOf (setThr s r x) r = x := by
  simp [thrOf, setThr, tgetD_tput]

theorem thrOf_setThr_ne (s : State) (r q : ThrRef) (x : Thread) (h : thrKey q ≠ thrKey r) :
    thrOf (setThr s r x) q = thrOf s q := by
  simp [thrOf, setThr, tgetD_tput, h]

@[simp] theorem thrOf_modThr_self (s : State) (r : ThrRef) (f : Thread → Thread) : thrOf (modThr s r f) r = f (thrOf s r) := by
  simp [modThr]

theorem thrOf_modThr_ne (s : State) (r q : ThrRef) (f : Thread → Thread) (h : thrKey q ≠ thrKey r) :
    thrOf (modThr s r f) q = thrOf s q := by
  simp [modThr, thrOf_setThr_ne _ _ _ _ h]

/-- Two states that differ in their threads only. -/
def SameBut (s t : State) : Prop := t = { s with threads := t.threads }

theorem SameBut.refl (s : State) : SameBut s s := rfl

theorem thrClock_same {s t : State} (h : SameBut s t) (r : ThrRef) : thrClock t r = thrClock s r := by
  unfold SameBut at h; rw [h]; rfl

theorem SameBut.modThr {s t : State} (h : SameBut s t) (r : ThrRef) (f : Thread → Thread) : SameBut s (modThr t r f) := by
  unfold SameBut at *; rw [h]; rfl

theorem SameBut.advance {s t : State} (h : SameBut s t) (r : ThrRef) (pc : Word64) : SameBut s (advance t r pc) :=
  h.modThr r _

theorem SameBut.trans {s t u : State} (h : SameBut s t) (h' : SameBut t u) : SameBut s u := by
  unfold SameBut at *; rw [h'.trans (congrArg (fun x : State => { x with threads := u.threads }) h)]

/-- What is done for one thread of a packet that the fold has not reached yet. -/
theorem stepThread_passed (o : Opnds) (p : Packet) (body : ThrRef → State → ThrOut) (s s' : State) (r : ThrRef)
    (fs : List (ThrRef × Flt)) (eff : Thread → Thread) (pc : Word64)
    (hs : SameBut s s') (hr : thrOf s' r = thrOf s r) (hg : skips o s r = true ∨ takesPart o s r = true)
    (hb : takesPart o s r = true → body r s' = .done (modThr s' r eff) pc) :
    ∃ s'', stepThread o p body r (s', fs) = (s'', fs) ∧ SameBut s s'' ∧
      thrOf s'' r = (if guardBit (thrOf s r) o.g then stepped (thrClock s r) pc (eff (thrOf s r)) else stepped (thrClock s r) p.next (thrOf s r)) ∧
      ∀ k, k ≠ thrKey r → tget s''.threads k = tget s'.threads k := by
  have hnow := thrClock_same hs r
  have hteams : s'.teams = s.teams := by rw [hs]
  rcases hg with hg | hg
  · simp only [skips, Bool.and_eq_true, Bool.not_eq_true'] at hg
    obtain ⟨⟨h1, h2⟩, h3⟩ := hg
    refine ⟨advance s' r p.next, ?_, hs.advance r _, ?_, ?_⟩
    · simp [stepThread, hr, h1, h2, h3]
    · simp [h3, advance, stepped, hr, hnow]
    · intro k hk; simp [advance, modThr, setThr, tget_tput, hk]
  · have hnow' : thrClock (Machine.modThr s' r eff) r = thrClock s r := thrClock_same (hs.modThr r eff) r
    have hb := hb hg
    simp only [takesPart, Bool.and_eq_true, Bool.not_eq_true', List.isEmpty_iff, Option.isNone_iff_eq_none] at hg
    obtain ⟨⟨⟨⟨h1, h2⟩, h3⟩, h4⟩, h5⟩ := hg
    have h5' : stepSeven o (isUser (teamOf s' r.team)) (thrOf s r) = none := by
      simp only [teamOf, hteams]; exact h5
    refine ⟨advance (modThr s' r eff) r pc, ?_, (hs.modThr r eff).advance r _, ?_, ?_⟩
    · simp [stepThread, hr, h1, h2, h3, h4, h5', hb]
    · simp [h3, advance, stepped, hr, hnow']
    · intro k hk; simp [advance, modThr, setThr, tget_tput, hk]

theorem tgetD_of_tget {α : Type} {t u : Tab α} {k : Nat} (d : α) (h : tget t k = tget u k) : tgetD t k d = tgetD u k d := by
  simp [tgetD, h]

/-- Everything that a form that acts for each thread does, when the packet runs it and no thread faults. -/
theorem perThread_passed (o : Opnds) (ill : Team → Bool) (body : Packet → ThrRef → State → ThrOut) (s : State) (p : Packet)
    (eff : ThrRef → Thread → Thread) (pc : ThrRef → Word64) (h : Runs o s p) (hill : ill (teamOf s p.team) = false)
    (hb : ∀ r ∈ p.refs, takesPart o s r = true → ∀ s', SameBut s s' → thrOf s' r = thrOf s r →
      body p r s' = .done (modThr s' r (eff r)) (pc r)) :
    ∃ t, perThread o ill body s = .next t ∧ Passed s t p o eff pc := by
  obtain ⟨hc, hregs, hnd, hlt, hg⟩ := h
  have key : ∀ (rs : List ThrRef) (s' : State), rs.Nodup → (∀ r ∈ rs, r ∈ p.refs) → SameBut s s' →
      (∀ r ∈ rs, thrOf s' r = thrOf s r) →
      ∃ t, rs.foldl (fun acc t => stepThread o p (body p) t acc) (s', ([] : List (ThrRef × Flt))) = (t, []) ∧ SameBut s t ∧
        (∀ r ∈ rs, thrOf t r =
          if guardBit (thrOf s r) o.g then stepped (thrClock s r) (pc r) (eff r (thrOf s r)) else stepped (thrClock s r) p.next (thrOf s r)) ∧
        ∀ k, k ∉ rs.map thrKey → tget t.threads k = tget s'.threads k := by
    intro rs
    induction rs with
    | nil => intro s' _ _ hs _; exact ⟨s', rfl, hs, by simp, by simp⟩
    | cons r rs ih =>
      intro s' hn hm hs hr
      obtain ⟨s1, e1, hs1, ht1, hk1⟩ := stepThread_passed o p (body p) s s' r [] (eff r) (pc r) hs (hr r (by simp))
        (hg r (hm r (by simp))) (fun hp => hb r (hm r (by simp)) hp s' hs (hr r (by simp)))
      have hne : ∀ q ∈ rs, thrKey q ≠ thrKey r := by
        intro q hq e
        have := thrKey_inj (hlt q (hm q (by simp [hq]))) (hlt r (hm r (by simp))) e
        subst this; simp [hq] at hn
      obtain ⟨t, e2, hs2, ht2, hk2⟩ := ih s1 (by simp at hn; exact hn.2) (fun q hq => hm q (by simp [hq])) hs1 (by
        intro q hq
        rw [← hr q (by simp [hq])]
        exact tgetD_of_tget _ (hk1 _ (hne q hq)))
      refine ⟨t, by simp only [List.foldl_cons, e1]; exact e2, hs2, ?_, ?_⟩
      · intro q hq
        rcases List.mem_cons.mp hq with rfl | hq
        · rw [← ht1]
          refine tgetD_of_tget _ (hk2 _ ?_)
          simp only [List.mem_map, not_exists, not_and]
          intro x hx; exact hne x hx
        · exact ht2 q hq
      · intro k hk
        simp only [List.map_cons, List.mem_cons, not_or] at hk
        rw [hk2 k hk.2, hk1 k hk.1]
  obtain ⟨t, e, hs, ht, hk⟩ := key p.refs s hnd (fun _ h => h) (SameBut.refl s) (fun _ _ => rfl)
  refine ⟨t, ?_, ht, hk, hs⟩
  simp [perThread, hc, hregs, hill, runThreads, e, deliver, waitFaults]

end Sys2Proof.Machine
end

