-- ==== Sys2Proof/Laws/Alu.lean ====
section
/-! SUPPORT. What a form of classes 0 to 2 does: `runAlu_passed` for every such form, `runAlu_writes` for those without flags. -/

namespace Sys2Proof.Machine

theorem srcVal_same {s s' : State} (h : SameBut s s') (r : ThrRef) (th : Thread) (n : BitVec 10) (b : Bool) (k : Nat) :
    srcVal s' r th n b k = srcVal s r th n b k := by
  have hg : s'.groups = s.groups := by rw [h]
  simp [srcVal, thrSreg, grpOf, hg]

theorem aluThread_done (u : AluUse) (f : Alu) (op : AluOp) (p : Packet) (r : ThrRef) (s s' : State) (hs : SameBut s s')
    (hr : thrOf s' r = thrOf s r)
    (ht : maskBit (thrOf s r) f = true →
      trapping (thrOf s r).fpc (op (thrOf s r) (opA u f s r) (opB u f s r) (opC u f s r)).flags = 0#5) :
    aluThread u f op p r s' =
      .done (modThr s' r (aluEffect u f (op (thrOf s r) (opA u f s r) (opB u f s r) (opC u f s r)))) p.next := by
  have hA : aluA s' r (thrOf s r) u f = opA u f s r := srcVal_same hs _ _ _ _ _
  have hB : aluB s' r (thrOf s r) u f = opB u f s r := by
    simp only [aluB, opB]; split
    · rfl
    · exact srcVal_same hs _ _ _ _ _
  have hC : aluC s' r (thrOf s r) u f = opC u f s r := srcVal_same hs _ _ _ _ _
  simp only [aluThread, hr, hA, hB, hC]
  by_cases hm : maskBit (thrOf s r) f = true
  · simp [hm, ht hm, modThr, hr, aluEffect]
  · simp [hm, modThr, hr, aluEffect]

/-- A form of classes 0 to 2 that raises no enabled flag. -/
theorem runAlu_passed (u : AluUse) (f : Alu) (op : AluOp) (s : State) (p : Packet) (h : Runs (aluOpnds u f) s p)
    (ht : ∀ r ∈ p.refs, takesPart (aluOpnds u f) s r = true → maskBit (thrOf s r) f = true →
      trapping (thrOf s r).fpc (op (thrOf s r) (opA u f s r) (opB u f s r) (opC u f s r)).flags = 0#5) :
    ∃ t, runAlu u f op s = .next t ∧
      Passed s t p (aluOpnds u f)
        (fun r => aluEffect u f (op (thrOf s r) (opA u f s r) (opB u f s r) (opC u f s r))) (fun _ => p.next) :=
  perThread_passed _ _ _ s p _ _ h rfl
    (fun r hr hp s' hs he => aluThread_done u f op p r s s' hs he (fun hm => ht r hr hp hm))

theorem raiseFlags_none (x : Word32) : raiseFlags x 0#5 = x := by simp [raiseFlags]

/-- A form of classes 0 to 2 without flags and without the generator. -/
theorem runAlu_writes (u : AluUse) (f : Alu) (g : Word64 → Word64 → Word64 → Word64) (s : State) (p : Packet)
    (h : Runs (aluOpnds u f) s p) :
    ∃ t, runAlu u f (pureOp g) s = .next t ∧
      Passed s t p (aluOpnds u f) (fun r => writes u f (g (opA u f s r) (opB u f s r) (opC u f s r))) (fun _ => p.next) := by
  obtain ⟨t, e, h1, h2, h3⟩ := runAlu_passed u f (pureOp g) s p h (by intros; simp [pureOp, trapping])
  refine ⟨t, e, ?_, h2, h3⟩
  intro r hr
  rw [h1 r hr]
  simp [aluEffect, writes, pureOp, raiseFlags_none]

end Sys2Proof.Machine
end

