-- ==== Sys2Proof/Laws/Memory.lean ====
section
/-! SUPPORT. The laws of memory: every write keeps the canonical form, and what a read finds after a write. -/

namespace Sys2Proof.Machine

/-! ## Rising keys -/

variable {α : Type}

/-- Every key of a table is above `k`. -/
def Above (k : Nat) (t : Tab α) : Prop := ∀ e ∈ t, k < e.1

theorem tsorted_cons (j : Nat) (y : α) (r : Tab α) : tsorted ((j, y) :: r) = true ↔ Above j r ∧ tsorted r = true := by
  induction r generalizing j y with
  | nil => simp [tsorted, Above]
  | cons e r ih =>
    obtain ⟨k, z⟩ := e
    simp only [tsorted, Bool.and_eq_true, decide_eq_true_eq]
    constructor
    · rintro ⟨h, hs⟩
      refine ⟨?_, hs⟩
      intro e he
      rcases List.mem_cons.mp he with rfl | he
      · exact h
      · exact Nat.lt_trans h (((ih k z).mp hs).1 e he)
    · rintro ⟨h, hs⟩
      exact ⟨h (k, z) (by simp), hs⟩

theorem mem_tput {k : Nat} {x : α} {t : Tab α} {e : Nat × α} (h : e ∈ tput k x t) : e = (k, x) ∨ e ∈ t := by
  induction t with
  | nil => simpa [tput] using h
  | cons d r ih =>
    obtain ⟨j, y⟩ := d
    unfold tput at h
    split at h
    · simpa using h
    · split at h
      · rcases List.mem_cons.mp h with h | h <;> simp [h]
      · rcases List.mem_cons.mp h with h | h
        · simp [h]
        · rcases ih h with h | h <;> simp [h]

theorem mem_tdel {k : Nat} {t : Tab α} {e : Nat × α} (h : e ∈ tdel k t) : e ∈ t := by
  induction t with
  | nil => simp [tdel] at h
  | cons d r ih =>
    obtain ⟨j, y⟩ := d
    unfold tdel at h
    split at h
    · exact List.mem_cons_of_mem _ (ih h)
    · rcases List.mem_cons.mp h with h | h
      · simp [h]
      · exact List.mem_cons_of_mem _ (ih h)

theorem tsorted_tput (k : Nat) (x : α) (t : Tab α) (h : tsorted t = true) : tsorted (tput k x t) = true := by
  induction t with
  | nil => rfl
  | cons e r ih =>
    obtain ⟨j, y⟩ := e
    have hs := (tsorted_cons j y r).mp h
    unfold tput
    split
    · rename_i hk
      refine (tsorted_cons k x _).mpr ⟨?_, h⟩
      intro e he
      rcases List.mem_cons.mp he with rfl | he
      · exact hk
      · exact Nat.lt_trans hk (hs.1 e he)
    · split
      · rename_i hk; subst hk; exact (tsorted_cons k x r).mpr hs
      · rename_i h1 h2
        refine (tsorted_cons j y _).mpr ⟨?_, ih hs.2⟩
        intro e he
        rcases mem_tput he with rfl | he
        · show j < k; omega
        · exact hs.1 e he

theorem tsorted_tdel (k : Nat) (t : Tab α) (h : tsorted t = true) : tsorted (tdel k t) = true := by
  induction t with
  | nil => rfl
  | cons e r ih =>
    obtain ⟨j, y⟩ := e
    have hs := (tsorted_cons j y r).mp h
    unfold tdel
    split
    · exact ih hs.2
    · exact (tsorted_cons j y _).mpr ⟨fun e he => hs.1 e (mem_tdel he), ih hs.2⟩

theorem tsorted_filter (p : Nat × α → Bool) (t : Tab α) (h : tsorted t = true) : tsorted (t.filter p) = true := by
  induction t with
  | nil => rfl
  | cons e r ih =>
    obtain ⟨j, y⟩ := e
    have hs := (tsorted_cons j y r).mp h
    simp only [List.filter_cons]
    split
    · exact (tsorted_cons j y _).mpr ⟨fun e he => hs.1 e ((List.mem_filter.mp he).1), ih hs.2⟩
    · exact ih hs.2

/-- A key of a sorted table stands in it once. -/
theorem tdel_absent (k : Nat) (t : Tab α) : ∀ e ∈ tdel k t, e.1 ≠ k := by
  induction t with
  | nil => simp [tdel]
  | cons d r ih =>
    obtain ⟨j, y⟩ := d
    unfold tdel
    split
    · exact ih
    · rename_i h
      intro e he
      rcases List.mem_cons.mp he with rfl | he
      · exact fun h' => h h'.symm
      · exact ih e he

/-! ## Device memory -/

theorem memWf_iff (m : Mem) : memWf m = true ↔ tsorted m = true ∧ ∀ c ∈ m, c.2 ≠ memBlank c.1 := by
  simp [memWf]

theorem memWf_nil : memWf [] = true := rfl

theorem memWf_memWrite (m : Mem) (a : Nat) (b : Byte) (h : memWf m = true) : memWf (memWrite m a b) = true := by
  rw [memWf_iff] at *
  unfold memWrite
  split
  · exact ⟨tsorted_tdel _ _ h.1, fun c hc => h.2 c (mem_tdel hc)⟩
  · rename_i hb
    refine ⟨tsorted_tput _ _ _ h.1, fun c hc => ?_⟩
    rcases mem_tput hc with rfl | hc
    · exact hb
    · exact h.2 c hc

theorem memWf_memWriteN (bs : List Byte) : ∀ (m : Mem) (a : Nat), memWf m = true → memWf (memWriteN m a bs) = true := by
  induction bs with
  | nil => intro m a h; exact h
  | cons b r ih => intro m a h; exact ih _ _ (memWf_memWrite m a b h)

theorem memWf_filter (p : Host.Cell → Bool) (m : Mem) (h : memWf m = true) : memWf (m.filter p) = true := by
  rw [memWf_iff] at *
  exact ⟨tsorted_filter p m h.1, fun c hc => h.2 c ((List.mem_filter.mp hc).1)⟩

theorem memRead_memWrite (m : Mem) (a j : Nat) (b : Byte) : memRead (memWrite m a b) j = if j = a then b else memRead m j := by
  unfold memRead memWrite
  split
  · rename_i h; rw [tget_tdel]; split
    · rename_i h'; subst h'; simpa using h.symm
    · rfl
  · rw [tget_tput]; split <;> rfl

theorem memRead_memWriteN (bs : List Byte) : ∀ (m : Mem) (a j : Nat),
    memRead (memWriteN m a bs) j = if a ≤ j ∧ j < a + bs.length then bs.getD (j - a) 0#8 else memRead m j := by
  induction bs with
  | nil => intro m a j; rw [memWriteN, if_neg (by simp only [List.length_nil]; omega)]
  | cons b r ih =>
    intro m a j
    rw [memWriteN, ih, memRead_memWrite]
    by_cases h1 : j = a
    · subst h1
      rw [if_neg (by omega), if_pos rfl, if_pos (by simp only [List.length_cons]; omega), Nat.sub_self]
      rfl
    · by_cases h2 : a + 1 ≤ j ∧ j < a + 1 + r.length
      · have h4 : j - a = (j - (a + 1)) + 1 := by omega
        rw [if_pos h2, if_pos (by simp only [List.length_cons]; omega), h4, List.getD_cons_succ]
      · rw [if_neg h2, if_neg h1, if_neg (by simp only [List.length_cons]; omega)]

/-! ## Buffers and host memory -/

theorem bufWf_iff (m : Mem) : bufWf m = true ↔ tsorted m = true ∧ ∀ c ∈ m, c.2 ≠ 0#8 := by
  simp [bufWf]

theorem bufWf_nil : bufWf [] = true := rfl

theorem bufWf_bufWrite (m : Mem) (a : Nat) (b : Byte) (h : bufWf m = true) : bufWf (bufWrite m a b) = true := by
  rw [bufWf_iff] at *
  unfold bufWrite tset
  split
  · exact ⟨tsorted_tdel _ _ h.1, fun c hc => h.2 c (mem_tdel hc)⟩
  · rename_i hb
    refine ⟨tsorted_tput _ _ _ h.1, fun c hc => ?_⟩
    rcases mem_tput hc with rfl | hc
    · exact hb
    · exact h.2 c hc

theorem bufWf_bufWriteN (bs : List Byte) : ∀ (m : Mem) (a : Nat), bufWf m = true → bufWf (bufWriteN m a bs) = true := by
  induction bs with
  | nil => intro m a h; exact h
  | cons b r ih => intro m a h; exact ih _ _ (bufWf_bufWrite m a b h)

theorem bufRead_bufWrite (m : Mem) (a j : Nat) (b : Byte) : bufRead (bufWrite m a b) j = if j = a then b else bufRead m j :=
  tgetD_tset 0#8 a j b m

/-! ## Physical memory -/

/-- One setting of bytes changes device memory or host memory only. -/
theorem physSet_same (s : State) (pa : Nat) (bs : List Byte) :
    physSet s pa bs = { s with mem := (physSet s pa bs).mem, hostMem := (physSet s pa bs).hostMem } := by
  unfold physSet; split
  · rfl
  · split <;> rfl

theorem physSet_canonical (s : State) (pa : Nat) (bs : List Byte) (h : memWf s.mem = true ∧ bufWf s.hostMem = true) :
    memWf (physSet s pa bs).mem = true ∧ bufWf (physSet s pa bs).hostMem = true := by
  unfold physSet; split
  · exact h
  · split
    · exact ⟨h.1, bufWf_bufWriteN _ _ _ h.2⟩
    · exact ⟨memWf_memWriteN _ _ _ h.1, h.2⟩

/-- A write at a home changes device memory or host memory, and keeps both in canonical form; of the rest of the state it changes
what is kept of blocks of code only (R30). -/
theorem physPut_same (s : State) (pa : Nat) (bs : List Byte) :
    physPut s pa bs = { s with
      mem := (physPut s pa bs).mem, hostMem := (physPut s pa bs).hostMem, codePast := (physPut s pa bs).codePast } := by
  unfold physPut; rw [physSet_same]; rfl

theorem physPut_canonical (s : State) (pa : Nat) (bs : List Byte) (h : memWf s.mem = true ∧ bufWf s.hostMem = true) :
    memWf (physPut s pa bs).mem = true ∧ bufWf (physPut s pa bs).hostMem = true := physSet_canonical _ pa bs h

theorem physSetAt_same (line : Nat) (bs : List (Nat × Byte)) : ∀ s : State,
    ∃ m h, physSetAt s line bs = { s with mem := m, hostMem := h } := by
  induction bs with
  | nil => intro s; exact ⟨s.mem, s.hostMem, rfl⟩
  | cons e r ih =>
    intro s
    obtain ⟨o, b⟩ := e
    obtain ⟨m, h, hr⟩ := ih (physSet s (line * 128 + o) [b])
    refine ⟨m, h, ?_⟩
    show physSetAt (physSet s (line * 128 + o) [b]) line r = _
    rw [hr, physSet_same s (line * 128 + o) [b]]

theorem physSetAt_canonical (line : Nat) (bs : List (Nat × Byte)) : ∀ s : State, memWf s.mem = true ∧ bufWf s.hostMem = true →
    memWf (physSetAt s line bs).mem = true ∧ bufWf (physSetAt s line bs).hostMem = true := by
  induction bs with
  | nil => intro s h; exact h
  | cons e r ih => intro s h; exact ih _ (physSet_canonical s _ _ h)

theorem physPutAt_same (line : Nat) (bs : List (Nat × Byte)) (s : State) :
    ∃ m h c, physPutAt s line bs = { s with mem := m, hostMem := h, codePast := c } := by
  obtain ⟨m, h, hr⟩ := physSetAt_same line bs (keepCode s (line * 128) 128)
  exact ⟨m, h, _, hr⟩

theorem physPutAt_canonical (line : Nat) (bs : List (Nat × Byte)) (s : State) (h : memWf s.mem = true ∧ bufWf s.hostMem = true) :
    memWf (physPutAt s line bs).mem = true ∧ bufWf (physPutAt s line bs).hostMem = true := physSetAt_canonical line bs _ h

end Sys2Proof.Machine
end

