-- ==== Sys2Proof/Laws/Once.lean ====
section
/-! SUPPORT. What the two frames of a packet do for a thread alone in its packet, and for a form that acts once. -/

namespace Sys2Proof.Machine

@[simp] theorem deliver_none (core : Nat) (pc next : Word64) (s : State) : deliver core pc next [] s = s := by
  simp [deliver, waitFaults]

theorem takesPart_iff (o : Opnds) (s : State) (r : ThrRef) : takesPart o s r = true ↔
    (regOf (thrOf s r) o.g.gr.toNat).full = true ∧ (regOf (thrOf s r) o.g.gr.toNat).poison = false ∧
    guardBit (thrOf s r) o.g = true ∧ missing o (thrOf s r) = [] ∧ stepSeven o (isUser (teamOf s r.team)) (thrOf s r) = none := by
  simp only [takesPart, Bool.and_eq_true, Bool.not_eq_true', List.isEmpty_iff, Option.isNone_iff_eq_none]
  exact ⟨fun ⟨⟨⟨⟨a, b⟩, c⟩, d⟩, e⟩ => ⟨a, b, c, d, e⟩, fun ⟨a, b, c, d, e⟩ => ⟨⟨⟨⟨a, b⟩, c⟩, d⟩, e⟩⟩

/-- What a body's answer for the one thread of a packet comes to. -/
def aloneOut (p : Packet) (r : ThrRef) (s : State) : ThrOut → State
  | .done s' pc => advance s' r pc
  | .fault f => deliver p.core p.pc p.next [(r, f)] s
  | .failed s' f => deliver p.core p.pc p.next [(r, f)] s'
  | .left s' => s'

theorem runThreads_alone (o : Opnds) (p : Packet) (r : ThrRef) (body : ThrRef → State → ThrOut) (s : State) (hp : p.refs = [r])
    (h : takesPart o s r = true) : runThreads o p body s = aloneOut p r s (body r s) := by
  obtain ⟨h1, h2, h3, h4, h5⟩ := (takesPart_iff o s r).mp h
  simp only [runThreads, hp, List.foldl_cons, List.foldl_nil, stepThread, h1, h2, h3, h4, h5, Bool.not_true, Bool.false_eq_true,
    if_false]
  cases body r s <;> simp [aloneOut]

/-- Everything that a form that acts for each thread does for a thread alone in its packet. -/
theorem perThread_alone (o : Opnds) (ill : Team → Bool) (body : Packet → ThrRef → State → ThrOut) (s : State) (p : Packet)
    (r : ThrRef) (h : Alone o s p r) (hill : ill (teamOf s p.team) = false) :
    perThread o ill body s = .next (aloneOut p r s (body p r s)) := by
  obtain ⟨hc, hp, hr, ht⟩ := h
  simp only [perThread, hc, hr, hill, Bool.not_true, Bool.or_self, Bool.false_eq_true, if_false]
  rw [runThreads_alone o p r (body p) s hp ht]

/-- What a form that acts once comes to, `t` being the lowest home lane that executes it. -/
def onceOut (o : Opnds) (p : Packet) (each : ThrRef → State → State) (s : State) : OnceOut → State
  | .done s' => runThreads o p (fun t s => .done (each t s) p.next) s'
  | .fault f => runThreads o p (fun _ _ => .fault f) s
  | .wait s' w => runThreads o p (fun t s => .left (makeWait s t w)) s'

/-- Everything that a form that acts once for its packet does, where some thread of it executes the form. -/
theorem oncePerPacket_leads (o : Opnds) (ill : Team → Bool) (act : Packet → ThrRef → State → OnceOut)
    (each : ThrRef → State → State) (s : State) (p : Packet) (t : ThrRef) (hc : s.cur = some p)
    (hr : regsOk o (teamOf s p.team).hdr.regs = true) (hill : ill (teamOf s p.team) = false)
    (ht : (p.refs.filter (takesPart o s)).head? = some t) :
    oncePerPacket o ill act each s = .next (onceOut o p each s (act p t s)) := by
  obtain ⟨ts, hts⟩ : ∃ ts, p.refs.filter (takesPart o s) = t :: ts := by
    cases h : p.refs.filter (takesPart o s) with
    | nil => rw [h] at ht; simp at ht
    | cons a l => rw [h] at ht; simp at ht; exact ⟨l, by rw [ht]⟩
  simp only [oncePerPacket, hc, hr, hill, Bool.not_true, Bool.or_self, Bool.false_eq_true, if_false, hts]
  cases act p t s <;> rfl

end Sys2Proof.Machine
end

