-- ==== Sys2Proof/Laws/PerInstr.lean ====
section
/-! SUPPORT. What the encoder writes, one lemma for each constructor: an instruction of the opcode map is a base word of 64 bits
whose LEN field is the number of the words after it, at most two (R27, R36); an event has no word. -/

namespace Sys2Proof.Laws.Encoding

/-- The words are a base word and as many more as its LEN says. -/
def Shaped (ws : List Word32) : Prop :=
  ∃ op len b ext, ws = baseWords op len b ++ ext ∧ ext.length = len.toNat ∧ len.toNat ≤ 2

def Statement (i : Instr) : Prop := encode i = [] ∨ Shaped (encode i)

theorem events {i : Instr} (h : encode i = []) : Statement i := .inl h

theorem shaped_alu (op : BitVec 9) (f : Alu) : Shaped (aluWords op f) := by
  unfold aluWords
  split
  · exact ⟨op, 0#2, _, [], (List.append_nil _).symm, rfl, by decide⟩
  · exact ⟨op, 1#2, _, _, rfl, rfl, by decide⟩
  · exact ⟨op, 1#2, _, _, rfl, rfl, by decide⟩
  · exact ⟨op, 2#2, _, _, rfl, rfl, by decide⟩

theorem shaped_opt (op : BitVec 9) (b : Base) (m : Option Word32) : Shaped (baseOptWords op b m) := by
  cases m
  · exact ⟨op, 0#2, _, [], (List.append_nil _).symm, rfl, by decide⟩
  · exact ⟨op, 1#2, _, _, rfl, rfl, by decide⟩

theorem shaped_mem (op : BitVec 9) (b : Base) (m : MemWord) (d : Option Word32) : Shaped (memWords op b m d) := by
  cases d
  · exact ⟨op, 1#2, _, _, rfl, rfl, by decide⟩
  · exact ⟨op, 2#2, _, _, rfl, rfl, by decide⟩

theorem nop (f : Alu) : Statement (.nop f) := .inr (shaped_alu _ f)
theorem mov (f : Alu) : Statement (.mov f) := .inr (shaped_alu _ f)
theorem movImm64 (g : Guard) (dst : BitVec 10) (imm : Word64) : Statement (.movImm64 g dst imm) := .inr ⟨_, 2#2, _, _, rfl, rfl, by decide⟩
theorem sel (f : Alu) : Statement (.sel f) := .inr (shaped_alu _ f)
theorem iadd (f : Alu) : Statement (.iadd f) := .inr (shaped_alu _ f)
theorem isub (f : Alu) : Statement (.isub f) := .inr (shaped_alu _ f)
theorem imul (f : Alu) : Statement (.imul f) := .inr (shaped_alu _ f)
theorem imad (f : Alu) : Statement (.imad f) := .inr (shaped_alu _ f)
theorem idiv (f : Alu) : Statement (.idiv f) := .inr (shaped_alu _ f)
theorem irem (f : Alu) : Statement (.irem f) := .inr (shaped_alu _ f)
theorem imin (f : Alu) : Statement (.imin f) := .inr (shaped_alu _ f)
theorem imax (f : Alu) : Statement (.imax f) := .inr (shaped_alu _ f)
theorem iabs (f : Alu) : Statement (.iabs f) := .inr (shaped_alu _ f)
theorem ineg (f : Alu) : Statement (.ineg f) := .inr (shaped_alu _ f)
theorem and (f : Alu) : Statement (.and f) := .inr (shaped_alu _ f)
theorem or (f : Alu) : Statement (.or f) := .inr (shaped_alu _ f)
theorem xor (f : Alu) : Statement (.xor f) := .inr (shaped_alu _ f)
theorem not (f : Alu) : Statement (.not f) := .inr (shaped_alu _ f)
theorem lut3 (f : Alu) : Statement (.lut3 f) := .inr (shaped_alu _ f)
theorem shl (f : Alu) : Statement (.shl f) := .inr (shaped_alu _ f)
theorem shr (f : Alu) : Statement (.shr f) := .inr (shaped_alu _ f)
theorem rotl (f : Alu) : Statement (.rotl f) := .inr (shaped_alu _ f)
theorem bfe (f : Alu) : Statement (.bfe f) := .inr (shaped_alu _ f)
theorem bfi (f : Alu) : Statement (.bfi f) := .inr (shaped_alu _ f)
theorem popc (f : Alu) : Statement (.popc f) := .inr (shaped_alu _ f)
theorem clz (f : Alu) : Statement (.clz f) := .inr (shaped_alu _ f)
theorem brev (f : Alu) : Statement (.brev f) := .inr (shaped_alu _ f)
theorem bsel (f : Alu) : Statement (.bsel f) := .inr (shaped_alu _ f)
theorem cmp (f : Alu) : Statement (.cmp f) := .inr (shaped_alu _ f)
theorem bop (f : Alu) : Statement (.bop f) := .inr (shaped_alu _ f)
theorem lea (f : Alu) : Statement (.lea f) := .inr (shaped_alu _ f)
theorem fadd (f : Alu) : Statement (.fadd f) := .inr (shaped_alu _ f)
theorem fsub (f : Alu) : Statement (.fsub f) := .inr (shaped_alu _ f)
theorem fmul (f : Alu) : Statement (.fmul f) := .inr (shaped_alu _ f)
theorem ffma (f : Alu) : Statement (.ffma f) := .inr (shaped_alu _ f)
theorem fdiv (f : Alu) : Statement (.fdiv f) := .inr (shaped_alu _ f)
theorem fmin (f : Alu) : Statement (.fmin f) := .inr (shaped_alu _ f)
theorem fmax (f : Alu) : Statement (.fmax f) := .inr (shaped_alu _ f)
theorem fcmp (f : Alu) : Statement (.fcmp f) := .inr (shaped_alu _ f)
theorem fclass (f : Alu) : Statement (.fclass f) := .inr (shaped_alu _ f)
theorem fscale (f : Alu) : Statement (.fscale f) := .inr (shaped_alu _ f)
theorem frnd (f : Alu) : Statement (.frnd f) := .inr (shaped_alu _ f)
theorem hadd2 (f : Alu) : Statement (.hadd2 f) := .inr (shaped_alu _ f)
theorem hmul2 (f : Alu) : Statement (.hmul2 f) := .inr (shaped_alu _ f)
theorem hfma2 (f : Alu) : Statement (.hfma2 f) := .inr (shaped_alu _ f)
theorem hmin2 (f : Alu) : Statement (.hmin2 f) := .inr (shaped_alu _ f)
theorem hmax2 (f : Alu) : Statement (.hmax2 f) := .inr (shaped_alu _ f)
theorem hcmp2 (f : Alu) : Statement (.hcmp2 f) := .inr (shaped_alu _ f)
theorem rcp (f : Alu) : Statement (.rcp f) := .inr (shaped_alu _ f)
theorem rsq (f : Alu) : Statement (.rsq f) := .inr (shaped_alu _ f)
theorem sqrt (f : Alu) : Statement (.sqrt f) := .inr (shaped_alu _ f)
theorem ex2 (f : Alu) : Statement (.ex2 f) := .inr (shaped_alu _ f)
theorem lg2 (f : Alu) : Statement (.lg2 f) := .inr (shaped_alu _ f)
theorem sin (f : Alu) : Statement (.sin f) := .inr (shaped_alu _ f)
theorem cos (f : Alu) : Statement (.cos f) := .inr (shaped_alu _ f)
theorem tanh (f : Alu) : Statement (.tanh f) := .inr (shaped_alu _ f)
theorem fdot2 (f : Alu) : Statement (.fdot2 f) := .inr (shaped_alu _ f)
theorem asyncResultWrite (id : Nat) : Statement (.asyncResultWrite id) := events rfl
theorem cvt (f : Alu) : Statement (.cvt f) := .inr (shaped_alu _ f)
theorem pack (f : Alu) : Statement (.pack f) := .inr (shaped_alu _ f)
theorem unpack (f : Alu) : Statement (.unpack f) := .inr (shaped_alu _ f)
theorem glzq (b : Base) (c : GlzCtl) : Statement (.glzq b c) := .inr ⟨_, 2#2, _, _, rfl, rfl, by decide⟩
theorem glzd (b : Base) (c : GlzCtl) : Statement (.glzd b c) := .inr ⟨_, 2#2, _, _, rfl, rfl, by decide⟩
theorem glzrFwd (b : Base) (c : GlzCtl) : Statement (.glzrFwd b c) := .inr ⟨_, 2#2, _, _, rfl, rfl, by decide⟩
theorem glzrInv (b : Base) (c : GlzCtl) : Statement (.glzrInv b c) := .inr ⟨_, 2#2, _, _, rfl, rfl, by decide⟩
theorem rng (f : Alu) : Statement (.rng f) := .inr (shaped_alu _ f)
theorem rngF (f : Alu) : Statement (.rngF f) := .inr (shaped_alu _ f)
theorem rngW (f : Alu) : Statement (.rngW f) := .inr (shaped_alu _ f)
theorem rngseed (f : Alu) : Statement (.rngseed f) := .inr (shaped_alu _ f)
theorem rngseedMix (f : Alu) : Statement (.rngseedMix f) := .inr (shaped_alu _ f)
theorem bra (b : Base) (e1 : Word32) : Statement (.bra b e1) := .inr ⟨_, 1#2, _, _, rfl, rfl, by decide⟩
theorem brx (b : Base) : Statement (.brx b) := .inr ⟨_, 0#2, _, [], (List.append_nil _).symm, rfl, by decide⟩
theorem call (b : Base) (e1 : Word32) : Statement (.call b e1) := .inr ⟨_, 1#2, _, _, rfl, rfl, by decide⟩
theorem callx (b : Base) : Statement (.callx b) := .inr ⟨_, 0#2, _, [], (List.append_nil _).symm, rfl, by decide⟩
theorem ret (b : Base) : Statement (.ret b) := .inr ⟨_, 0#2, _, [], (List.append_nil _).symm, rfl, by decide⟩
theorem exit (b : Base) : Statement (.exit b) := .inr ⟨_, 0#2, _, [], (List.append_nil _).symm, rfl, by decide⟩
theorem threadSlotFree (t : ThrRef) : Statement (.threadSlotFree t) := events rfl
theorem safept (b : Base) (e1 : Word32) : Statement (.safept b e1) := .inr ⟨_, 1#2, _, _, rfl, rfl, by decide⟩
theorem fork (b : Base) (e1 : Word32) : Statement (.fork b e1) := .inr ⟨_, 1#2, _, _, rfl, rfl, by decide⟩
theorem xlane (b : Base) (mm : Option Word32) : Statement (.xlane b mm) := .inr (shaped_opt _ _ mm)
theorem vote (b : Base) (mm : Option Word32) : Statement (.vote b mm) := .inr (shaped_opt _ _ mm)
theorem peers (b : Base) (mm : Option Word32) : Statement (.peers b mm) := .inr (shaped_opt _ _ mm)
theorem gred (b : Base) (mm : Option Word32) : Statement (.gred b mm) := .inr (shaped_opt _ _ mm)
theorem scan (b : Base) (mm : Option Word32) : Statement (.scan b mm) := .inr (shaped_opt _ _ mm)
theorem gsync (b : Base) (mm : Option Word32) : Statement (.gsync b mm) := .inr (shaped_opt _ _ mm)
theorem rdsr (b : Base) : Statement (.rdsr b) := .inr ⟨_, 0#2, _, [], (List.append_nil _).symm, rfl, by decide⟩
theorem wrsr (b : Base) : Statement (.wrsr b) := .inr ⟨_, 0#2, _, [], (List.append_nil _).symm, rfl, by decide⟩
theorem wrsrExm (b : Base) : Statement (.wrsrExm b) := .inr ⟨_, 0#2, _, [], (List.append_nil _).symm, rfl, by decide⟩
theorem smov (b : Base) (imm : Option Word32) : Statement (.smov b imm) := .inr (shaped_opt _ _ imm)
theorem sadd (b : Base) (imm : Option Word32) : Statement (.sadd b imm) := .inr (shaped_opt _ _ imm)
theorem ssub (b : Base) (imm : Option Word32) : Statement (.ssub b imm) := .inr (shaped_opt _ _ imm)
theorem smul (b : Base) (imm : Option Word32) : Statement (.smul b imm) := .inr (shaped_opt _ _ imm)
theorem sand (b : Base) (imm : Option Word32) : Statement (.sand b imm) := .inr (shaped_opt _ _ imm)
theorem sor (b : Base) (imm : Option Word32) : Statement (.sor b imm) := .inr (shaped_opt _ _ imm)
theorem sxor (b : Base) (imm : Option Word32) : Statement (.sxor b imm) := .inr (shaped_opt _ _ imm)
theorem sshl (b : Base) (imm : Option Word32) : Statement (.sshl b imm) := .inr (shaped_opt _ _ imm)
theorem sshr (b : Base) (imm : Option Word32) : Statement (.sshr b imm) := .inr (shaped_opt _ _ imm)
theorem scmp (b : Base) (imm : Option Word32) : Statement (.scmp b imm) := .inr (shaped_opt _ _ imm)
theorem sld (b : Base) (m : MemWord) : Statement (.sld b m) := .inr ⟨_, 1#2, _, _, rfl, rfl, by decide⟩
theorem srd (b : Base) (m : MemWord) : Statement (.srd b m) := .inr ⟨_, 1#2, _, _, rfl, rfl, by decide⟩
theorem s2v (b : Base) : Statement (.s2v b) := .inr ⟨_, 0#2, _, [], (List.append_nil _).symm, rfl, by decide⟩
theorem v2s (b : Base) : Statement (.v2s b) := .inr ⟨_, 0#2, _, [], (List.append_nil _).symm, rfl, by decide⟩
theorem nsig (b : Base) : Statement (.nsig b) := .inr ⟨_, 0#2, _, [], (List.append_nil _).symm, rfl, by decide⟩
theorem ld (b : Base) (m : MemWord) (disp : Option Word32) : Statement (.ld b m disp) := .inr (shaped_mem _ _ _ disp)
theorem st (b : Base) (m : MemWord) (disp : Option Word32) : Statement (.st b m disp) := .inr (shaped_mem _ _ _ disp)
theorem lda (b : Base) (m : MemWord) (disp : Option Word32) : Statement (.lda b m disp) := .inr (shaped_mem _ _ _ disp)
theorem sta (b : Base) (m : MemWord) (disp : Option Word32) : Statement (.sta b m disp) := .inr (shaped_mem _ _ _ disp)
theorem ldc (b : Base) (m : MemWord) (disp : Option Word32) : Statement (.ldc b m disp) := .inr (shaped_mem _ _ _ disp)
theorem stc (b : Base) (m : MemWord) (disp : Option Word32) : Statement (.stc b m disp) := .inr (shaped_mem _ _ _ disp)
theorem atom (b : Base) (m : MemWord) (disp : Option Word32) : Statement (.atom b m disp) := .inr (shaped_mem _ _ _ disp)
theorem atoma (b : Base) (m : MemWord) (disp : Option Word32) : Statement (.atoma b m disp) := .inr (shaped_mem _ _ _ disp)
theorem red (b : Base) (m : MemWord) (disp : Option Word32) : Statement (.red b m disp) := .inr (shaped_mem _ _ _ disp)
theorem pref (b : Base) (m : MemWord) (disp : Option Word32) : Statement (.pref b m disp) := .inr (shaped_mem _ _ _ disp)
theorem loadReturn (id : Nat) : Statement (.loadReturn id) := events rfl
theorem invl (b : Base) (m : MemWord) : Statement (.invl b m) := .inr ⟨_, 1#2, _, _, rfl, rfl, by decide⟩
theorem wb (b : Base) (m : MemWord) : Statement (.wb b m) := .inr ⟨_, 1#2, _, _, rfl, rfl, by decide⟩
theorem fence (b : Base) : Statement (.fence b) := .inr ⟨_, 0#2, _, [], (List.append_nil _).symm, rfl, by decide⟩
theorem bind (b : Base) (e1 : Word32) : Statement (.bind b e1) := .inr ⟨_, 1#2, _, _, rfl, rfl, by decide⟩
theorem unbind (b : Base) : Statement (.unbind b) := .inr ⟨_, 0#2, _, [], (List.append_nil _).symm, rfl, by decide⟩
theorem acq (b : Base) : Statement (.acq b) := .inr ⟨_, 0#2, _, [], (List.append_nil _).symm, rfl, by decide⟩
theorem rel (b : Base) : Statement (.rel b) := .inr ⟨_, 0#2, _, [], (List.append_nil _).symm, rfl, by decide⟩
theorem rsv (b : Base) : Statement (.rsv b) := .inr ⟨_, 0#2, _, [], (List.append_nil _).symm, rfl, by decide⟩
theorem rsvClr (b : Base) : Statement (.rsvClr b) := .inr ⟨_, 0#2, _, [], (List.append_nil _).symm, rfl, by decide⟩
theorem rsvf (b : Base) (e1 : Word32) : Statement (.rsvf b e1) := .inr ⟨_, 1#2, _, _, rfl, rfl, by decide⟩
theorem rsvq (b : Base) : Statement (.rsvq b) := .inr ⟨_, 0#2, _, [], (List.append_nil _).symm, rfl, by decide⟩
theorem mma (b : Base) (c : MmaCtl) : Statement (.mma b c) := .inr ⟨_, 2#2, _, _, rfl, rfl, by decide⟩
theorem mmat (b : Base) (c : MmaCtl) : Statement (.mmat b c) := .inr ⟨_, 2#2, _, _, rfl, rfl, by decide⟩
theorem mmz (b : Base) : Statement (.mmz b) := .inr ⟨_, 0#2, _, [], (List.append_nil _).symm, rfl, by decide⟩
theorem mmw (b : Base) (c : GlzCtl) (w : MmwCtl) : Statement (.mmw b c w) := .inr ⟨_, 2#2, _, _, rfl, rfl, by decide⟩
theorem engineArbitrate (quad : Nat) : Statement (.engineArbitrate quad) := events rfl
theorem enginePass (quad : Nat) : Statement (.enginePass quad) := events rfl
theorem meCommandComplete (quad cmd : Nat) : Statement (.meCommandComplete quad cmd) := events rfl
theorem pugLineFetch (quad cmd line : Nat) : Statement (.pugLineFetch quad cmd line) := events rfl
theorem laneBallastPacket (core : Nat) : Statement (.laneBallastPacket core) := events rfl
theorem barInit (b : Base) (imm : Option Word32) : Statement (.barInit b imm) := .inr (shaped_opt _ _ imm)
theorem barArrive (b : Base) : Statement (.barArrive b) := .inr ⟨_, 0#2, _, [], (List.append_nil _).symm, rfl, by decide⟩
theorem barWait (b : Base) : Statement (.barWait b) := .inr ⟨_, 0#2, _, [], (List.append_nil _).symm, rfl, by decide⟩
theorem barTest (b : Base) : Statement (.barTest b) := .inr ⟨_, 0#2, _, [], (List.append_nil _).symm, rfl, by decide⟩
theorem barInval (b : Base) : Statement (.barInval b) := .inr ⟨_, 0#2, _, [], (List.append_nil _).symm, rfl, by decide⟩
theorem barExpect (b : Base) (imm : Option Word32) : Statement (.barExpect b imm) := .inr (shaped_opt _ _ imm)
theorem barRead (b : Base) : Statement (.barRead b) := .inr ⟨_, 0#2, _, [], (List.append_nil _).symm, rfl, by decide⟩
theorem barWrite (b : Base) : Statement (.barWrite b) := .inr ⟨_, 0#2, _, [], (List.append_nil _).symm, rfl, by decide⟩
theorem barwInit (b : Base) (m : MemWord) (disp : Option Word32) : Statement (.barwInit b m disp) := .inr (shaped_mem _ _ _ disp)
theorem barwArrive (b : Base) (m : MemWord) (disp : Option Word32) : Statement (.barwArrive b m disp) := .inr (shaped_mem _ _ _ disp)
theorem barwWait (b : Base) (m : MemWord) (disp : Option Word32) : Statement (.barwWait b m disp) := .inr (shaped_mem _ _ _ disp)
theorem barwPoll (t : ThrRef) : Statement (.barwPoll t) := events rfl
theorem step (b : Base) : Statement (.step b) := .inr ⟨_, 0#2, _, [], (List.append_nil _).symm, rfl, by decide⟩
theorem monitor (b : Base) (m : MemWord) (disp : Option Word32) : Statement (.monitor b m disp) := .inr (shaped_mem _ _ _ disp)
theorem mwait (b : Base) : Statement (.mwait b) := .inr ⟨_, 0#2, _, [], (List.append_nil _).symm, rfl, by decide⟩
theorem mwaitTimeout (t : ThrRef) : Statement (.mwaitTimeout t) := events rfl
theorem gset (b : Base) : Statement (.gset b) := .inr ⟨_, 0#2, _, [], (List.append_nil _).symm, rfl, by decide⟩
theorem gsetOpen (b : Base) : Statement (.gsetOpen b) := .inr ⟨_, 0#2, _, [], (List.append_nil _).symm, rfl, by decide⟩
theorem gclr (b : Base) : Statement (.gclr b) := .inr ⟨_, 0#2, _, [], (List.append_nil _).symm, rfl, by decide⟩
theorem cpy (b : Base) (c : CopyCtl) : Statement (.cpy b c) := .inr ⟨_, 2#2, _, _, rfl, rfl, by decide⟩
theorem cpyt (b : Base) (c : CopyCtl) : Statement (.cpyt b c) := .inr ⟨_, 2#2, _, _, rfl, rfl, by decide⟩
theorem cpyr (b : Base) (c : CopyCtl) : Statement (.cpyr b c) := .inr ⟨_, 2#2, _, _, rfl, rfl, by decide⟩
theorem cpyq (b : Base) : Statement (.cpyq b) := .inr ⟨_, 0#2, _, [], (List.append_nil _).symm, rfl, by decide⟩
theorem cpyqJ (b : Base) : Statement (.cpyqJ b) := .inr ⟨_, 0#2, _, [], (List.append_nil _).symm, rfl, by decide⟩
theorem slipBeat (cmd beat : Nat) : Statement (.slipBeat cmd beat) := events rfl
theorem copyComplete (cmd : Nat) : Statement (.copyComplete cmd) := events rfl
theorem copyReplayStart (team : Nat) : Statement (.copyReplayStart team) := events rfl
theorem coll (b : Base) (c : CollCtl) : Statement (.coll b c) := .inr ⟨_, 2#2, _, _, rfl, rfl, by decide⟩
theorem collMatch (coll : Nat) (posts : List RankPost) : Statement (.collMatch coll posts) := events rfl
theorem collComplete (coll : Nat) : Statement (.collComplete coll) := events rfl
theorem collWatchdog (coll : Nat) : Statement (.collWatchdog coll) := events rfl
theorem enq (b : Base) (q : QueueWord) : Statement (.enq b q) := .inr ⟨_, 1#2, _, _, rfl, rfl, by decide⟩
theorem enqTry (b : Base) (q : QueueWord) : Statement (.enqTry b q) := .inr ⟨_, 1#2, _, _, rfl, rfl, by decide⟩
theorem deq (b : Base) (q : QueueWord) : Statement (.deq b q) := .inr ⟨_, 1#2, _, _, rfl, rfl, by decide⟩
theorem deqt (b : Base) (q : QueueWord) : Statement (.deqt b q) := .inr ⟨_, 1#2, _, _, rfl, rfl, by decide⟩
theorem deqtTimeout (t : ThrRef) : Statement (.deqtTimeout t) := events rfl
theorem qctlQuery (b : Base) (q : QueueWord) : Statement (.qctlQuery b q) := .inr ⟨_, 1#2, _, _, rfl, rfl, by decide⟩
theorem qctlCreate (b : Base) (q : QueueWord) : Statement (.qctlCreate b q) := .inr ⟨_, 1#2, _, _, rfl, rfl, by decide⟩
theorem qctlFreeze (b : Base) (q : QueueWord) : Statement (.qctlFreeze b q) := .inr ⟨_, 1#2, _, _, rfl, rfl, by decide⟩
theorem qctlThaw (b : Base) (q : QueueWord) : Statement (.qctlThaw b q) := .inr ⟨_, 1#2, _, _, rfl, rfl, by decide⟩
theorem qctlDrain (b : Base) (q : QueueWord) : Statement (.qctlDrain b q) := .inr ⟨_, 1#2, _, _, rfl, rfl, by decide⟩
theorem qctlDestroy (b : Base) (q : QueueWord) : Statement (.qctlDestroy b q) := .inr ⟨_, 1#2, _, _, rfl, rfl, by decide⟩
theorem qctlSetptr (b : Base) (q : QueueWord) : Statement (.qctlSetptr b q) := .inr ⟨_, 1#2, _, _, rfl, rfl, by decide⟩
theorem launchQueueItem (ctx : Nat) : Statement (.launchQueueItem ctx) := events rfl
theorem deviceItemEnqueue (item : Nat) : Statement (.deviceItemEnqueue item) := events rfl
theorem trap (b : Base) : Statement (.trap b) := .inr ⟨_, 0#2, _, [], (List.append_nil _).symm, rfl, by decide⟩
theorem syscall (b : Base) : Statement (.syscall b) := .inr ⟨_, 0#2, _, [], (List.append_nil _).symm, rfl, by decide⟩
theorem rft (b : Base) : Statement (.rft b) := .inr ⟨_, 0#2, _, [], (List.append_nil _).symm, rfl, by decide⟩
theorem rftTarget (b : Base) : Statement (.rftTarget b) := .inr ⟨_, 0#2, _, [], (List.append_nil _).symm, rfl, by decide⟩
theorem rftSave (b : Base) : Statement (.rftSave b) := .inr ⟨_, 0#2, _, [], (List.append_nil _).symm, rfl, by decide⟩
theorem rftRest (b : Base) : Statement (.rftRest b) := .inr ⟨_, 0#2, _, [], (List.append_nil _).symm, rfl, by decide⟩
theorem teamSaved (team : Nat) : Statement (.teamSaved team) := events rfl
theorem rdsys (b : Base) (e1 : Word32) : Statement (.rdsys b e1) := .inr ⟨_, 1#2, _, _, rfl, rfl, by decide⟩
theorem wrsys (b : Base) (e1 : Word32) : Statement (.wrsys b e1) := .inr ⟨_, 1#2, _, _, rfl, rfl, by decide⟩
theorem ctxctlCmd (b : Base) (e1 : Word32) : Statement (.ctxctlCmd b e1) := .inr ⟨_, 1#2, _, _, rfl, rfl, by decide⟩
theorem ctxctlExm (b : Base) (e1 : Word32) : Statement (.ctxctlExm b e1) := .inr ⟨_, 1#2, _, _, rfl, rfl, by decide⟩
theorem fresRetry (b : Base) : Statement (.fresRetry b) := .inr ⟨_, 0#2, _, [], (List.append_nil _).symm, rfl, by decide⟩
theorem fresRetryD (b : Base) : Statement (.fresRetryD b) := .inr ⟨_, 0#2, _, [], (List.append_nil _).symm, rfl, by decide⟩
theorem fresKill (b : Base) : Statement (.fresKill b) := .inr ⟨_, 0#2, _, [], (List.append_nil _).symm, rfl, by decide⟩
theorem pgmapLeaf (b : Base) (e1 : Word32) : Statement (.pgmapLeaf b e1) := .inr ⟨_, 1#2, _, _, rfl, rfl, by decide⟩
theorem pgmapTable (b : Base) (e1 : Word32) : Statement (.pgmapTable b e1) := .inr ⟨_, 1#2, _, _, rfl, rfl, by decide⟩
theorem pgshare (b : Base) : Statement (.pgshare b) := .inr ⟨_, 0#2, _, [], (List.append_nil _).symm, rfl, by decide⟩
theorem pgshareCow (b : Base) : Statement (.pgshareCow b) := .inr ⟨_, 0#2, _, [], (List.append_nil _).symm, rfl, by decide⟩
theorem pgunshare (b : Base) : Statement (.pgunshare b) := .inr ⟨_, 0#2, _, [], (List.append_nil _).symm, rfl, by decide⟩
theorem pgmove (b : Base) : Statement (.pgmove b) := .inr ⟨_, 0#2, _, [], (List.append_nil _).symm, rfl, by decide⟩
theorem pageMoveComplete (move : Nat) : Statement (.pageMoveComplete move) := events rfl
theorem pginv (b : Base) : Statement (.pginv b) := .inr ⟨_, 0#2, _, [], (List.append_nil _).symm, rfl, by decide⟩
theorem pginvAbs (b : Base) : Statement (.pginvAbs b) := .inr ⟨_, 0#2, _, [], (List.append_nil _).symm, rfl, by decide⟩
theorem pginvTlb (b : Base) : Statement (.pginvTlb b) := .inr ⟨_, 0#2, _, [], (List.append_nil _).symm, rfl, by decide⟩
theorem pgdirty (b : Base) : Statement (.pgdirty b) := .inr ⟨_, 0#2, _, [], (List.append_nil _).symm, rfl, by decide⟩
theorem pgdirtyPeek (b : Base) : Statement (.pgdirtyPeek b) := .inr ⟨_, 0#2, _, [], (List.append_nil _).symm, rfl, by decide⟩
theorem frameReturn (frame : Nat) (va : Word64) : Statement (.frameReturn frame va) := events rfl
theorem homeWrite (id : Nat) : Statement (.homeWrite id) := events rfl
theorem moveOutStart (core : Nat) (lane : Nat) : Statement (.moveOutStart core lane) := events rfl
theorem moveOutComplete (t : ThrRef) : Statement (.moveOutComplete t) := events rfl
theorem recallStart (t : ThrRef) : Statement (.recallStart t) := events rfl
theorem recallComplete (t : ThrRef) : Statement (.recallComplete t) := events rfl
theorem rendezvousWatchdog (team gid : Nat) : Statement (.rendezvousWatchdog team gid) := events rfl
theorem preemptDeadline (ctx : Nat) : Statement (.preemptDeadline ctx) := events rfl
theorem nodeSignal (ctx node : Nat) : Statement (.nodeSignal ctx node) := events rfl
theorem placementBlockTimeout (ctx node : Nat) : Statement (.placementBlockTimeout ctx node) := events rfl
theorem rampDeadline (request : Nat) : Statement (.rampDeadline request) := events rfl
theorem clampRaise (quad : Nat) : Statement (.clampRaise quad) := events rfl
theorem clampLower (quad : Nat) : Statement (.clampLower quad) := events rfl
theorem teardownComplete (ctx : Nat) : Statement (.teardownComplete ctx) := events rfl
theorem spmapDrainComplete (tower : Nat) : Statement (.spmapDrainComplete tower) := events rfl
theorem trainingFailed (blk : Nat) : Statement (.trainingFailed blk) := events rfl
theorem readSiWt (m : Msg) : Statement (.readSiWt m) := events rfl
theorem readOwn (m : Msg) : Statement (.readOwn m) := events rfl
theorem readUc (m : Msg) : Statement (.readUc m) := events rfl
theorem writeBack (m : Msg) : Statement (.writeBack m) := events rfl
theorem atomic (m : Msg) : Statement (.atomic m) := events rfl
theorem reduce (m : Msg) : Statement (.reduce m) := events rfl
theorem armMonitor (m : Msg) : Statement (.armMonitor m) := events rfl
theorem recallTimeout (id : Nat) : Statement (.recallTimeout id) := events rfl
theorem hello (agent : HelloWay) : Statement (.hello agent) := events rfl
theorem failed (agent : Nat) : Statement (.failed agent) := events rfl
theorem helloTimeout (agent : Nat) : Statement (.helloTimeout agent) := events rfl
theorem ratioChangeComplete (quad : Nat) : Statement (.ratioChangeComplete quad) := events rfl
theorem offlineComplete (tower : Nat) : Statement (.offlineComplete tower) := events rfl
theorem fetchFault (code : Byte) (cause : Nat) : Statement (.fetchFault code cause) := events rfl
theorem hostBar4Read (fn : Nat) (off : BarAddr) (size : Nat) : Statement (.hostBar4Read fn off size) := events rfl
theorem hostBar4Write (fn off : Nat) (bytes : List Byte) : Statement (.hostBar4Write fn off bytes) := events rfl
theorem write (m : Msg) : Statement (.write m) := events rfl
theorem copyBeat (m : Msg) : Statement (.copyBeat m) := events rfl
theorem tierWrite (m : Msg) : Statement (.tierWrite m) := events rfl
theorem pauseAcknowledged (blk : Nat) : Statement (.pauseAcknowledged blk) := events rfl
theorem trainingDone (blk : Nat) : Statement (.trainingDone blk) := events rfl
theorem retrainDone (blk : Nat) : Statement (.retrainDone blk) := events rfl
theorem dropMonitor (m : Msg) : Statement (.dropMonitor m) := events rfl
theorem data (m : Msg) : Statement (.data m) := events rfl
theorem l1Eviction (core line : Nat) : Statement (.l1Eviction core line) := events rfl
theorem hostEnqueue (fn off : Nat) (bytes : List Byte) : Statement (.hostEnqueue fn off bytes) := events rfl
theorem homeUncorrectableError (site : ErrSite) : Statement (.homeUncorrectableError site) := events rfl
theorem placementPass : Statement (.placementPass) := events rfl
theorem windowBoundary : Statement (.windowBoundary) := events rfl
theorem ctxBuild (src : CmdSource) (ctx : Nat) : Statement (.ctxBuild src ctx) := events rfl
theorem ctxCommit (src : CmdSource) (ctx : Nat) : Statement (.ctxCommit src ctx) := events rfl
theorem ctxRun (src : CmdSource) (ctx : Nat) : Statement (.ctxRun src ctx) := events rfl
theorem ctxPreempt (src : CmdSource) (ctx : Nat) : Statement (.ctxPreempt src ctx) := events rfl
theorem ctxMigrate (src : CmdSource) (ctx : Nat) : Statement (.ctxMigrate src ctx) := events rfl
theorem ctxAdopt (src : CmdSource) (ctx : Nat) : Statement (.ctxAdopt src ctx) := events rfl
theorem ctxTeardown (src : CmdSource) (ctx : Nat) : Statement (.ctxTeardown src ctx) := events rfl
theorem spmapWrite (tower k : Nat) (value : Word64) : Statement (.spmapWrite tower k value) := events rfl
theorem commcfgWrite (ctx comm : Nat) (table : Bool) (value : Word64) : Statement (.commcfgWrite ctx comm table value) := events rfl
theorem steerWrite (tower edge : Nat) (value : Word64) : Statement (.steerWrite tower edge value) := events rfl
theorem fxsteerWrite (k : Nat) (value : Word64) : Statement (.fxsteerWrite k value) := events rfl
theorem fxslotWrite (k : Nat) (value : Word64) : Statement (.fxslotWrite k value) := events rfl
theorem registerWrite (off : RegPlace) (value : Word64) : Statement (.registerWrite off value) := events rfl
theorem linkPause (blk : Nat) : Statement (.linkPause blk) := events rfl
theorem linkResume (blk : Nat) : Statement (.linkResume blk) := events rfl
theorem linkTrain (blk : Nat) : Statement (.linkTrain blk) := events rfl
theorem linkDisable (blk : Nat) : Statement (.linkDisable blk) := events rfl
theorem replayExhausted (blk : Nat) : Statement (.replayExhausted blk) := events rfl
theorem retrainFailed (blk : Nat) : Statement (.retrainFailed blk) := events rfl
theorem adapterReplay (blk : Nat) : Statement (.adapterReplay blk) := events rfl
theorem tierRead (m : Msg) : Statement (.tierRead m) := events rfl
theorem response (m : Msg) : Statement (.response m) := events rfl
theorem recallMsg (m : Msg) : Statement (.recallMsg m) := events rfl
theorem ident (m : IdentMsg) : Statement (.ident m) := events rfl
theorem assign (agent : Nat) : Statement (.assign agent) := events rfl
theorem accept (agent : Nat) (m : AcceptMsg) : Statement (.accept agent m) := events rfl
theorem refuse (agent : Nat) (cause : Nat) : Statement (.refuse agent cause) := events rfl
theorem vwBeatReplay (slice : Nat) (beat : VwBeat) : Statement (.vwBeatReplay slice beat) := events rfl
theorem vwRepair (slice bundle : Nat) (halfWorks : Bool) : Statement (.vwRepair slice bundle halfWorks) := events rfl
theorem setop (arg : Word64) : Statement (.setop arg) := events rfl
theorem gate (arg : Word64) : Statement (.gate arg) := events rfl
theorem ungate (arg : Word64) : Statement (.ungate arg) := events rfl
theorem offline (arg : Word64) : Statement (.offline arg) := events rfl
theorem online (arg : Word64) : Statement (.online arg) := events rfl
theorem setbound (arg : Word64) : Statement (.setbound arg) := events rfl
theorem setfloor (arg : Word64) : Statement (.setfloor arg) := events rfl
theorem setalarm (arg : Word64) : Statement (.setalarm arg) := events rfl
theorem thermalAlarm (tower : Nat) (tj : Byte) : Statement (.thermalAlarm tower tj) := events rfl
theorem thermalTrip (tower : Nat) (tj : Byte) : Statement (.thermalTrip tower tj) := events rfl
theorem towerLost (tower : Nat) : Statement (.towerLost tower) := events rfl
theorem kilnWatchdogReset : Statement (.kilnWatchdogReset) := events rfl
theorem kilnUpdate (image : KilnImage) : Statement (.kilnUpdate image) := events rfl
theorem deviceReset : Statement (.deviceReset) := events rfl
theorem attestationStart : Statement (.attestationStart) := events rfl
theorem attestationComplete : Statement (.attestationComplete) := events rfl
theorem lcProvision : Statement (.lcProvision) := events rfl
theorem lcCommission : Statement (.lcCommission) := events rfl
theorem lcReturn : Statement (.lcReturn) := events rfl
theorem lcDispose : Statement (.lcDispose) := events rfl
theorem tkdata (byte : Byte) : Statement (.tkdata byte) := events rfl
theorem tkreset : Statement (.tkreset) := events rfl
theorem protocolError (blk : Nat) (h : FlitHeader) : Statement (.protocolError blk h) := events rfl
theorem flitCrcFailure (blk : Nat) (lanes : LaneErrors) : Statement (.flitCrcFailure blk lanes) := events rfl
theorem pcieDataLinkDown : Statement (.pcieDataLinkDown) := events rfl
theorem pcieDataLinkUp : Statement (.pcieDataLinkUp) := events rfl
theorem coolantFlowLow : Statement (.coolantFlowLow) := events rfl
theorem kilnHang : Statement (.kilnHang) := events rfl
theorem kilnRestartComplete : Statement (.kilnRestartComplete) := events rfl

end Sys2Proof.Laws.Encoding
end

