-- ==== Sys2Proof/Laws/Rendezvous.lean ====
section
/-! SUPPORT. What a rendezvous does once its last participant comes: every participant has arrived, the entry runs for the present
lanes, and all of them go on. -/

namespace Sys2Proof.Machine

/-- Two states that differ in their threads and timers only. -/
def Near (s t : State) : Prop := t = { s with threads := t.threads, timers := t.timers }

theorem Near.refl (s : State) : Near s s := rfl

theorem Near.trans {s t u : State} (h : Near s t) (h' : Near t u) : Near s u := by
  unfold Near at *
  rw [h'.trans (congrArg (fun x : State => { x with threads := u.threads, timers := u.timers }) h)]

theorem Near.modThr (s : State) (r : ThrRef) (f : Thread → Thread) : Near s (modThr s r f) := rfl

theorem Near.grpOf {s t : State} (h : Near s t) (k gid : Nat) : grpOf t k gid = grpOf s k gid := by
  unfold Near at h; rw [h]; rfl

theorem Near.teamOf {s t : State} (h : Near s t) (k : Nat) : teamOf t k = teamOf s k := by
  unfold Near at h; rw [h]; rfl

theorem Near.thrClock {s t : State} (h : Near s t) (r : ThrRef) : thrClock t r = thrClock s r := by
  unfold Near at h; rw [h]; rfl

theorem near_scheduleOnce (s : State) (t : Nat) (e : Instr) : Near s (scheduleOnce s t e) ∧ (scheduleOnce s t e).threads = s.threads := by
  unfold scheduleOnce; split <;> exact ⟨rfl, rfl⟩

/-- A participant that arrives waits, and nothing else but a watchdog timer changes. -/
theorem awaitMeeting_waits (s : State) (r : ThrRef) (g all : Bool) (mm : LaneMask) :
    Near s (awaitMeeting s r g all mm) ∧
    (∃ d i, thrOf (awaitMeeting s r g all mm) r = { thrOf s r with stat := .waiting (.rendezvous g all mm d), idleSince := i }) ∧
    ∀ k, k ≠ thrKey r → tget (awaitMeeting s r g all mm).threads k = tget s.threads k := by
  have base : ∀ d, Near s (makeWait s r (.rendezvous g all mm d)) ∧
      thrOf (makeWait s r (.rendezvous g all mm d)) r =
        { thrOf s r with stat := .waiting (.rendezvous g all mm d), idleSince := thrClock s r } ∧
      ∀ k, k ≠ thrKey r → tget (makeWait s r (.rendezvous g all mm d)).threads k = tget s.threads k := by
    intro d
    refine ⟨Near.modThr _ _ _, by simp [makeWait], ?_⟩
    intro k hk
    simp [makeWait, modThr, setThr, tget_tput, hk]
  unfold awaitMeeting
  dsimp only
  split
  · rename_i d hd
    obtain ⟨b1, b2, b3⟩ := base (some d)
    obtain ⟨n1, n2⟩ := near_scheduleOnce (makeWait s r (.rendezvous g all mm (some d))) d (.rendezvousWatchdog r.team r.gid)
    rw [hd]
    refine ⟨b1.trans n1, ⟨some d, thrClock s r, ?_⟩, ?_⟩
    · rw [← b2]; simp only [thrOf, n2]
    · intro k hk; rw [n2]; exact b3 k hk
  · rename_i hd
    rw [hd]
    obtain ⟨b1, b2, b3⟩ := base none
    exact ⟨b1, ⟨none, thrClock s r, b2⟩, b3⟩

theorem lanesOf_lt {m : LaneMask} {l : Nat} (h : l ∈ lanesOf m) : l < 32 := by
  have h := (List.mem_filter.mp h).1
  simpa [groupLanes] using h

/-- The participants of a packet have all arrived after the packet's threads have. -/
theorem arrive_gathers (o : Opnds) (all : Bool) (mm : LaneMask) (s : State) (p : Packet) (gid : Nat) (parts present : List Nat)
    (h : Meeting o all mm s p gid parts present) :
    ∃ u, p.refs.foldl (fun acc t => arrive o p all mm t acc) (s, ([] : List (ThrRef × Flt))) = (u, []) ∧
      Near s u ∧
      (∀ r ∈ p.refs, arrivedAt (thrOf u r) p.pc = some (guardBit (thrOf s r) o.g) ∧
        ∃ st i, thrOf u r = { thrOf s r with stat := st, idleSince := i }) ∧
      ∀ k, k ∉ p.refs.map thrKey → tget u.threads k = tget s.threads k := by
  obtain ⟨_, _, hg, _, hnd, _, hr, _, _, _⟩ := h
  have hlt : ∀ r ∈ p.refs, r.gid < 32 ∧ r.lane < 32 := by
    intro r hm
    obtain ⟨h1, h2, _, h4, _⟩ := hr r hm
    rw [h4] at h2
    exact ⟨by omega, lanesOf_lt h2⟩
  have key : ∀ (rs : List ThrRef) (s' : State), rs.Nodup → (∀ r ∈ rs, r ∈ p.refs) → Near s s' →
      (∀ r ∈ rs, thrOf s' r = thrOf s r) →
      ∃ u, rs.foldl (fun acc t => arrive o p all mm t acc) (s', ([] : List (ThrRef × Flt))) = (u, []) ∧ Near s u ∧
        (∀ r ∈ rs, arrivedAt (thrOf u r) p.pc = some (guardBit (thrOf s r) o.g) ∧
          ∃ st i, thrOf u r = { thrOf s r with stat := st, idleSince := i }) ∧
        ∀ k, k ∉ rs.map thrKey → tget u.threads k = tget s'.threads k := by
    intro rs
    induction rs with
    | nil => intro s' _ _ hs _; exact ⟨s', rfl, hs, by simp, by simp⟩
    | cons r rs ih =>
      intro s' hn hm hs hth
      obtain ⟨h1, h2, h3, h4, h5, h6, h7⟩ := hr r (hm r (by simp))
      have hteam : r.team = p.team := by
        have := hm r (by simp)
        simp only [Packet.refs, List.mem_map] at this
        obtain ⟨_, _, e⟩ := this
        rw [← e]
      have hpart : (participants (grpOf s' r.team r.gid) (thrOf s r).mode all mm).getLsbD r.lane = true := by
        rw [hs.grpOf, hteam, h1]
        rw [h4] at h2
        exact (List.mem_filter.mp h2).2
      have e1 : arrive o p all mm r (s', []) = (awaitMeeting s' r (guardBit (thrOf s r) o.g) all mm, []) := by
        cases hgd : guardBit (thrOf s r) o.g with
        | false => simp [arrive, hth r (by simp), h5, h6, hgd, hpart]
        | true => simp [arrive, hth r (by simp), h5, h6, hgd, hpart, h7 hgd]
      obtain ⟨w1, ⟨d, i, w2⟩, w3⟩ := awaitMeeting_waits s' r (guardBit (thrOf s r) o.g) all mm
      have hne : ∀ q ∈ rs, thrKey q ≠ thrKey r := by
        intro q hq e
        have := thrKey_inj (hlt q (hm q (by simp [hq]))) (hlt r (hm r (by simp))) e
        subst this; simp [hq] at hn
      obtain ⟨u, e2, n2, t2, k2⟩ := ih (awaitMeeting s' r (guardBit (thrOf s r) o.g) all mm) (by simp at hn; exact hn.2)
        (fun q hq => hm q (by simp [hq])) (hs.trans w1) (by
          intro q hq
          rw [← hth q (by simp [hq])]
          exact tgetD_of_tget _ (w3 _ (hne q hq)))
      refine ⟨u, by simp only [List.foldl_cons, e1]; exact e2, n2, ?_, ?_⟩
      · intro q hq
        rcases List.mem_cons.mp hq with rfl | hq
        · have e3 : thrOf u q = thrOf (awaitMeeting s' q (guardBit (thrOf s q) o.g) all mm) q := by
            refine tgetD_of_tget _ (k2 _ ?_)
            simp only [List.mem_map, not_exists, not_and]
            intro x hx; exact hne x hx
          rw [e3, w2, hth q (by simp)]
          exact ⟨by simp [arrivedAt, h3], _, _, rfl⟩
        · exact t2 q hq
      · intro k hk
        simp only [List.map_cons, List.mem_cons, not_or] at hk
        rw [k2 k hk.2, w3 k hk.1]
  exact key p.refs s hnd (fun _ h => h) (Near.refl s) (fun _ _ => rfl)

/-- Everything that a rendezvous does when the packet completes it, in the state in which its threads have arrived. -/
theorem rendezvous_gathered (o : Opnds) (ill : Team → Bool) (all : Bool) (mm : LaneMask) (run : Packet → Nat → List Nat → State → RvOut)
    (s : State) (p : Packet) (gid : Nat) (parts present : List Nat) (h : Meeting o all mm s p gid parts present)
    (hill : ill (teamOf s p.team) = false) :
    let u := gathered o all mm s p
    Gathered s u p gid parts ∧ rendezvous o ill all mm run s = .next (match run p gid present u with
      | .done s' => goOn p gid parts s'
      | .fault fs => deliver p.core p.pc p.next (fs.map (fun x => (atLane p gid x.1, x.2))) u
      | .failed s' fs => deliver p.core p.pc p.next (fs.map (fun x => (atLane p gid x.1, x.2))) s'
      | .left s' => s') := by
  obtain ⟨u, e, near, hu, hk⟩ := arrive_gathers o all mm s p gid parts present h
  rw [show gathered o all mm s p = u from congrArg Prod.fst e]
  obtain ⟨hc, hregs, hg, hne, hnd, hsld, hr, harr, hpres, h7⟩ := h
  have hat : ∀ r ∈ p.refs, atLane p gid r.lane = r := by
    intro r hm
    have hm' := hm
    simp only [Packet.refs, List.mem_map] at hm
    obtain ⟨x, _, hx⟩ := hm
    have := (hr r hm').1
    subst hx
    simp only [atLane] at *
    rw [this]
  have hplt : ∀ l ∈ parts, l < 32 := by
    intro l hl
    obtain ⟨r, hm⟩ := List.exists_mem_of_ne_nil _ hne
    rw [(hr r hm).2.2.2.1] at hl
    exact lanesOf_lt hl
  have hout : ∀ l ∈ parts, atLane p gid l ∉ p.refs → thrKey (atLane p gid l) ∉ p.refs.map thrKey := by
    intro l hl hno hmem
    simp only [List.mem_map] at hmem
    obtain ⟨r, hm, hkey⟩ := hmem
    have hrl := hr r hm
    have := thrKey_inj (a := r) (b := atLane p gid l) ⟨by have := hrl.1; omega, hplt _ hrl.2.1⟩ ⟨hg, hplt l hl⟩ hkey
    exact hno (this ▸ hm)
  have hthr : ∀ l ∈ parts, arrivedAt (thrOf u (atLane p gid l)) p.pc = some (guardAt o s p gid l) ∧
      ∃ st i, thrOf u (atLane p gid l) = { thrOf s (atLane p gid l) with stat := st, idleSince := i } := by
    intro l hl
    by_cases hm : atLane p gid l ∈ p.refs
    · obtain ⟨a, b⟩ := hu _ hm
      exact ⟨by rw [a]; simp [guardAt, hm], b⟩
    · have e3 : thrOf u (atLane p gid l) = thrOf s (atLane p gid l) := tgetD_of_tget _ (hk _ (hout l hl hm))
      rw [e3]
      refine ⟨?_, _, _, rfl⟩
      rcases harr l hl with hx | hx
      · exact absurd hx hm
      · simp only [guardAt, hm, if_false]
        cases hv : arrivedAt (thrOf s (atLane p gid l)) p.pc with
        | none => rw [hv] at hx; simp at hx
        | some b => cases b <;> rfl
  refine ⟨⟨near, fun l hl => (hthr l hl).2, ?_⟩, ?_⟩
  · intro k hkk
    refine hk k ?_
    intro hmem
    simp only [List.mem_map] at hmem
    obtain ⟨r, hm, rfl⟩ := hmem
    exact hkk r.lane (hr r hm).2.1 (by rw [hat r hm])
  · obtain ⟨t, ts, hts⟩ := List.exists_cons_of_ne_nil hne
    have htm : t ∈ p.refs := by rw [hts]; simp
    obtain ⟨q1, q2, q3, q4, _, _, _⟩ := hr t htm
    have hmode : (thrOf u t).mode = (thrOf s t).mode := by
      have := (hthr t.lane q2).2
      rw [hat t htm] at this
      obtain ⟨st, i, hx⟩ := this
      rw [hx]
    have hparts : lanesOf (participants (grpOf u p.team gid) (thrOf u t).mode all mm) = parts := by
      rw [near.grpOf, hmode, ← q4]
    have hnil : parts.isEmpty = false := by
      cases hp : parts with
      | nil => rw [hp] at q2; simp at q2
      | cons _ _ => rfl
    have hall : parts.all (fun l => (arrivedAt (thrOf u (atLane p gid l)) p.pc).isSome) = true := by
      simp only [List.all_eq_true]
      intro l hl; rw [(hthr l hl).1]; rfl
    have hpr : parts.filter (fun l => arrivedAt (thrOf u (atLane p gid l)) p.pc == some true) = present := by
      rw [hpres]
      refine List.filter_congr ?_
      intro l hl
      rw [(hthr l hl).1]
      cases guardAt o s p gid l <;> rfl
    have hbad : present.filterMap (fun l =>
        (stepSeven o (isUser (teamOf u p.team)) (thrOf u (atLane p gid l))).map (fun f => (atLane p gid l, f))) = [] := by
      rw [List.filterMap_eq_nil_iff]
      intro l hl
      have hlp : l ∈ parts := by rw [hpres] at hl; exact (List.mem_filter.mp hl).1
      obtain ⟨st, i, hx⟩ := (hthr l hlp).2
      have h8 := h7 l hl
      rw [hx, near.teamOf]
      rw [show stepSeven o (isUser (teamOf s p.team)) { thrOf s (atLane p gid l) with stat := st, idleSince := i } =
        stepSeven o (isUser (teamOf s p.team)) (thrOf s (atLane p gid l)) from rfl, h8]
      rfl
    unfold rendezvous
    rw [hc]
    dsimp only
    simp only [hregs, hill, Bool.not_true, Bool.or_self, Bool.false_eq_true, if_false]
    rw [e]
    simp only [hts]
    rw [q1]
    have hd : deliver p.core p.pc p.next [] u = u := by simp [deliver, waitFaults]
    rw [hd]
    unfold meet
    simp only [hts]
    change Host.Outcome.next (if (grpOf u p.team gid).sld.isSome = true then u
      else if (lanesOf (participants (grpOf u p.team gid) (thrOf u t).mode all mm)).isEmpty
        || !(lanesOf (participants (grpOf u p.team gid) (thrOf u t).mode all mm)).all
          (fun l => (arrivedAt (thrOf u (atLane p gid l)) p.pc).isSome) then u else _) = _
    rw [hparts, hnil, hall, near.grpOf, hsld]
    have hpr' : parts.filter (fun l =>
      arrivedAt (thrOf u ({ team := p.team, gid := gid, lane := l } : ThrRef)) p.pc == some true) = present := hpr
    rw [hpr']
    have hbad' : present.filterMap (fun l =>
        (stepSeven o (isUser (teamOf u p.team)) (thrOf u ({ team := p.team, gid := gid, lane := l } : ThrRef))).map
          (fun f => (({ team := p.team, gid := gid, lane := l } : ThrRef), f))) = [] := hbad
    rw [hbad']
    rfl

/-- The threads of the lanes `ls` take their effects one after the other, each in its own. -/
theorem foldl_modThr_lanes (p : Packet) (gid : Nat) (eff : Nat → Thread → Thread) (hg : gid < 32) : ∀ (ls : List Nat) (s : State),
    ls.Nodup → (∀ l ∈ ls, l < 32) →
    let t := ls.foldl (fun s l => modThr s (atLane p gid l) (eff l)) s
    Near s t ∧ (∀ l, l < 32 → thrOf t (atLane p gid l) =
      if l ∈ ls then eff l (thrOf s (atLane p gid l)) else thrOf s (atLane p gid l)) ∧
    ∀ k, (∀ l ∈ ls, k ≠ thrKey (atLane p gid l)) → tget t.threads k = tget s.threads k := by
  have inj : ∀ {a b : Nat}, a < 32 → b < 32 → thrKey (atLane p gid a) = thrKey (atLane p gid b) → a = b := by
    intro a b ha hb h
    exact congrArg ThrRef.lane (thrKey_inj (a := atLane p gid a) (b := atLane p gid b) ⟨hg, ha⟩ ⟨hg, hb⟩ h)
  intro ls
  induction ls with
  | nil => intro s _ _; exact ⟨Near.refl s, fun _ _ => by simp, fun _ _ => rfl⟩
  | cons a ls ih =>
    intro s hnd hlt
    obtain ⟨n, h1, h2⟩ := ih (modThr s (atLane p gid a) (eff a)) (List.nodup_cons.mp hnd).2 (fun l hl => hlt l (by simp [hl]))
    have ha : a < 32 := hlt a (by simp)
    refine ⟨(Near.modThr s _ _).trans n, ?_, ?_⟩
    · intro l hl
      show thrOf (ls.foldl _ (modThr s (atLane p gid a) (eff a))) _ = _
      rw [h1 l hl]
      by_cases hla : l = a
      · subst hla
        rw [if_neg (List.nodup_cons.mp hnd).1, if_pos (by simp), thrOf_modThr_self]
      · have hk : thrKey (atLane p gid l) ≠ thrKey (atLane p gid a) := fun h => hla (inj hl ha h)
        rw [thrOf_modThr_ne _ _ _ _ hk]
        simp [hla]
    · intro k hk
      show tget (ls.foldl _ (modThr s (atLane p gid a) (eff a))).threads k = _
      rw [h2 k (fun l hl => hk l (by simp [hl]))]
      simp [modThr, setThr, tget_tput, hk a (by simp)]

/-- The participants go on: each is READY at the next instruction, otherwise as it stood. -/
theorem goOn_steps (p : Packet) (gid : Nat) (parts : List Nat) (s : State) (hg : gid < 32) (hnd : parts.Nodup)
    (hlt : ∀ l ∈ parts, l < 32) :
    Near s (goOn p gid parts s) ∧
    (∀ l, l < 32 → thrOf (goOn p gid parts s) (atLane p gid l) =
      if l ∈ parts then stepped (thrClock s (atLane p gid l)) p.next (thrOf s (atLane p gid l)) else thrOf s (atLane p gid l)) ∧
    ∀ k, (∀ l ∈ parts, k ≠ thrKey (atLane p gid l)) → tget (goOn p gid parts s).threads k = tget s.threads k := by
  have e : goOn p gid parts s =
      parts.foldl (fun u l => modThr u (atLane p gid l) (stepped (thrClock s (atLane p gid l)) p.next)) s := by
    unfold goOn
    have : ∀ (ls : List Nat) (u : State), (∀ r, thrClock u r = thrClock s r) →
        ls.foldl (fun s l => advance s (atLane p gid l) p.next) u =
          ls.foldl (fun u l => modThr u (atLane p gid l) (stepped (thrClock s (atLane p gid l)) p.next)) u := by
      intro ls
      induction ls with
      | nil => intro u _; rfl
      | cons a ls ih =>
        intro u hu
        have e1 : advance u (atLane p gid a) p.next =
            modThr u (atLane p gid a) (stepped (thrClock s (atLane p gid a)) p.next) := by
          rw [← hu]; rfl
        simp only [List.foldl_cons, e1]
        exact ih _ (fun r => ((Near.modThr u _ _).thrClock r).trans (hu r))
    exact this parts s (fun _ => rfl)
  rw [e]
  exact foldl_modThr_lanes p gid (fun l => stepped (thrClock s (atLane p gid l)) p.next) hg parts s hnd hlt

/-- A rendezvous whose entry gives each present lane an effect that does not look at the thread's status, over a change `base` that
leaves the threads and the clocks alone, is done as `Met` says. -/
theorem rendezvous_met (o : Opnds) (ill : Team → Bool) (all : Bool) (mm : LaneMask) (run : Packet → Nat → List Nat → State → RvOut)
    (s : State) (p : Packet) (gid : Nat) (parts present : List Nat) (eff : Nat → Thread → Thread) (base : State → State)
    (h : Meeting o all mm s p gid parts present) (hill : ill (teamOf s p.team) = false)
    (hb : ∀ u, Near s u → (base u).threads = u.threads ∧ (∀ r, thrClock (base u) r = thrClock u r) ∧
      base u = { base s with threads := u.threads, timers := (base u).timers })
    (heff : ∀ l th st i now, stepped now p.next (eff l { th with stat := st, idleSince := i }) = stepped now p.next (eff l th))
    (hrun : ∀ u, Gathered s u p gid parts →
      run p gid present u = .done (present.foldl (fun s l => modThr s (atLane p gid l) (eff l)) (base u))) :
    ∃ t, rendezvous o ill all mm run s = .next t ∧ Met (base s) t s p gid parts present eff := by
  have h' := h
  obtain ⟨_, _, hg, hne, _, _, hr, _, hpres, _⟩ := h'
  obtain ⟨r, hm⟩ := List.exists_mem_of_ne_nil _ hne
  have hparts := (hr r hm).2.2.2.1
  have hlt : ∀ l ∈ parts, l < 32 := fun l hl => lanesOf_lt (hparts ▸ hl)
  have hnd : parts.Nodup := by
    rw [hparts]
    exact List.Pairwise.filter _ (by decide : groupLanes.Nodup)
  obtain ⟨hu, e⟩ := rendezvous_gathered o ill all mm run s p gid parts present h hill
  generalize gathered o all mm s p = u at hu e
  obtain ⟨b1, b2, b3⟩ := hb u hu.1
  rw [hrun u hu] at e
  have hsub : ∀ l ∈ present, l ∈ parts := fun l hl => by rw [hpres] at hl; exact (List.mem_filter.mp hl).1
  obtain ⟨n1, f1, k1⟩ := foldl_modThr_lanes p gid eff hg present (base u) (hpres ▸ List.Pairwise.filter _ hnd) (fun l hl => hlt l (hsub l hl))
  obtain ⟨n2, f2, k2⟩ := goOn_steps p gid parts (present.foldl (fun s l => modThr s (atLane p gid l) (eff l)) (base u)) hg hnd hlt
  refine ⟨_, e, ?_, ?_, ?_⟩
  · intro l hl
    dsimp only
    rw [f2 l (hlt l hl), if_pos hl, f1 l (hlt l hl), n1.thrClock, b2, Near.thrClock hu.1]
    obtain ⟨st, i, hx⟩ := hu.2.1 l hl
    have hx' : thrOf (base u) (atLane p gid l) = { thrOf s (atLane p gid l) with stat := st, idleSince := i } := by
      rw [← hx]; simp only [thrOf, b1]
    rw [hx']
    split
    · exact heff l _ st i _
    · rfl
  · intro k hk
    rw [k2 k hk, k1 k (fun l hl => hk l (hsub l hl)), b1]
    exact hu.2.2 k hk
  · have n := n1.trans n2
    unfold Near at n
    dsimp only
    rw [n, b3]

end Sys2Proof.Machine
end

