-- ==== Sys2Proof/Laws/State.lean ====
section
/-! SUPPORT. The laws of State: each update operation changes one field (an interrupt, the vectors sent or those pending), and what it leaves in
its own field. -/

namespace Sys2Proof.Machine

variable (s : State)

/-! ## setThr -/

@[simp] theorem setThr_now (r : ThrRef) (x : Thread) : (setThr s r x).now = s.now := rfl
@[simp] theorem setThr_mem (r : ThrRef) (x : Thread) : (setThr s r x).mem = s.mem := rfl
@[simp] theorem setThr_hostMem (r : ThrRef) (x : Thread) : (setThr s r x).hostMem = s.hostMem := rfl
@[simp] theorem setThr_poison (r : ThrRef) (x : Thread) : (setThr s r x).poison = s.poison := rfl
@[simp] theorem setThr_codeFrames (r : ThrRef) (x : Thread) : (setThr s r x).codeFrames = s.codeFrames := rfl
@[simp] theorem setThr_codePast (r : ThrRef) (x : Thread) : (setThr s r x).codePast = s.codePast := rfl
@[simp] theorem setThr_groups (r : ThrRef) (x : Thread) : (setThr s r x).groups = s.groups := rfl
@[simp] theorem setThr_teams (r : ThrRef) (x : Thread) : (setThr s r x).teams = s.teams := rfl
@[simp] theorem setThr_cores (r : ThrRef) (x : Thread) : (setThr s r x).cores = s.cores := rfl
@[simp] theorem setThr_quads (r : ThrRef) (x : Thread) : (setThr s r x).quads = s.quads := rfl
@[simp] theorem setThr_towers (r : ThrRef) (x : Thread) : (setThr s r x).towers = s.towers := rfl
@[simp] theorem setThr_slices (r : ThrRef) (x : Thread) : (setThr s r x).slices = s.slices := rfl
@[simp] theorem setThr_remap (r : ThrRef) (x : Thread) : (setThr s r x).remap = s.remap := rfl
@[simp] theorem setThr_spans (r : ThrRef) (x : Thread) : (setThr s r x).spans = s.spans := rfl
@[simp] theorem setThr_watchers (r : ThrRef) (x : Thread) : (setThr s r x).watchers = s.watchers := rfl
@[simp] theorem setThr_cache (r : ThrRef) (x : Thread) : (setThr s r x).cache = s.cache := rfl
@[simp] theorem setThr_ctxs (r : ThrRef) (x : Thread) : (setThr s r x).ctxs = s.ctxs := rfl
@[simp] theorem setThr_nodes (r : ThrRef) (x : Thread) : (setThr s r x).nodes = s.nodes := rfl
@[simp] theorem setThr_stamp (r : ThrRef) (x : Thread) : (setThr s r x).stamp = s.stamp := rfl
@[simp] theorem setThr_queues (r : ThrRef) (x : Thread) : (setThr s r x).queues = s.queues := rfl
@[simp] theorem setThr_items (r : ThrRef) (x : Thread) : (setThr s r x).items = s.items := rfl
@[simp] theorem setThr_reqs (r : ThrRef) (x : Thread) : (setThr s r x).reqs = s.reqs := rfl
@[simp] theorem setThr_farReads (r : ThrRef) (x : Thread) : (setThr s r x).farReads = s.farReads := rfl
@[simp] theorem setThr_asyncs (r : ThrRef) (x : Thread) : (setThr s r x).asyncs = s.asyncs := rfl
@[simp] theorem setThr_acqs (r : ThrRef) (x : Thread) : (setThr s r x).acqs = s.acqs := rfl
@[simp] theorem setThr_joins (r : ThrRef) (x : Thread) : (setThr s r x).joins = s.joins := rfl
@[simp] theorem setThr_copies (r : ThrRef) (x : Thread) : (setThr s r x).copies = s.copies := rfl
@[simp] theorem setThr_colls (r : ThrRef) (x : Thread) : (setThr s r x).colls = s.colls := rfl
@[simp] theorem setThr_damper (r : ThrRef) (x : Thread) : (setThr s r x).damper = s.damper := rfl
@[simp] theorem setThr_kiln (r : ThrRef) (x : Thread) : (setThr s r x).kiln = s.kiln := rfl
@[simp] theorem setThr_links (r : ThrRef) (x : Thread) : (setThr s r x).links = s.links := rfl
@[simp] theorem setThr_steer (r : ThrRef) (x : Thread) : (setThr s r x).steer = s.steer := rfl
@[simp] theorem setThr_edgeErr (r : ThrRef) (x : Thread) : (setThr s r x).edgeErr = s.edgeErr := rfl
@[simp] theorem setThr_agents (r : ThrRef) (x : Thread) : (setThr s r x).agents = s.agents := rfl
@[simp] theorem setThr_fx (r : ThrRef) (x : Thread) : (setThr s r x).fx = s.fx := rfl
@[simp] theorem setThr_fxslots (r : ThrRef) (x : Thread) : (setThr s r x).fxslots = s.fxslots := rfl
@[simp] theorem setThr_fxself (r : ThrRef) (x : Thread) : (setThr s r x).fxself = s.fxself := rfl
@[simp] theorem setThr_fxSet (r : ThrRef) (x : Thread) : (setThr s r x).fxSet = s.fxSet := rfl
@[simp] theorem setThr_fxsteer (r : ThrRef) (x : Thread) : (setThr s r x).fxsteer = s.fxsteer := rfl
@[simp] theorem setThr_recalls (r : ThrRef) (x : Thread) : (setThr s r x).recalls = s.recalls := rfl
@[simp] theorem setThr_msgData (r : ThrRef) (x : Thread) : (setThr s r x).msgData = s.msgData := rfl
@[simp] theorem setThr_waiting (r : ThrRef) (x : Thread) : (setThr s r x).waiting = s.waiting := rfl
@[simp] theorem setThr_sent (r : ThrRef) (x : Thread) : (setThr s r x).sent = s.sent := rfl
@[simp] theorem setThr_outbox (r : ThrRef) (x : Thread) : (setThr s r x).outbox = s.outbox := rfl
@[simp] theorem setThr_hubIn (r : ThrRef) (x : Thread) : (setThr s r x).hubIn = s.hubIn := rfl
@[simp] theorem setThr_routed (r : ThrRef) (x : Thread) : (setThr s r x).routed = s.routed := rfl
@[simp] theorem setThr_fxInc (r : ThrRef) (x : Thread) : (setThr s r x).fxInc = s.fxInc := rfl
@[simp] theorem setThr_topoBase (r : ThrRef) (x : Thread) : (setThr s r x).topoBase = s.topoBase := rfl
@[simp] theorem setThr_moves (r : ThrRef) (x : Thread) : (setThr s r x).moves = s.moves := rfl
@[simp] theorem setThr_t1 (r : ThrRef) (x : Thread) : (setThr s r x).t1 = s.t1 := rfl
@[simp] theorem setThr_package (r : ThrRef) (x : Thread) : (setThr s r x).package = s.package := rfl
@[simp] theorem setThr_pcieUp (r : ThrRef) (x : Thread) : (setThr s r x).pcieUp = s.pcieUp := rfl
@[simp] theorem setThr_d3hot (r : ThrRef) (x : Thread) : (setThr s r x).d3hot = s.d3hot := rfl
@[simp] theorem setThr_msixTab (r : ThrRef) (x : Thread) : (setThr s r x).msixTab = s.msixTab := rfl
@[simp] theorem setThr_msixPend (r : ThrRef) (x : Thread) : (setThr s r x).msixPend = s.msixPend := rfl
@[simp] theorem setThr_bar4Log (r : ThrRef) (x : Thread) : (setThr s r x).bar4Log = s.bar4Log := rfl
@[simp] theorem setThr_msix (r : ThrRef) (x : Thread) : (setThr s r x).msix = s.msix := rfl
@[simp] theorem setThr_agenda (r : ThrRef) (x : Thread) : (setThr s r x).agenda = s.agenda := rfl
@[simp] theorem setThr_timers (r : ThrRef) (x : Thread) : (setThr s r x).timers = s.timers := rfl
@[simp] theorem setThr_ctimers (r : ThrRef) (x : Thread) : (setThr s r x).ctimers = s.ctimers := rfl
@[simp] theorem setThr_cur (r : ThrRef) (x : Thread) : (setThr s r x).cur = s.cur := rfl
@[simp] theorem setThr_nextId (r : ThrRef) (x : Thread) : (setThr s r x).nextId = s.nextId := rfl
@[simp] theorem setThr_fresh (r : ThrRef) (x : Thread) : (setThr s r x).fresh = s.fresh := rfl

/-! ## modThr -/

@[simp] theorem modThr_now (r : ThrRef) (f : Thread → Thread) : (modThr s r f).now = s.now := rfl
@[simp] theorem modThr_mem (r : ThrRef) (f : Thread → Thread) : (modThr s r f).mem = s.mem := rfl
@[simp] theorem modThr_hostMem (r : ThrRef) (f : Thread → Thread) : (modThr s r f).hostMem = s.hostMem := rfl
@[simp] theorem modThr_poison (r : ThrRef) (f : Thread → Thread) : (modThr s r f).poison = s.poison := rfl
@[simp] theorem modThr_codeFrames (r : ThrRef) (f : Thread → Thread) : (modThr s r f).codeFrames = s.codeFrames := rfl
@[simp] theorem modThr_codePast (r : ThrRef) (f : Thread → Thread) : (modThr s r f).codePast = s.codePast := rfl
@[simp] theorem modThr_groups (r : ThrRef) (f : Thread → Thread) : (modThr s r f).groups = s.groups := rfl
@[simp] theorem modThr_teams (r : ThrRef) (f : Thread → Thread) : (modThr s r f).teams = s.teams := rfl
@[simp] theorem modThr_cores (r : ThrRef) (f : Thread → Thread) : (modThr s r f).cores = s.cores := rfl
@[simp] theorem modThr_quads (r : ThrRef) (f : Thread → Thread) : (modThr s r f).quads = s.quads := rfl
@[simp] theorem modThr_towers (r : ThrRef) (f : Thread → Thread) : (modThr s r f).towers = s.towers := rfl
@[simp] theorem modThr_slices (r : ThrRef) (f : Thread → Thread) : (modThr s r f).slices = s.slices := rfl
@[simp] theorem modThr_remap (r : ThrRef) (f : Thread → Thread) : (modThr s r f).remap = s.remap := rfl
@[simp] theorem modThr_spans (r : ThrRef) (f : Thread → Thread) : (modThr s r f).spans = s.spans := rfl
@[simp] theorem modThr_watchers (r : ThrRef) (f : Thread → Thread) : (modThr s r f).watchers = s.watchers := rfl
@[simp] theorem modThr_cache (r : ThrRef) (f : Thread → Thread) : (modThr s r f).cache = s.cache := rfl
@[simp] theorem modThr_ctxs (r : ThrRef) (f : Thread → Thread) : (modThr s r f).ctxs = s.ctxs := rfl
@[simp] theorem modThr_nodes (r : ThrRef) (f : Thread → Thread) : (modThr s r f).nodes = s.nodes := rfl
@[simp] theorem modThr_stamp (r : ThrRef) (f : Thread → Thread) : (modThr s r f).stamp = s.stamp := rfl
@[simp] theorem modThr_queues (r : ThrRef) (f : Thread → Thread) : (modThr s r f).queues = s.queues := rfl
@[simp] theorem modThr_items (r : ThrRef) (f : Thread → Thread) : (modThr s r f).items = s.items := rfl
@[simp] theorem modThr_reqs (r : ThrRef) (f : Thread → Thread) : (modThr s r f).reqs = s.reqs := rfl
@[simp] theorem modThr_farReads (r : ThrRef) (f : Thread → Thread) : (modThr s r f).farReads = s.farReads := rfl
@[simp] theorem modThr_asyncs (r : ThrRef) (f : Thread → Thread) : (modThr s r f).asyncs = s.asyncs := rfl
@[simp] theorem modThr_acqs (r : ThrRef) (f : Thread → Thread) : (modThr s r f).acqs = s.acqs := rfl
@[simp] theorem modThr_joins (r : ThrRef) (f : Thread → Thread) : (modThr s r f).joins = s.joins := rfl
@[simp] theorem modThr_copies (r : ThrRef) (f : Thread → Thread) : (modThr s r f).copies = s.copies := rfl
@[simp] theorem modThr_colls (r : ThrRef) (f : Thread → Thread) : (modThr s r f).colls = s.colls := rfl
@[simp] theorem modThr_damper (r : ThrRef) (f : Thread → Thread) : (modThr s r f).damper = s.damper := rfl
@[simp] theorem modThr_kiln (r : ThrRef) (f : Thread → Thread) : (modThr s r f).kiln = s.kiln := rfl
@[simp] theorem modThr_links (r : ThrRef) (f : Thread → Thread) : (modThr s r f).links = s.links := rfl
@[simp] theorem modThr_steer (r : ThrRef) (f : Thread → Thread) : (modThr s r f).steer = s.steer := rfl
@[simp] theorem modThr_edgeErr (r : ThrRef) (f : Thread → Thread) : (modThr s r f).edgeErr = s.edgeErr := rfl
@[simp] theorem modThr_agents (r : ThrRef) (f : Thread → Thread) : (modThr s r f).agents = s.agents := rfl
@[simp] theorem modThr_fx (r : ThrRef) (f : Thread → Thread) : (modThr s r f).fx = s.fx := rfl
@[simp] theorem modThr_fxslots (r : ThrRef) (f : Thread → Thread) : (modThr s r f).fxslots = s.fxslots := rfl
@[simp] theorem modThr_fxself (r : ThrRef) (f : Thread → Thread) : (modThr s r f).fxself = s.fxself := rfl
@[simp] theorem modThr_fxSet (r : ThrRef) (f : Thread → Thread) : (modThr s r f).fxSet = s.fxSet := rfl
@[simp] theorem modThr_fxsteer (r : ThrRef) (f : Thread → Thread) : (modThr s r f).fxsteer = s.fxsteer := rfl
@[simp] theorem modThr_recalls (r : ThrRef) (f : Thread → Thread) : (modThr s r f).recalls = s.recalls := rfl
@[simp] theorem modThr_msgData (r : ThrRef) (f : Thread → Thread) : (modThr s r f).msgData = s.msgData := rfl
@[simp] theorem modThr_waiting (r : ThrRef) (f : Thread → Thread) : (modThr s r f).waiting = s.waiting := rfl
@[simp] theorem modThr_sent (r : ThrRef) (f : Thread → Thread) : (modThr s r f).sent = s.sent := rfl
@[simp] theorem modThr_outbox (r : ThrRef) (f : Thread → Thread) : (modThr s r f).outbox = s.outbox := rfl
@[simp] theorem modThr_hubIn (r : ThrRef) (f : Thread → Thread) : (modThr s r f).hubIn = s.hubIn := rfl
@[simp] theorem modThr_routed (r : ThrRef) (f : Thread → Thread) : (modThr s r f).routed = s.routed := rfl
@[simp] theorem modThr_fxInc (r : ThrRef) (f : Thread → Thread) : (modThr s r f).fxInc = s.fxInc := rfl
@[simp] theorem modThr_topoBase (r : ThrRef) (f : Thread → Thread) : (modThr s r f).topoBase = s.topoBase := rfl
@[simp] theorem modThr_moves (r : ThrRef) (f : Thread → Thread) : (modThr s r f).moves = s.moves := rfl
@[simp] theorem modThr_t1 (r : ThrRef) (f : Thread → Thread) : (modThr s r f).t1 = s.t1 := rfl
@[simp] theorem modThr_package (r : ThrRef) (f : Thread → Thread) : (modThr s r f).package = s.package := rfl
@[simp] theorem modThr_pcieUp (r : ThrRef) (f : Thread → Thread) : (modThr s r f).pcieUp = s.pcieUp := rfl
@[simp] theorem modThr_d3hot (r : ThrRef) (f : Thread → Thread) : (modThr s r f).d3hot = s.d3hot := rfl
@[simp] theorem modThr_msixTab (r : ThrRef) (f : Thread → Thread) : (modThr s r f).msixTab = s.msixTab := rfl
@[simp] theorem modThr_msixPend (r : ThrRef) (f : Thread → Thread) : (modThr s r f).msixPend = s.msixPend := rfl
@[simp] theorem modThr_bar4Log (r : ThrRef) (f : Thread → Thread) : (modThr s r f).bar4Log = s.bar4Log := rfl
@[simp] theorem modThr_msix (r : ThrRef) (f : Thread → Thread) : (modThr s r f).msix = s.msix := rfl
@[simp] theorem modThr_agenda (r : ThrRef) (f : Thread → Thread) : (modThr s r f).agenda = s.agenda := rfl
@[simp] theorem modThr_timers (r : ThrRef) (f : Thread → Thread) : (modThr s r f).timers = s.timers := rfl
@[simp] theorem modThr_ctimers (r : ThrRef) (f : Thread → Thread) : (modThr s r f).ctimers = s.ctimers := rfl
@[simp] theorem modThr_cur (r : ThrRef) (f : Thread → Thread) : (modThr s r f).cur = s.cur := rfl
@[simp] theorem modThr_nextId (r : ThrRef) (f : Thread → Thread) : (modThr s r f).nextId = s.nextId := rfl
@[simp] theorem modThr_fresh (r : ThrRef) (f : Thread → Thread) : (modThr s r f).fresh = s.fresh := rfl

/-! ## setGrp -/

@[simp] theorem setGrp_now (k g : Nat) (x : Group) : (setGrp s k g x).now = s.now := rfl
@[simp] theorem setGrp_mem (k g : Nat) (x : Group) : (setGrp s k g x).mem = s.mem := rfl
@[simp] theorem setGrp_hostMem (k g : Nat) (x : Group) : (setGrp s k g x).hostMem = s.hostMem := rfl
@[simp] theorem setGrp_poison (k g : Nat) (x : Group) : (setGrp s k g x).poison = s.poison := rfl
@[simp] theorem setGrp_codeFrames (k g : Nat) (x : Group) : (setGrp s k g x).codeFrames = s.codeFrames := rfl
@[simp] theorem setGrp_codePast (k g : Nat) (x : Group) : (setGrp s k g x).codePast = s.codePast := rfl
@[simp] theorem setGrp_threads (k g : Nat) (x : Group) : (setGrp s k g x).threads = s.threads := rfl
@[simp] theorem setGrp_teams (k g : Nat) (x : Group) : (setGrp s k g x).teams = s.teams := rfl
@[simp] theorem setGrp_cores (k g : Nat) (x : Group) : (setGrp s k g x).cores = s.cores := rfl
@[simp] theorem setGrp_quads (k g : Nat) (x : Group) : (setGrp s k g x).quads = s.quads := rfl
@[simp] theorem setGrp_towers (k g : Nat) (x : Group) : (setGrp s k g x).towers = s.towers := rfl
@[simp] theorem setGrp_slices (k g : Nat) (x : Group) : (setGrp s k g x).slices = s.slices := rfl
@[simp] theorem setGrp_remap (k g : Nat) (x : Group) : (setGrp s k g x).remap = s.remap := rfl
@[simp] theorem setGrp_spans (k g : Nat) (x : Group) : (setGrp s k g x).spans = s.spans := rfl
@[simp] theorem setGrp_watchers (k g : Nat) (x : Group) : (setGrp s k g x).watchers = s.watchers := rfl
@[simp] theorem setGrp_cache (k g : Nat) (x : Group) : (setGrp s k g x).cache = s.cache := rfl
@[simp] theorem setGrp_ctxs (k g : Nat) (x : Group) : (setGrp s k g x).ctxs = s.ctxs := rfl
@[simp] theorem setGrp_nodes (k g : Nat) (x : Group) : (setGrp s k g x).nodes = s.nodes := rfl
@[simp] theorem setGrp_stamp (k g : Nat) (x : Group) : (setGrp s k g x).stamp = s.stamp := rfl
@[simp] theorem setGrp_queues (k g : Nat) (x : Group) : (setGrp s k g x).queues = s.queues := rfl
@[simp] theorem setGrp_items (k g : Nat) (x : Group) : (setGrp s k g x).items = s.items := rfl
@[simp] theorem setGrp_reqs (k g : Nat) (x : Group) : (setGrp s k g x).reqs = s.reqs := rfl
@[simp] theorem setGrp_farReads (k g : Nat) (x : Group) : (setGrp s k g x).farReads = s.farReads := rfl
@[simp] theorem setGrp_asyncs (k g : Nat) (x : Group) : (setGrp s k g x).asyncs = s.asyncs := rfl
@[simp] theorem setGrp_acqs (k g : Nat) (x : Group) : (setGrp s k g x).acqs = s.acqs := rfl
@[simp] theorem setGrp_joins (k g : Nat) (x : Group) : (setGrp s k g x).joins = s.joins := rfl
@[simp] theorem setGrp_copies (k g : Nat) (x : Group) : (setGrp s k g x).copies = s.copies := rfl
@[simp] theorem setGrp_colls (k g : Nat) (x : Group) : (setGrp s k g x).colls = s.colls := rfl
@[simp] theorem setGrp_damper (k g : Nat) (x : Group) : (setGrp s k g x).damper = s.damper := rfl
@[simp] theorem setGrp_kiln (k g : Nat) (x : Group) : (setGrp s k g x).kiln = s.kiln := rfl
@[simp] theorem setGrp_links (k g : Nat) (x : Group) : (setGrp s k g x).links = s.links := rfl
@[simp] theorem setGrp_steer (k g : Nat) (x : Group) : (setGrp s k g x).steer = s.steer := rfl
@[simp] theorem setGrp_edgeErr (k g : Nat) (x : Group) : (setGrp s k g x).edgeErr = s.edgeErr := rfl
@[simp] theorem setGrp_agents (k g : Nat) (x : Group) : (setGrp s k g x).agents = s.agents := rfl
@[simp] theorem setGrp_fx (k g : Nat) (x : Group) : (setGrp s k g x).fx = s.fx := rfl
@[simp] theorem setGrp_fxslots (k g : Nat) (x : Group) : (setGrp s k g x).fxslots = s.fxslots := rfl
@[simp] theorem setGrp_fxself (k g : Nat) (x : Group) : (setGrp s k g x).fxself = s.fxself := rfl
@[simp] theorem setGrp_fxSet (k g : Nat) (x : Group) : (setGrp s k g x).fxSet = s.fxSet := rfl
@[simp] theorem setGrp_fxsteer (k g : Nat) (x : Group) : (setGrp s k g x).fxsteer = s.fxsteer := rfl
@[simp] theorem setGrp_recalls (k g : Nat) (x : Group) : (setGrp s k g x).recalls = s.recalls := rfl
@[simp] theorem setGrp_msgData (k g : Nat) (x : Group) : (setGrp s k g x).msgData = s.msgData := rfl
@[simp] theorem setGrp_waiting (k g : Nat) (x : Group) : (setGrp s k g x).waiting = s.waiting := rfl
@[simp] theorem setGrp_sent (k g : Nat) (x : Group) : (setGrp s k g x).sent = s.sent := rfl
@[simp] theorem setGrp_outbox (k g : Nat) (x : Group) : (setGrp s k g x).outbox = s.outbox := rfl
@[simp] theorem setGrp_hubIn (k g : Nat) (x : Group) : (setGrp s k g x).hubIn = s.hubIn := rfl
@[simp] theorem setGrp_routed (k g : Nat) (x : Group) : (setGrp s k g x).routed = s.routed := rfl
@[simp] theorem setGrp_fxInc (k g : Nat) (x : Group) : (setGrp s k g x).fxInc = s.fxInc := rfl
@[simp] theorem setGrp_topoBase (k g : Nat) (x : Group) : (setGrp s k g x).topoBase = s.topoBase := rfl
@[simp] theorem setGrp_moves (k g : Nat) (x : Group) : (setGrp s k g x).moves = s.moves := rfl
@[simp] theorem setGrp_t1 (k g : Nat) (x : Group) : (setGrp s k g x).t1 = s.t1 := rfl
@[simp] theorem setGrp_package (k g : Nat) (x : Group) : (setGrp s k g x).package = s.package := rfl
@[simp] theorem setGrp_pcieUp (k g : Nat) (x : Group) : (setGrp s k g x).pcieUp = s.pcieUp := rfl
@[simp] theorem setGrp_d3hot (k g : Nat) (x : Group) : (setGrp s k g x).d3hot = s.d3hot := rfl
@[simp] theorem setGrp_msixTab (k g : Nat) (x : Group) : (setGrp s k g x).msixTab = s.msixTab := rfl
@[simp] theorem setGrp_msixPend (k g : Nat) (x : Group) : (setGrp s k g x).msixPend = s.msixPend := rfl
@[simp] theorem setGrp_bar4Log (k g : Nat) (x : Group) : (setGrp s k g x).bar4Log = s.bar4Log := rfl
@[simp] theorem setGrp_msix (k g : Nat) (x : Group) : (setGrp s k g x).msix = s.msix := rfl
@[simp] theorem setGrp_agenda (k g : Nat) (x : Group) : (setGrp s k g x).agenda = s.agenda := rfl
@[simp] theorem setGrp_timers (k g : Nat) (x : Group) : (setGrp s k g x).timers = s.timers := rfl
@[simp] theorem setGrp_ctimers (k g : Nat) (x : Group) : (setGrp s k g x).ctimers = s.ctimers := rfl
@[simp] theorem setGrp_cur (k g : Nat) (x : Group) : (setGrp s k g x).cur = s.cur := rfl
@[simp] theorem setGrp_nextId (k g : Nat) (x : Group) : (setGrp s k g x).nextId = s.nextId := rfl
@[simp] theorem setGrp_fresh (k g : Nat) (x : Group) : (setGrp s k g x).fresh = s.fresh := rfl

/-! ## modGrp -/

@[simp] theorem modGrp_now (k g : Nat) (f : Group → Group) : (modGrp s k g f).now = s.now := rfl
@[simp] theorem modGrp_mem (k g : Nat) (f : Group → Group) : (modGrp s k g f).mem = s.mem := rfl
@[simp] theorem modGrp_hostMem (k g : Nat) (f : Group → Group) : (modGrp s k g f).hostMem = s.hostMem := rfl
@[simp] theorem modGrp_poison (k g : Nat) (f : Group → Group) : (modGrp s k g f).poison = s.poison := rfl
@[simp] theorem modGrp_codeFrames (k g : Nat) (f : Group → Group) : (modGrp s k g f).codeFrames = s.codeFrames := rfl
@[simp] theorem modGrp_codePast (k g : Nat) (f : Group → Group) : (modGrp s k g f).codePast = s.codePast := rfl
@[simp] theorem modGrp_threads (k g : Nat) (f : Group → Group) : (modGrp s k g f).threads = s.threads := rfl
@[simp] theorem modGrp_teams (k g : Nat) (f : Group → Group) : (modGrp s k g f).teams = s.teams := rfl
@[simp] theorem modGrp_cores (k g : Nat) (f : Group → Group) : (modGrp s k g f).cores = s.cores := rfl
@[simp] theorem modGrp_quads (k g : Nat) (f : Group → Group) : (modGrp s k g f).quads = s.quads := rfl
@[simp] theorem modGrp_towers (k g : Nat) (f : Group → Group) : (modGrp s k g f).towers = s.towers := rfl
@[simp] theorem modGrp_slices (k g : Nat) (f : Group → Group) : (modGrp s k g f).slices = s.slices := rfl
@[simp] theorem modGrp_remap (k g : Nat) (f : Group → Group) : (modGrp s k g f).remap = s.remap := rfl
@[simp] theorem modGrp_spans (k g : Nat) (f : Group → Group) : (modGrp s k g f).spans = s.spans := rfl
@[simp] theorem modGrp_watchers (k g : Nat) (f : Group → Group) : (modGrp s k g f).watchers = s.watchers := rfl
@[simp] theorem modGrp_cache (k g : Nat) (f : Group → Group) : (modGrp s k g f).cache = s.cache := rfl
@[simp] theorem modGrp_ctxs (k g : Nat) (f : Group → Group) : (modGrp s k g f).ctxs = s.ctxs := rfl
@[simp] theorem modGrp_nodes (k g : Nat) (f : Group → Group) : (modGrp s k g f).nodes = s.nodes := rfl
@[simp] theorem modGrp_stamp (k g : Nat) (f : Group → Group) : (modGrp s k g f).stamp = s.stamp := rfl
@[simp] theorem modGrp_queues (k g : Nat) (f : Group → Group) : (modGrp s k g f).queues = s.queues := rfl
@[simp] theorem modGrp_items (k g : Nat) (f : Group → Group) : (modGrp s k g f).items = s.items := rfl
@[simp] theorem modGrp_reqs (k g : Nat) (f : Group → Group) : (modGrp s k g f).reqs = s.reqs := rfl
@[simp] theorem modGrp_farReads (k g : Nat) (f : Group → Group) : (modGrp s k g f).farReads = s.farReads := rfl
@[simp] theorem modGrp_asyncs (k g : Nat) (f : Group → Group) : (modGrp s k g f).asyncs = s.asyncs := rfl
@[simp] theorem modGrp_acqs (k g : Nat) (f : Group → Group) : (modGrp s k g f).acqs = s.acqs := rfl
@[simp] theorem modGrp_joins (k g : Nat) (f : Group → Group) : (modGrp s k g f).joins = s.joins := rfl
@[simp] theorem modGrp_copies (k g : Nat) (f : Group → Group) : (modGrp s k g f).copies = s.copies := rfl
@[simp] theorem modGrp_colls (k g : Nat) (f : Group → Group) : (modGrp s k g f).colls = s.colls := rfl
@[simp] theorem modGrp_damper (k g : Nat) (f : Group → Group) : (modGrp s k g f).damper = s.damper := rfl
@[simp] theorem modGrp_kiln (k g : Nat) (f : Group → Group) : (modGrp s k g f).kiln = s.kiln := rfl
@[simp] theorem modGrp_links (k g : Nat) (f : Group → Group) : (modGrp s k g f).links = s.links := rfl
@[simp] theorem modGrp_steer (k g : Nat) (f : Group → Group) : (modGrp s k g f).steer = s.steer := rfl
@[simp] theorem modGrp_edgeErr (k g : Nat) (f : Group → Group) : (modGrp s k g f).edgeErr = s.edgeErr := rfl
@[simp] theorem modGrp_agents (k g : Nat) (f : Group → Group) : (modGrp s k g f).agents = s.agents := rfl
@[simp] theorem modGrp_fx (k g : Nat) (f : Group → Group) : (modGrp s k g f).fx = s.fx := rfl
@[simp] theorem modGrp_fxslots (k g : Nat) (f : Group → Group) : (modGrp s k g f).fxslots = s.fxslots := rfl
@[simp] theorem modGrp_fxself (k g : Nat) (f : Group → Group) : (modGrp s k g f).fxself = s.fxself := rfl
@[simp] theorem modGrp_fxSet (k g : Nat) (f : Group → Group) : (modGrp s k g f).fxSet = s.fxSet := rfl
@[simp] theorem modGrp_fxsteer (k g : Nat) (f : Group → Group) : (modGrp s k g f).fxsteer = s.fxsteer := rfl
@[simp] theorem modGrp_recalls (k g : Nat) (f : Group → Group) : (modGrp s k g f).recalls = s.recalls := rfl
@[simp] theorem modGrp_msgData (k g : Nat) (f : Group → Group) : (modGrp s k g f).msgData = s.msgData := rfl
@[simp] theorem modGrp_waiting (k g : Nat) (f : Group → Group) : (modGrp s k g f).waiting = s.waiting := rfl
@[simp] theorem modGrp_sent (k g : Nat) (f : Group → Group) : (modGrp s k g f).sent = s.sent := rfl
@[simp] theorem modGrp_outbox (k g : Nat) (f : Group → Group) : (modGrp s k g f).outbox = s.outbox := rfl
@[simp] theorem modGrp_hubIn (k g : Nat) (f : Group → Group) : (modGrp s k g f).hubIn = s.hubIn := rfl
@[simp] theorem modGrp_routed (k g : Nat) (f : Group → Group) : (modGrp s k g f).routed = s.routed := rfl
@[simp] theorem modGrp_fxInc (k g : Nat) (f : Group → Group) : (modGrp s k g f).fxInc = s.fxInc := rfl
@[simp] theorem modGrp_topoBase (k g : Nat) (f : Group → Group) : (modGrp s k g f).topoBase = s.topoBase := rfl
@[simp] theorem modGrp_moves (k g : Nat) (f : Group → Group) : (modGrp s k g f).moves = s.moves := rfl
@[simp] theorem modGrp_t1 (k g : Nat) (f : Group → Group) : (modGrp s k g f).t1 = s.t1 := rfl
@[simp] theorem modGrp_package (k g : Nat) (f : Group → Group) : (modGrp s k g f).package = s.package := rfl
@[simp] theorem modGrp_pcieUp (k g : Nat) (f : Group → Group) : (modGrp s k g f).pcieUp = s.pcieUp := rfl
@[simp] theorem modGrp_d3hot (k g : Nat) (f : Group → Group) : (modGrp s k g f).d3hot = s.d3hot := rfl
@[simp] theorem modGrp_msixTab (k g : Nat) (f : Group → Group) : (modGrp s k g f).msixTab = s.msixTab := rfl
@[simp] theorem modGrp_msixPend (k g : Nat) (f : Group → Group) : (modGrp s k g f).msixPend = s.msixPend := rfl
@[simp] theorem modGrp_bar4Log (k g : Nat) (f : Group → Group) : (modGrp s k g f).bar4Log = s.bar4Log := rfl
@[simp] theorem modGrp_msix (k g : Nat) (f : Group → Group) : (modGrp s k g f).msix = s.msix := rfl
@[simp] theorem modGrp_agenda (k g : Nat) (f : Group → Group) : (modGrp s k g f).agenda = s.agenda := rfl
@[simp] theorem modGrp_timers (k g : Nat) (f : Group → Group) : (modGrp s k g f).timers = s.timers := rfl
@[simp] theorem modGrp_ctimers (k g : Nat) (f : Group → Group) : (modGrp s k g f).ctimers = s.ctimers := rfl
@[simp] theorem modGrp_cur (k g : Nat) (f : Group → Group) : (modGrp s k g f).cur = s.cur := rfl
@[simp] theorem modGrp_nextId (k g : Nat) (f : Group → Group) : (modGrp s k g f).nextId = s.nextId := rfl
@[simp] theorem modGrp_fresh (k g : Nat) (f : Group → Group) : (modGrp s k g f).fresh = s.fresh := rfl

/-! ## modTeam -/

@[simp] theorem modTeam_now (k : Nat) (f : Team → Team) : (modTeam s k f).now = s.now := rfl
@[simp] theorem modTeam_mem (k : Nat) (f : Team → Team) : (modTeam s k f).mem = s.mem := rfl
@[simp] theorem modTeam_hostMem (k : Nat) (f : Team → Team) : (modTeam s k f).hostMem = s.hostMem := rfl
@[simp] theorem modTeam_poison (k : Nat) (f : Team → Team) : (modTeam s k f).poison = s.poison := rfl
@[simp] theorem modTeam_codeFrames (k : Nat) (f : Team → Team) : (modTeam s k f).codeFrames = s.codeFrames := rfl
@[simp] theorem modTeam_codePast (k : Nat) (f : Team → Team) : (modTeam s k f).codePast = s.codePast := rfl
@[simp] theorem modTeam_threads (k : Nat) (f : Team → Team) : (modTeam s k f).threads = s.threads := rfl
@[simp] theorem modTeam_groups (k : Nat) (f : Team → Team) : (modTeam s k f).groups = s.groups := rfl
@[simp] theorem modTeam_cores (k : Nat) (f : Team → Team) : (modTeam s k f).cores = s.cores := rfl
@[simp] theorem modTeam_quads (k : Nat) (f : Team → Team) : (modTeam s k f).quads = s.quads := rfl
@[simp] theorem modTeam_towers (k : Nat) (f : Team → Team) : (modTeam s k f).towers = s.towers := rfl
@[simp] theorem modTeam_slices (k : Nat) (f : Team → Team) : (modTeam s k f).slices = s.slices := rfl
@[simp] theorem modTeam_remap (k : Nat) (f : Team → Team) : (modTeam s k f).remap = s.remap := rfl
@[simp] theorem modTeam_spans (k : Nat) (f : Team → Team) : (modTeam s k f).spans = s.spans := rfl
@[simp] theorem modTeam_watchers (k : Nat) (f : Team → Team) : (modTeam s k f).watchers = s.watchers := rfl
@[simp] theorem modTeam_cache (k : Nat) (f : Team → Team) : (modTeam s k f).cache = s.cache := rfl
@[simp] theorem modTeam_ctxs (k : Nat) (f : Team → Team) : (modTeam s k f).ctxs = s.ctxs := rfl
@[simp] theorem modTeam_nodes (k : Nat) (f : Team → Team) : (modTeam s k f).nodes = s.nodes := rfl
@[simp] theorem modTeam_stamp (k : Nat) (f : Team → Team) : (modTeam s k f).stamp = s.stamp := rfl
@[simp] theorem modTeam_queues (k : Nat) (f : Team → Team) : (modTeam s k f).queues = s.queues := rfl
@[simp] theorem modTeam_items (k : Nat) (f : Team → Team) : (modTeam s k f).items = s.items := rfl
@[simp] theorem modTeam_reqs (k : Nat) (f : Team → Team) : (modTeam s k f).reqs = s.reqs := rfl
@[simp] theorem modTeam_farReads (k : Nat) (f : Team → Team) : (modTeam s k f).farReads = s.farReads := rfl
@[simp] theorem modTeam_asyncs (k : Nat) (f : Team → Team) : (modTeam s k f).asyncs = s.asyncs := rfl
@[simp] theorem modTeam_acqs (k : Nat) (f : Team → Team) : (modTeam s k f).acqs = s.acqs := rfl
@[simp] theorem modTeam_joins (k : Nat) (f : Team → Team) : (modTeam s k f).joins = s.joins := rfl
@[simp] theorem modTeam_copies (k : Nat) (f : Team → Team) : (modTeam s k f).copies = s.copies := rfl
@[simp] theorem modTeam_colls (k : Nat) (f : Team → Team) : (modTeam s k f).colls = s.colls := rfl
@[simp] theorem modTeam_damper (k : Nat) (f : Team → Team) : (modTeam s k f).damper = s.damper := rfl
@[simp] theorem modTeam_kiln (k : Nat) (f : Team → Team) : (modTeam s k f).kiln = s.kiln := rfl
@[simp] theorem modTeam_links (k : Nat) (f : Team → Team) : (modTeam s k f).links = s.links := rfl
@[simp] theorem modTeam_steer (k : Nat) (f : Team → Team) : (modTeam s k f).steer = s.steer := rfl
@[simp] theorem modTeam_edgeErr (k : Nat) (f : Team → Team) : (modTeam s k f).edgeErr = s.edgeErr := rfl
@[simp] theorem modTeam_agents (k : Nat) (f : Team → Team) : (modTeam s k f).agents = s.agents := rfl
@[simp] theorem modTeam_fx (k : Nat) (f : Team → Team) : (modTeam s k f).fx = s.fx := rfl
@[simp] theorem modTeam_fxslots (k : Nat) (f : Team → Team) : (modTeam s k f).fxslots = s.fxslots := rfl
@[simp] theorem modTeam_fxself (k : Nat) (f : Team → Team) : (modTeam s k f).fxself = s.fxself := rfl
@[simp] theorem modTeam_fxSet (k : Nat) (f : Team → Team) : (modTeam s k f).fxSet = s.fxSet := rfl
@[simp] theorem modTeam_fxsteer (k : Nat) (f : Team → Team) : (modTeam s k f).fxsteer = s.fxsteer := rfl
@[simp] theorem modTeam_recalls (k : Nat) (f : Team → Team) : (modTeam s k f).recalls = s.recalls := rfl
@[simp] theorem modTeam_msgData (k : Nat) (f : Team → Team) : (modTeam s k f).msgData = s.msgData := rfl
@[simp] theorem modTeam_waiting (k : Nat) (f : Team → Team) : (modTeam s k f).waiting = s.waiting := rfl
@[simp] theorem modTeam_sent (k : Nat) (f : Team → Team) : (modTeam s k f).sent = s.sent := rfl
@[simp] theorem modTeam_outbox (k : Nat) (f : Team → Team) : (modTeam s k f).outbox = s.outbox := rfl
@[simp] theorem modTeam_hubIn (k : Nat) (f : Team → Team) : (modTeam s k f).hubIn = s.hubIn := rfl
@[simp] theorem modTeam_routed (k : Nat) (f : Team → Team) : (modTeam s k f).routed = s.routed := rfl
@[simp] theorem modTeam_fxInc (k : Nat) (f : Team → Team) : (modTeam s k f).fxInc = s.fxInc := rfl
@[simp] theorem modTeam_topoBase (k : Nat) (f : Team → Team) : (modTeam s k f).topoBase = s.topoBase := rfl
@[simp] theorem modTeam_moves (k : Nat) (f : Team → Team) : (modTeam s k f).moves = s.moves := rfl
@[simp] theorem modTeam_t1 (k : Nat) (f : Team → Team) : (modTeam s k f).t1 = s.t1 := rfl
@[simp] theorem modTeam_package (k : Nat) (f : Team → Team) : (modTeam s k f).package = s.package := rfl
@[simp] theorem modTeam_pcieUp (k : Nat) (f : Team → Team) : (modTeam s k f).pcieUp = s.pcieUp := rfl
@[simp] theorem modTeam_d3hot (k : Nat) (f : Team → Team) : (modTeam s k f).d3hot = s.d3hot := rfl
@[simp] theorem modTeam_msixTab (k : Nat) (f : Team → Team) : (modTeam s k f).msixTab = s.msixTab := rfl
@[simp] theorem modTeam_msixPend (k : Nat) (f : Team → Team) : (modTeam s k f).msixPend = s.msixPend := rfl
@[simp] theorem modTeam_bar4Log (k : Nat) (f : Team → Team) : (modTeam s k f).bar4Log = s.bar4Log := rfl
@[simp] theorem modTeam_msix (k : Nat) (f : Team → Team) : (modTeam s k f).msix = s.msix := rfl
@[simp] theorem modTeam_agenda (k : Nat) (f : Team → Team) : (modTeam s k f).agenda = s.agenda := rfl
@[simp] theorem modTeam_timers (k : Nat) (f : Team → Team) : (modTeam s k f).timers = s.timers := rfl
@[simp] theorem modTeam_ctimers (k : Nat) (f : Team → Team) : (modTeam s k f).ctimers = s.ctimers := rfl
@[simp] theorem modTeam_cur (k : Nat) (f : Team → Team) : (modTeam s k f).cur = s.cur := rfl
@[simp] theorem modTeam_nextId (k : Nat) (f : Team → Team) : (modTeam s k f).nextId = s.nextId := rfl
@[simp] theorem modTeam_fresh (k : Nat) (f : Team → Team) : (modTeam s k f).fresh = s.fresh := rfl

/-! ## modCore -/

@[simp] theorem modCore_now (k : Nat) (f : Core → Core) : (modCore s k f).now = s.now := rfl
@[simp] theorem modCore_mem (k : Nat) (f : Core → Core) : (modCore s k f).mem = s.mem := rfl
@[simp] theorem modCore_hostMem (k : Nat) (f : Core → Core) : (modCore s k f).hostMem = s.hostMem := rfl
@[simp] theorem modCore_poison (k : Nat) (f : Core → Core) : (modCore s k f).poison = s.poison := rfl
@[simp] theorem modCore_codeFrames (k : Nat) (f : Core → Core) : (modCore s k f).codeFrames = s.codeFrames := rfl
@[simp] theorem modCore_codePast (k : Nat) (f : Core → Core) : (modCore s k f).codePast = s.codePast := rfl
@[simp] theorem modCore_threads (k : Nat) (f : Core → Core) : (modCore s k f).threads = s.threads := rfl
@[simp] theorem modCore_groups (k : Nat) (f : Core → Core) : (modCore s k f).groups = s.groups := rfl
@[simp] theorem modCore_teams (k : Nat) (f : Core → Core) : (modCore s k f).teams = s.teams := rfl
@[simp] theorem modCore_quads (k : Nat) (f : Core → Core) : (modCore s k f).quads = s.quads := rfl
@[simp] theorem modCore_towers (k : Nat) (f : Core → Core) : (modCore s k f).towers = s.towers := rfl
@[simp] theorem modCore_slices (k : Nat) (f : Core → Core) : (modCore s k f).slices = s.slices := rfl
@[simp] theorem modCore_remap (k : Nat) (f : Core → Core) : (modCore s k f).remap = s.remap := rfl
@[simp] theorem modCore_spans (k : Nat) (f : Core → Core) : (modCore s k f).spans = s.spans := rfl
@[simp] theorem modCore_watchers (k : Nat) (f : Core → Core) : (modCore s k f).watchers = s.watchers := rfl
@[simp] theorem modCore_cache (k : Nat) (f : Core → Core) : (modCore s k f).cache = s.cache := rfl
@[simp] theorem modCore_ctxs (k : Nat) (f : Core → Core) : (modCore s k f).ctxs = s.ctxs := rfl
@[simp] theorem modCore_nodes (k : Nat) (f : Core → Core) : (modCore s k f).nodes = s.nodes := rfl
@[simp] theorem modCore_stamp (k : Nat) (f : Core → Core) : (modCore s k f).stamp = s.stamp := rfl
@[simp] theorem modCore_queues (k : Nat) (f : Core → Core) : (modCore s k f).queues = s.queues := rfl
@[simp] theorem modCore_items (k : Nat) (f : Core → Core) : (modCore s k f).items = s.items := rfl
@[simp] theorem modCore_reqs (k : Nat) (f : Core → Core) : (modCore s k f).reqs = s.reqs := rfl
@[simp] theorem modCore_farReads (k : Nat) (f : Core → Core) : (modCore s k f).farReads = s.farReads := rfl
@[simp] theorem modCore_asyncs (k : Nat) (f : Core → Core) : (modCore s k f).asyncs = s.asyncs := rfl
@[simp] theorem modCore_acqs (k : Nat) (f : Core → Core) : (modCore s k f).acqs = s.acqs := rfl
@[simp] theorem modCore_joins (k : Nat) (f : Core → Core) : (modCore s k f).joins = s.joins := rfl
@[simp] theorem modCore_copies (k : Nat) (f : Core → Core) : (modCore s k f).copies = s.copies := rfl
@[simp] theorem modCore_colls (k : Nat) (f : Core → Core) : (modCore s k f).colls = s.colls := rfl
@[simp] theorem modCore_damper (k : Nat) (f : Core → Core) : (modCore s k f).damper = s.damper := rfl
@[simp] theorem modCore_kiln (k : Nat) (f : Core → Core) : (modCore s k f).kiln = s.kiln := rfl
@[simp] theorem modCore_links (k : Nat) (f : Core → Core) : (modCore s k f).links = s.links := rfl
@[simp] theorem modCore_steer (k : Nat) (f : Core → Core) : (modCore s k f).steer = s.steer := rfl
@[simp] theorem modCore_edgeErr (k : Nat) (f : Core → Core) : (modCore s k f).edgeErr = s.edgeErr := rfl
@[simp] theorem modCore_agents (k : Nat) (f : Core → Core) : (modCore s k f).agents = s.agents := rfl
@[simp] theorem modCore_fx (k : Nat) (f : Core → Core) : (modCore s k f).fx = s.fx := rfl
@[simp] theorem modCore_fxslots (k : Nat) (f : Core → Core) : (modCore s k f).fxslots = s.fxslots := rfl
@[simp] theorem modCore_fxself (k : Nat) (f : Core → Core) : (modCore s k f).fxself = s.fxself := rfl
@[simp] theorem modCore_fxSet (k : Nat) (f : Core → Core) : (modCore s k f).fxSet = s.fxSet := rfl
@[simp] theorem modCore_fxsteer (k : Nat) (f : Core → Core) : (modCore s k f).fxsteer = s.fxsteer := rfl
@[simp] theorem modCore_recalls (k : Nat) (f : Core → Core) : (modCore s k f).recalls = s.recalls := rfl
@[simp] theorem modCore_msgData (k : Nat) (f : Core → Core) : (modCore s k f).msgData = s.msgData := rfl
@[simp] theorem modCore_waiting (k : Nat) (f : Core → Core) : (modCore s k f).waiting = s.waiting := rfl
@[simp] theorem modCore_sent (k : Nat) (f : Core → Core) : (modCore s k f).sent = s.sent := rfl
@[simp] theorem modCore_outbox (k : Nat) (f : Core → Core) : (modCore s k f).outbox = s.outbox := rfl
@[simp] theorem modCore_hubIn (k : Nat) (f : Core → Core) : (modCore s k f).hubIn = s.hubIn := rfl
@[simp] theorem modCore_routed (k : Nat) (f : Core → Core) : (modCore s k f).routed = s.routed := rfl
@[simp] theorem modCore_fxInc (k : Nat) (f : Core → Core) : (modCore s k f).fxInc = s.fxInc := rfl
@[simp] theorem modCore_topoBase (k : Nat) (f : Core → Core) : (modCore s k f).topoBase = s.topoBase := rfl
@[simp] theorem modCore_moves (k : Nat) (f : Core → Core) : (modCore s k f).moves = s.moves := rfl
@[simp] theorem modCore_t1 (k : Nat) (f : Core → Core) : (modCore s k f).t1 = s.t1 := rfl
@[simp] theorem modCore_package (k : Nat) (f : Core → Core) : (modCore s k f).package = s.package := rfl
@[simp] theorem modCore_pcieUp (k : Nat) (f : Core → Core) : (modCore s k f).pcieUp = s.pcieUp := rfl
@[simp] theorem modCore_d3hot (k : Nat) (f : Core → Core) : (modCore s k f).d3hot = s.d3hot := rfl
@[simp] theorem modCore_msixTab (k : Nat) (f : Core → Core) : (modCore s k f).msixTab = s.msixTab := rfl
@[simp] theorem modCore_msixPend (k : Nat) (f : Core → Core) : (modCore s k f).msixPend = s.msixPend := rfl
@[simp] theorem modCore_bar4Log (k : Nat) (f : Core → Core) : (modCore s k f).bar4Log = s.bar4Log := rfl
@[simp] theorem modCore_msix (k : Nat) (f : Core → Core) : (modCore s k f).msix = s.msix := rfl
@[simp] theorem modCore_agenda (k : Nat) (f : Core → Core) : (modCore s k f).agenda = s.agenda := rfl
@[simp] theorem modCore_timers (k : Nat) (f : Core → Core) : (modCore s k f).timers = s.timers := rfl
@[simp] theorem modCore_ctimers (k : Nat) (f : Core → Core) : (modCore s k f).ctimers = s.ctimers := rfl
@[simp] theorem modCore_cur (k : Nat) (f : Core → Core) : (modCore s k f).cur = s.cur := rfl
@[simp] theorem modCore_nextId (k : Nat) (f : Core → Core) : (modCore s k f).nextId = s.nextId := rfl
@[simp] theorem modCore_fresh (k : Nat) (f : Core → Core) : (modCore s k f).fresh = s.fresh := rfl

/-! ## modQuad -/

@[simp] theorem modQuad_now (k : Nat) (f : Quad → Quad) : (modQuad s k f).now = s.now := rfl
@[simp] theorem modQuad_mem (k : Nat) (f : Quad → Quad) : (modQuad s k f).mem = s.mem := rfl
@[simp] theorem modQuad_hostMem (k : Nat) (f : Quad → Quad) : (modQuad s k f).hostMem = s.hostMem := rfl
@[simp] theorem modQuad_poison (k : Nat) (f : Quad → Quad) : (modQuad s k f).poison = s.poison := rfl
@[simp] theorem modQuad_codeFrames (k : Nat) (f : Quad → Quad) : (modQuad s k f).codeFrames = s.codeFrames := rfl
@[simp] theorem modQuad_codePast (k : Nat) (f : Quad → Quad) : (modQuad s k f).codePast = s.codePast := rfl
@[simp] theorem modQuad_threads (k : Nat) (f : Quad → Quad) : (modQuad s k f).threads = s.threads := rfl
@[simp] theorem modQuad_groups (k : Nat) (f : Quad → Quad) : (modQuad s k f).groups = s.groups := rfl
@[simp] theorem modQuad_teams (k : Nat) (f : Quad → Quad) : (modQuad s k f).teams = s.teams := rfl
@[simp] theorem modQuad_cores (k : Nat) (f : Quad → Quad) : (modQuad s k f).cores = s.cores := rfl
@[simp] theorem modQuad_towers (k : Nat) (f : Quad → Quad) : (modQuad s k f).towers = s.towers := rfl
@[simp] theorem modQuad_slices (k : Nat) (f : Quad → Quad) : (modQuad s k f).slices = s.slices := rfl
@[simp] theorem modQuad_remap (k : Nat) (f : Quad → Quad) : (modQuad s k f).remap = s.remap := rfl
@[simp] theorem modQuad_spans (k : Nat) (f : Quad → Quad) : (modQuad s k f).spans = s.spans := rfl
@[simp] theorem modQuad_watchers (k : Nat) (f : Quad → Quad) : (modQuad s k f).watchers = s.watchers := rfl
@[simp] theorem modQuad_cache (k : Nat) (f : Quad → Quad) : (modQuad s k f).cache = s.cache := rfl
@[simp] theorem modQuad_ctxs (k : Nat) (f : Quad → Quad) : (modQuad s k f).ctxs = s.ctxs := rfl
@[simp] theorem modQuad_nodes (k : Nat) (f : Quad → Quad) : (modQuad s k f).nodes = s.nodes := rfl
@[simp] theorem modQuad_stamp (k : Nat) (f : Quad → Quad) : (modQuad s k f).stamp = s.stamp := rfl
@[simp] theorem modQuad_queues (k : Nat) (f : Quad → Quad) : (modQuad s k f).queues = s.queues := rfl
@[simp] theorem modQuad_items (k : Nat) (f : Quad → Quad) : (modQuad s k f).items = s.items := rfl
@[simp] theorem modQuad_reqs (k : Nat) (f : Quad → Quad) : (modQuad s k f).reqs = s.reqs := rfl
@[simp] theorem modQuad_farReads (k : Nat) (f : Quad → Quad) : (modQuad s k f).farReads = s.farReads := rfl
@[simp] theorem modQuad_asyncs (k : Nat) (f : Quad → Quad) : (modQuad s k f).asyncs = s.asyncs := rfl
@[simp] theorem modQuad_acqs (k : Nat) (f : Quad → Quad) : (modQuad s k f).acqs = s.acqs := rfl
@[simp] theorem modQuad_joins (k : Nat) (f : Quad → Quad) : (modQuad s k f).joins = s.joins := rfl
@[simp] theorem modQuad_copies (k : Nat) (f : Quad → Quad) : (modQuad s k f).copies = s.copies := rfl
@[simp] theorem modQuad_colls (k : Nat) (f : Quad → Quad) : (modQuad s k f).colls = s.colls := rfl
@[simp] theorem modQuad_damper (k : Nat) (f : Quad → Quad) : (modQuad s k f).damper = s.damper := rfl
@[simp] theorem modQuad_kiln (k : Nat) (f : Quad → Quad) : (modQuad s k f).kiln = s.kiln := rfl
@[simp] theorem modQuad_links (k : Nat) (f : Quad → Quad) : (modQuad s k f).links = s.links := rfl
@[simp] theorem modQuad_steer (k : Nat) (f : Quad → Quad) : (modQuad s k f).steer = s.steer := rfl
@[simp] theorem modQuad_edgeErr (k : Nat) (f : Quad → Quad) : (modQuad s k f).edgeErr = s.edgeErr := rfl
@[simp] theorem modQuad_agents (k : Nat) (f : Quad → Quad) : (modQuad s k f).agents = s.agents := rfl
@[simp] theorem modQuad_fx (k : Nat) (f : Quad → Quad) : (modQuad s k f).fx = s.fx := rfl
@[simp] theorem modQuad_fxslots (k : Nat) (f : Quad → Quad) : (modQuad s k f).fxslots = s.fxslots := rfl
@[simp] theorem modQuad_fxself (k : Nat) (f : Quad → Quad) : (modQuad s k f).fxself = s.fxself := rfl
@[simp] theorem modQuad_fxSet (k : Nat) (f : Quad → Quad) : (modQuad s k f).fxSet = s.fxSet := rfl
@[simp] theorem modQuad_fxsteer (k : Nat) (f : Quad → Quad) : (modQuad s k f).fxsteer = s.fxsteer := rfl
@[simp] theorem modQuad_recalls (k : Nat) (f : Quad → Quad) : (modQuad s k f).recalls = s.recalls := rfl
@[simp] theorem modQuad_msgData (k : Nat) (f : Quad → Quad) : (modQuad s k f).msgData = s.msgData := rfl
@[simp] theorem modQuad_waiting (k : Nat) (f : Quad → Quad) : (modQuad s k f).waiting = s.waiting := rfl
@[simp] theorem modQuad_sent (k : Nat) (f : Quad → Quad) : (modQuad s k f).sent = s.sent := rfl
@[simp] theorem modQuad_outbox (k : Nat) (f : Quad → Quad) : (modQuad s k f).outbox = s.outbox := rfl
@[simp] theorem modQuad_hubIn (k : Nat) (f : Quad → Quad) : (modQuad s k f).hubIn = s.hubIn := rfl
@[simp] theorem modQuad_routed (k : Nat) (f : Quad → Quad) : (modQuad s k f).routed = s.routed := rfl
@[simp] theorem modQuad_fxInc (k : Nat) (f : Quad → Quad) : (modQuad s k f).fxInc = s.fxInc := rfl
@[simp] theorem modQuad_topoBase (k : Nat) (f : Quad → Quad) : (modQuad s k f).topoBase = s.topoBase := rfl
@[simp] theorem modQuad_moves (k : Nat) (f : Quad → Quad) : (modQuad s k f).moves = s.moves := rfl
@[simp] theorem modQuad_t1 (k : Nat) (f : Quad → Quad) : (modQuad s k f).t1 = s.t1 := rfl
@[simp] theorem modQuad_package (k : Nat) (f : Quad → Quad) : (modQuad s k f).package = s.package := rfl
@[simp] theorem modQuad_pcieUp (k : Nat) (f : Quad → Quad) : (modQuad s k f).pcieUp = s.pcieUp := rfl
@[simp] theorem modQuad_d3hot (k : Nat) (f : Quad → Quad) : (modQuad s k f).d3hot = s.d3hot := rfl
@[simp] theorem modQuad_msixTab (k : Nat) (f : Quad → Quad) : (modQuad s k f).msixTab = s.msixTab := rfl
@[simp] theorem modQuad_msixPend (k : Nat) (f : Quad → Quad) : (modQuad s k f).msixPend = s.msixPend := rfl
@[simp] theorem modQuad_bar4Log (k : Nat) (f : Quad → Quad) : (modQuad s k f).bar4Log = s.bar4Log := rfl
@[simp] theorem modQuad_msix (k : Nat) (f : Quad → Quad) : (modQuad s k f).msix = s.msix := rfl
@[simp] theorem modQuad_agenda (k : Nat) (f : Quad → Quad) : (modQuad s k f).agenda = s.agenda := rfl
@[simp] theorem modQuad_timers (k : Nat) (f : Quad → Quad) : (modQuad s k f).timers = s.timers := rfl
@[simp] theorem modQuad_ctimers (k : Nat) (f : Quad → Quad) : (modQuad s k f).ctimers = s.ctimers := rfl
@[simp] theorem modQuad_cur (k : Nat) (f : Quad → Quad) : (modQuad s k f).cur = s.cur := rfl
@[simp] theorem modQuad_nextId (k : Nat) (f : Quad → Quad) : (modQuad s k f).nextId = s.nextId := rfl
@[simp] theorem modQuad_fresh (k : Nat) (f : Quad → Quad) : (modQuad s k f).fresh = s.fresh := rfl

/-! ## modTower -/

@[simp] theorem modTower_now (k : Nat) (f : Tower → Tower) : (modTower s k f).now = s.now := rfl
@[simp] theorem modTower_mem (k : Nat) (f : Tower → Tower) : (modTower s k f).mem = s.mem := rfl
@[simp] theorem modTower_hostMem (k : Nat) (f : Tower → Tower) : (modTower s k f).hostMem = s.hostMem := rfl
@[simp] theorem modTower_poison (k : Nat) (f : Tower → Tower) : (modTower s k f).poison = s.poison := rfl
@[simp] theorem modTower_codeFrames (k : Nat) (f : Tower → Tower) : (modTower s k f).codeFrames = s.codeFrames := rfl
@[simp] theorem modTower_codePast (k : Nat) (f : Tower → Tower) : (modTower s k f).codePast = s.codePast := rfl
@[simp] theorem modTower_threads (k : Nat) (f : Tower → Tower) : (modTower s k f).threads = s.threads := rfl
@[simp] theorem modTower_groups (k : Nat) (f : Tower → Tower) : (modTower s k f).groups = s.groups := rfl
@[simp] theorem modTower_teams (k : Nat) (f : Tower → Tower) : (modTower s k f).teams = s.teams := rfl
@[simp] theorem modTower_cores (k : Nat) (f : Tower → Tower) : (modTower s k f).cores = s.cores := rfl
@[simp] theorem modTower_quads (k : Nat) (f : Tower → Tower) : (modTower s k f).quads = s.quads := rfl
@[simp] theorem modTower_slices (k : Nat) (f : Tower → Tower) : (modTower s k f).slices = s.slices := rfl
@[simp] theorem modTower_remap (k : Nat) (f : Tower → Tower) : (modTower s k f).remap = s.remap := rfl
@[simp] theorem modTower_spans (k : Nat) (f : Tower → Tower) : (modTower s k f).spans = s.spans := rfl
@[simp] theorem modTower_watchers (k : Nat) (f : Tower → Tower) : (modTower s k f).watchers = s.watchers := rfl
@[simp] theorem modTower_cache (k : Nat) (f : Tower → Tower) : (modTower s k f).cache = s.cache := rfl
@[simp] theorem modTower_ctxs (k : Nat) (f : Tower → Tower) : (modTower s k f).ctxs = s.ctxs := rfl
@[simp] theorem modTower_nodes (k : Nat) (f : Tower → Tower) : (modTower s k f).nodes = s.nodes := rfl
@[simp] theorem modTower_stamp (k : Nat) (f : Tower → Tower) : (modTower s k f).stamp = s.stamp := rfl
@[simp] theorem modTower_queues (k : Nat) (f : Tower → Tower) : (modTower s k f).queues = s.queues := rfl
@[simp] theorem modTower_items (k : Nat) (f : Tower → Tower) : (modTower s k f).items = s.items := rfl
@[simp] theorem modTower_reqs (k : Nat) (f : Tower → Tower) : (modTower s k f).reqs = s.reqs := rfl
@[simp] theorem modTower_farReads (k : Nat) (f : Tower → Tower) : (modTower s k f).farReads = s.farReads := rfl
@[simp] theorem modTower_asyncs (k : Nat) (f : Tower → Tower) : (modTower s k f).asyncs = s.asyncs := rfl
@[simp] theorem modTower_acqs (k : Nat) (f : Tower → Tower) : (modTower s k f).acqs = s.acqs := rfl
@[simp] theorem modTower_joins (k : Nat) (f : Tower → Tower) : (modTower s k f).joins = s.joins := rfl
@[simp] theorem modTower_copies (k : Nat) (f : Tower → Tower) : (modTower s k f).copies = s.copies := rfl
@[simp] theorem modTower_colls (k : Nat) (f : Tower → Tower) : (modTower s k f).colls = s.colls := rfl
@[simp] theorem modTower_damper (k : Nat) (f : Tower → Tower) : (modTower s k f).damper = s.damper := rfl
@[simp] theorem modTower_kiln (k : Nat) (f : Tower → Tower) : (modTower s k f).kiln = s.kiln := rfl
@[simp] theorem modTower_links (k : Nat) (f : Tower → Tower) : (modTower s k f).links = s.links := rfl
@[simp] theorem modTower_steer (k : Nat) (f : Tower → Tower) : (modTower s k f).steer = s.steer := rfl
@[simp] theorem modTower_edgeErr (k : Nat) (f : Tower → Tower) : (modTower s k f).edgeErr = s.edgeErr := rfl
@[simp] theorem modTower_agents (k : Nat) (f : Tower → Tower) : (modTower s k f).agents = s.agents := rfl
@[simp] theorem modTower_fx (k : Nat) (f : Tower → Tower) : (modTower s k f).fx = s.fx := rfl
@[simp] theorem modTower_fxslots (k : Nat) (f : Tower → Tower) : (modTower s k f).fxslots = s.fxslots := rfl
@[simp] theorem modTower_fxself (k : Nat) (f : Tower → Tower) : (modTower s k f).fxself = s.fxself := rfl
@[simp] theorem modTower_fxSet (k : Nat) (f : Tower → Tower) : (modTower s k f).fxSet = s.fxSet := rfl
@[simp] theorem modTower_fxsteer (k : Nat) (f : Tower → Tower) : (modTower s k f).fxsteer = s.fxsteer := rfl
@[simp] theorem modTower_recalls (k : Nat) (f : Tower → Tower) : (modTower s k f).recalls = s.recalls := rfl
@[simp] theorem modTower_msgData (k : Nat) (f : Tower → Tower) : (modTower s k f).msgData = s.msgData := rfl
@[simp] theorem modTower_waiting (k : Nat) (f : Tower → Tower) : (modTower s k f).waiting = s.waiting := rfl
@[simp] theorem modTower_sent (k : Nat) (f : Tower → Tower) : (modTower s k f).sent = s.sent := rfl
@[simp] theorem modTower_outbox (k : Nat) (f : Tower → Tower) : (modTower s k f).outbox = s.outbox := rfl
@[simp] theorem modTower_hubIn (k : Nat) (f : Tower → Tower) : (modTower s k f).hubIn = s.hubIn := rfl
@[simp] theorem modTower_routed (k : Nat) (f : Tower → Tower) : (modTower s k f).routed = s.routed := rfl
@[simp] theorem modTower_fxInc (k : Nat) (f : Tower → Tower) : (modTower s k f).fxInc = s.fxInc := rfl
@[simp] theorem modTower_topoBase (k : Nat) (f : Tower → Tower) : (modTower s k f).topoBase = s.topoBase := rfl
@[simp] theorem modTower_moves (k : Nat) (f : Tower → Tower) : (modTower s k f).moves = s.moves := rfl
@[simp] theorem modTower_t1 (k : Nat) (f : Tower → Tower) : (modTower s k f).t1 = s.t1 := rfl
@[simp] theorem modTower_package (k : Nat) (f : Tower → Tower) : (modTower s k f).package = s.package := rfl
@[simp] theorem modTower_pcieUp (k : Nat) (f : Tower → Tower) : (modTower s k f).pcieUp = s.pcieUp := rfl
@[simp] theorem modTower_d3hot (k : Nat) (f : Tower → Tower) : (modTower s k f).d3hot = s.d3hot := rfl
@[simp] theorem modTower_msixTab (k : Nat) (f : Tower → Tower) : (modTower s k f).msixTab = s.msixTab := rfl
@[simp] theorem modTower_msixPend (k : Nat) (f : Tower → Tower) : (modTower s k f).msixPend = s.msixPend := rfl
@[simp] theorem modTower_bar4Log (k : Nat) (f : Tower → Tower) : (modTower s k f).bar4Log = s.bar4Log := rfl
@[simp] theorem modTower_msix (k : Nat) (f : Tower → Tower) : (modTower s k f).msix = s.msix := rfl
@[simp] theorem modTower_agenda (k : Nat) (f : Tower → Tower) : (modTower s k f).agenda = s.agenda := rfl
@[simp] theorem modTower_timers (k : Nat) (f : Tower → Tower) : (modTower s k f).timers = s.timers := rfl
@[simp] theorem modTower_ctimers (k : Nat) (f : Tower → Tower) : (modTower s k f).ctimers = s.ctimers := rfl
@[simp] theorem modTower_cur (k : Nat) (f : Tower → Tower) : (modTower s k f).cur = s.cur := rfl
@[simp] theorem modTower_nextId (k : Nat) (f : Tower → Tower) : (modTower s k f).nextId = s.nextId := rfl
@[simp] theorem modTower_fresh (k : Nat) (f : Tower → Tower) : (modTower s k f).fresh = s.fresh := rfl

/-! ## modCtx -/

@[simp] theorem modCtx_now (k : Nat) (f : Ctx → Ctx) : (modCtx s k f).now = s.now := rfl
@[simp] theorem modCtx_mem (k : Nat) (f : Ctx → Ctx) : (modCtx s k f).mem = s.mem := rfl
@[simp] theorem modCtx_hostMem (k : Nat) (f : Ctx → Ctx) : (modCtx s k f).hostMem = s.hostMem := rfl
@[simp] theorem modCtx_poison (k : Nat) (f : Ctx → Ctx) : (modCtx s k f).poison = s.poison := rfl
@[simp] theorem modCtx_codeFrames (k : Nat) (f : Ctx → Ctx) : (modCtx s k f).codeFrames = s.codeFrames := rfl
@[simp] theorem modCtx_codePast (k : Nat) (f : Ctx → Ctx) : (modCtx s k f).codePast = s.codePast := rfl
@[simp] theorem modCtx_threads (k : Nat) (f : Ctx → Ctx) : (modCtx s k f).threads = s.threads := rfl
@[simp] theorem modCtx_groups (k : Nat) (f : Ctx → Ctx) : (modCtx s k f).groups = s.groups := rfl
@[simp] theorem modCtx_teams (k : Nat) (f : Ctx → Ctx) : (modCtx s k f).teams = s.teams := rfl
@[simp] theorem modCtx_cores (k : Nat) (f : Ctx → Ctx) : (modCtx s k f).cores = s.cores := rfl
@[simp] theorem modCtx_quads (k : Nat) (f : Ctx → Ctx) : (modCtx s k f).quads = s.quads := rfl
@[simp] theorem modCtx_towers (k : Nat) (f : Ctx → Ctx) : (modCtx s k f).towers = s.towers := rfl
@[simp] theorem modCtx_slices (k : Nat) (f : Ctx → Ctx) : (modCtx s k f).slices = s.slices := rfl
@[simp] theorem modCtx_remap (k : Nat) (f : Ctx → Ctx) : (modCtx s k f).remap = s.remap := rfl
@[simp] theorem modCtx_spans (k : Nat) (f : Ctx → Ctx) : (modCtx s k f).spans = s.spans := rfl
@[simp] theorem modCtx_watchers (k : Nat) (f : Ctx → Ctx) : (modCtx s k f).watchers = s.watchers := rfl
@[simp] theorem modCtx_cache (k : Nat) (f : Ctx → Ctx) : (modCtx s k f).cache = s.cache := rfl
@[simp] theorem modCtx_nodes (k : Nat) (f : Ctx → Ctx) : (modCtx s k f).nodes = s.nodes := rfl
@[simp] theorem modCtx_stamp (k : Nat) (f : Ctx → Ctx) : (modCtx s k f).stamp = s.stamp := rfl
@[simp] theorem modCtx_queues (k : Nat) (f : Ctx → Ctx) : (modCtx s k f).queues = s.queues := rfl
@[simp] theorem modCtx_items (k : Nat) (f : Ctx → Ctx) : (modCtx s k f).items = s.items := rfl
@[simp] theorem modCtx_reqs (k : Nat) (f : Ctx → Ctx) : (modCtx s k f).reqs = s.reqs := rfl
@[simp] theorem modCtx_farReads (k : Nat) (f : Ctx → Ctx) : (modCtx s k f).farReads = s.farReads := rfl
@[simp] theorem modCtx_asyncs (k : Nat) (f : Ctx → Ctx) : (modCtx s k f).asyncs = s.asyncs := rfl
@[simp] theorem modCtx_acqs (k : Nat) (f : Ctx → Ctx) : (modCtx s k f).acqs = s.acqs := rfl
@[simp] theorem modCtx_joins (k : Nat) (f : Ctx → Ctx) : (modCtx s k f).joins = s.joins := rfl
@[simp] theorem modCtx_copies (k : Nat) (f : Ctx → Ctx) : (modCtx s k f).copies = s.copies := rfl
@[simp] theorem modCtx_colls (k : Nat) (f : Ctx → Ctx) : (modCtx s k f).colls = s.colls := rfl
@[simp] theorem modCtx_damper (k : Nat) (f : Ctx → Ctx) : (modCtx s k f).damper = s.damper := rfl
@[simp] theorem modCtx_kiln (k : Nat) (f : Ctx → Ctx) : (modCtx s k f).kiln = s.kiln := rfl
@[simp] theorem modCtx_links (k : Nat) (f : Ctx → Ctx) : (modCtx s k f).links = s.links := rfl
@[simp] theorem modCtx_steer (k : Nat) (f : Ctx → Ctx) : (modCtx s k f).steer = s.steer := rfl
@[simp] theorem modCtx_edgeErr (k : Nat) (f : Ctx → Ctx) : (modCtx s k f).edgeErr = s.edgeErr := rfl
@[simp] theorem modCtx_agents (k : Nat) (f : Ctx → Ctx) : (modCtx s k f).agents = s.agents := rfl
@[simp] theorem modCtx_fx (k : Nat) (f : Ctx → Ctx) : (modCtx s k f).fx = s.fx := rfl
@[simp] theorem modCtx_fxslots (k : Nat) (f : Ctx → Ctx) : (modCtx s k f).fxslots = s.fxslots := rfl
@[simp] theorem modCtx_fxself (k : Nat) (f : Ctx → Ctx) : (modCtx s k f).fxself = s.fxself := rfl
@[simp] theorem modCtx_fxSet (k : Nat) (f : Ctx → Ctx) : (modCtx s k f).fxSet = s.fxSet := rfl
@[simp] theorem modCtx_fxsteer (k : Nat) (f : Ctx → Ctx) : (modCtx s k f).fxsteer = s.fxsteer := rfl
@[simp] theorem modCtx_recalls (k : Nat) (f : Ctx → Ctx) : (modCtx s k f).recalls = s.recalls := rfl
@[simp] theorem modCtx_msgData (k : Nat) (f : Ctx → Ctx) : (modCtx s k f).msgData = s.msgData := rfl
@[simp] theorem modCtx_waiting (k : Nat) (f : Ctx → Ctx) : (modCtx s k f).waiting = s.waiting := rfl
@[simp] theorem modCtx_sent (k : Nat) (f : Ctx → Ctx) : (modCtx s k f).sent = s.sent := rfl
@[simp] theorem modCtx_outbox (k : Nat) (f : Ctx → Ctx) : (modCtx s k f).outbox = s.outbox := rfl
@[simp] theorem modCtx_hubIn (k : Nat) (f : Ctx → Ctx) : (modCtx s k f).hubIn = s.hubIn := rfl
@[simp] theorem modCtx_routed (k : Nat) (f : Ctx → Ctx) : (modCtx s k f).routed = s.routed := rfl
@[simp] theorem modCtx_fxInc (k : Nat) (f : Ctx → Ctx) : (modCtx s k f).fxInc = s.fxInc := rfl
@[simp] theorem modCtx_topoBase (k : Nat) (f : Ctx → Ctx) : (modCtx s k f).topoBase = s.topoBase := rfl
@[simp] theorem modCtx_moves (k : Nat) (f : Ctx → Ctx) : (modCtx s k f).moves = s.moves := rfl
@[simp] theorem modCtx_t1 (k : Nat) (f : Ctx → Ctx) : (modCtx s k f).t1 = s.t1 := rfl
@[simp] theorem modCtx_package (k : Nat) (f : Ctx → Ctx) : (modCtx s k f).package = s.package := rfl
@[simp] theorem modCtx_pcieUp (k : Nat) (f : Ctx → Ctx) : (modCtx s k f).pcieUp = s.pcieUp := rfl
@[simp] theorem modCtx_d3hot (k : Nat) (f : Ctx → Ctx) : (modCtx s k f).d3hot = s.d3hot := rfl
@[simp] theorem modCtx_msixTab (k : Nat) (f : Ctx → Ctx) : (modCtx s k f).msixTab = s.msixTab := rfl
@[simp] theorem modCtx_msixPend (k : Nat) (f : Ctx → Ctx) : (modCtx s k f).msixPend = s.msixPend := rfl
@[simp] theorem modCtx_bar4Log (k : Nat) (f : Ctx → Ctx) : (modCtx s k f).bar4Log = s.bar4Log := rfl
@[simp] theorem modCtx_msix (k : Nat) (f : Ctx → Ctx) : (modCtx s k f).msix = s.msix := rfl
@[simp] theorem modCtx_agenda (k : Nat) (f : Ctx → Ctx) : (modCtx s k f).agenda = s.agenda := rfl
@[simp] theorem modCtx_timers (k : Nat) (f : Ctx → Ctx) : (modCtx s k f).timers = s.timers := rfl
@[simp] theorem modCtx_ctimers (k : Nat) (f : Ctx → Ctx) : (modCtx s k f).ctimers = s.ctimers := rfl
@[simp] theorem modCtx_cur (k : Nat) (f : Ctx → Ctx) : (modCtx s k f).cur = s.cur := rfl
@[simp] theorem modCtx_nextId (k : Nat) (f : Ctx → Ctx) : (modCtx s k f).nextId = s.nextId := rfl
@[simp] theorem modCtx_fresh (k : Nat) (f : Ctx → Ctx) : (modCtx s k f).fresh = s.fresh := rfl

/-! ## modQueue -/

@[simp] theorem modQueue_now (k : Nat) (f : Queue → Queue) : (modQueue s k f).now = s.now := rfl
@[simp] theorem modQueue_mem (k : Nat) (f : Queue → Queue) : (modQueue s k f).mem = s.mem := rfl
@[simp] theorem modQueue_hostMem (k : Nat) (f : Queue → Queue) : (modQueue s k f).hostMem = s.hostMem := rfl
@[simp] theorem modQueue_poison (k : Nat) (f : Queue → Queue) : (modQueue s k f).poison = s.poison := rfl
@[simp] theorem modQueue_codeFrames (k : Nat) (f : Queue → Queue) : (modQueue s k f).codeFrames = s.codeFrames := rfl
@[simp] theorem modQueue_codePast (k : Nat) (f : Queue → Queue) : (modQueue s k f).codePast = s.codePast := rfl
@[simp] theorem modQueue_threads (k : Nat) (f : Queue → Queue) : (modQueue s k f).threads = s.threads := rfl
@[simp] theorem modQueue_groups (k : Nat) (f : Queue → Queue) : (modQueue s k f).groups = s.groups := rfl
@[simp] theorem modQueue_teams (k : Nat) (f : Queue → Queue) : (modQueue s k f).teams = s.teams := rfl
@[simp] theorem modQueue_cores (k : Nat) (f : Queue → Queue) : (modQueue s k f).cores = s.cores := rfl
@[simp] theorem modQueue_quads (k : Nat) (f : Queue → Queue) : (modQueue s k f).quads = s.quads := rfl
@[simp] theorem modQueue_towers (k : Nat) (f : Queue → Queue) : (modQueue s k f).towers = s.towers := rfl
@[simp] theorem modQueue_slices (k : Nat) (f : Queue → Queue) : (modQueue s k f).slices = s.slices := rfl
@[simp] theorem modQueue_remap (k : Nat) (f : Queue → Queue) : (modQueue s k f).remap = s.remap := rfl
@[simp] theorem modQueue_spans (k : Nat) (f : Queue → Queue) : (modQueue s k f).spans = s.spans := rfl
@[simp] theorem modQueue_watchers (k : Nat) (f : Queue → Queue) : (modQueue s k f).watchers = s.watchers := rfl
@[simp] theorem modQueue_cache (k : Nat) (f : Queue → Queue) : (modQueue s k f).cache = s.cache := rfl
@[simp] theorem modQueue_ctxs (k : Nat) (f : Queue → Queue) : (modQueue s k f).ctxs = s.ctxs := rfl
@[simp] theorem modQueue_nodes (k : Nat) (f : Queue → Queue) : (modQueue s k f).nodes = s.nodes := rfl
@[simp] theorem modQueue_stamp (k : Nat) (f : Queue → Queue) : (modQueue s k f).stamp = s.stamp := rfl
@[simp] theorem modQueue_items (k : Nat) (f : Queue → Queue) : (modQueue s k f).items = s.items := rfl
@[simp] theorem modQueue_reqs (k : Nat) (f : Queue → Queue) : (modQueue s k f).reqs = s.reqs := rfl
@[simp] theorem modQueue_farReads (k : Nat) (f : Queue → Queue) : (modQueue s k f).farReads = s.farReads := rfl
@[simp] theorem modQueue_asyncs (k : Nat) (f : Queue → Queue) : (modQueue s k f).asyncs = s.asyncs := rfl
@[simp] theorem modQueue_acqs (k : Nat) (f : Queue → Queue) : (modQueue s k f).acqs = s.acqs := rfl
@[simp] theorem modQueue_joins (k : Nat) (f : Queue → Queue) : (modQueue s k f).joins = s.joins := rfl
@[simp] theorem modQueue_copies (k : Nat) (f : Queue → Queue) : (modQueue s k f).copies = s.copies := rfl
@[simp] theorem modQueue_colls (k : Nat) (f : Queue → Queue) : (modQueue s k f).colls = s.colls := rfl
@[simp] theorem modQueue_damper (k : Nat) (f : Queue → Queue) : (modQueue s k f).damper = s.damper := rfl
@[simp] theorem modQueue_kiln (k : Nat) (f : Queue → Queue) : (modQueue s k f).kiln = s.kiln := rfl
@[simp] theorem modQueue_links (k : Nat) (f : Queue → Queue) : (modQueue s k f).links = s.links := rfl
@[simp] theorem modQueue_steer (k : Nat) (f : Queue → Queue) : (modQueue s k f).steer = s.steer := rfl
@[simp] theorem modQueue_edgeErr (k : Nat) (f : Queue → Queue) : (modQueue s k f).edgeErr = s.edgeErr := rfl
@[simp] theorem modQueue_agents (k : Nat) (f : Queue → Queue) : (modQueue s k f).agents = s.agents := rfl
@[simp] theorem modQueue_fx (k : Nat) (f : Queue → Queue) : (modQueue s k f).fx = s.fx := rfl
@[simp] theorem modQueue_fxslots (k : Nat) (f : Queue → Queue) : (modQueue s k f).fxslots = s.fxslots := rfl
@[simp] theorem modQueue_fxself (k : Nat) (f : Queue → Queue) : (modQueue s k f).fxself = s.fxself := rfl
@[simp] theorem modQueue_fxSet (k : Nat) (f : Queue → Queue) : (modQueue s k f).fxSet = s.fxSet := rfl
@[simp] theorem modQueue_fxsteer (k : Nat) (f : Queue → Queue) : (modQueue s k f).fxsteer = s.fxsteer := rfl
@[simp] theorem modQueue_recalls (k : Nat) (f : Queue → Queue) : (modQueue s k f).recalls = s.recalls := rfl
@[simp] theorem modQueue_msgData (k : Nat) (f : Queue → Queue) : (modQueue s k f).msgData = s.msgData := rfl
@[simp] theorem modQueue_waiting (k : Nat) (f : Queue → Queue) : (modQueue s k f).waiting = s.waiting := rfl
@[simp] theorem modQueue_sent (k : Nat) (f : Queue → Queue) : (modQueue s k f).sent = s.sent := rfl
@[simp] theorem modQueue_outbox (k : Nat) (f : Queue → Queue) : (modQueue s k f).outbox = s.outbox := rfl
@[simp] theorem modQueue_hubIn (k : Nat) (f : Queue → Queue) : (modQueue s k f).hubIn = s.hubIn := rfl
@[simp] theorem modQueue_routed (k : Nat) (f : Queue → Queue) : (modQueue s k f).routed = s.routed := rfl
@[simp] theorem modQueue_fxInc (k : Nat) (f : Queue → Queue) : (modQueue s k f).fxInc = s.fxInc := rfl
@[simp] theorem modQueue_topoBase (k : Nat) (f : Queue → Queue) : (modQueue s k f).topoBase = s.topoBase := rfl
@[simp] theorem modQueue_moves (k : Nat) (f : Queue → Queue) : (modQueue s k f).moves = s.moves := rfl
@[simp] theorem modQueue_t1 (k : Nat) (f : Queue → Queue) : (modQueue s k f).t1 = s.t1 := rfl
@[simp] theorem modQueue_package (k : Nat) (f : Queue → Queue) : (modQueue s k f).package = s.package := rfl
@[simp] theorem modQueue_pcieUp (k : Nat) (f : Queue → Queue) : (modQueue s k f).pcieUp = s.pcieUp := rfl
@[simp] theorem modQueue_d3hot (k : Nat) (f : Queue → Queue) : (modQueue s k f).d3hot = s.d3hot := rfl
@[simp] theorem modQueue_msixTab (k : Nat) (f : Queue → Queue) : (modQueue s k f).msixTab = s.msixTab := rfl
@[simp] theorem modQueue_msixPend (k : Nat) (f : Queue → Queue) : (modQueue s k f).msixPend = s.msixPend := rfl
@[simp] theorem modQueue_bar4Log (k : Nat) (f : Queue → Queue) : (modQueue s k f).bar4Log = s.bar4Log := rfl
@[simp] theorem modQueue_msix (k : Nat) (f : Queue → Queue) : (modQueue s k f).msix = s.msix := rfl
@[simp] theorem modQueue_agenda (k : Nat) (f : Queue → Queue) : (modQueue s k f).agenda = s.agenda := rfl
@[simp] theorem modQueue_timers (k : Nat) (f : Queue → Queue) : (modQueue s k f).timers = s.timers := rfl
@[simp] theorem modQueue_ctimers (k : Nat) (f : Queue → Queue) : (modQueue s k f).ctimers = s.ctimers := rfl
@[simp] theorem modQueue_cur (k : Nat) (f : Queue → Queue) : (modQueue s k f).cur = s.cur := rfl
@[simp] theorem modQueue_nextId (k : Nat) (f : Queue → Queue) : (modQueue s k f).nextId = s.nextId := rfl
@[simp] theorem modQueue_fresh (k : Nat) (f : Queue → Queue) : (modQueue s k f).fresh = s.fresh := rfl

/-! ## modLink -/

@[simp] theorem modLink_now (k : Nat) (f : LinkEnd → LinkEnd) : (modLink s k f).now = s.now := rfl
@[simp] theorem modLink_mem (k : Nat) (f : LinkEnd → LinkEnd) : (modLink s k f).mem = s.mem := rfl
@[simp] theorem modLink_hostMem (k : Nat) (f : LinkEnd → LinkEnd) : (modLink s k f).hostMem = s.hostMem := rfl
@[simp] theorem modLink_poison (k : Nat) (f : LinkEnd → LinkEnd) : (modLink s k f).poison = s.poison := rfl
@[simp] theorem modLink_codeFrames (k : Nat) (f : LinkEnd → LinkEnd) : (modLink s k f).codeFrames = s.codeFrames := rfl
@[simp] theorem modLink_codePast (k : Nat) (f : LinkEnd → LinkEnd) : (modLink s k f).codePast = s.codePast := rfl
@[simp] theorem modLink_threads (k : Nat) (f : LinkEnd → LinkEnd) : (modLink s k f).threads = s.threads := rfl
@[simp] theorem modLink_groups (k : Nat) (f : LinkEnd → LinkEnd) : (modLink s k f).groups = s.groups := rfl
@[simp] theorem modLink_teams (k : Nat) (f : LinkEnd → LinkEnd) : (modLink s k f).teams = s.teams := rfl
@[simp] theorem modLink_cores (k : Nat) (f : LinkEnd → LinkEnd) : (modLink s k f).cores = s.cores := rfl
@[simp] theorem modLink_quads (k : Nat) (f : LinkEnd → LinkEnd) : (modLink s k f).quads = s.quads := rfl
@[simp] theorem modLink_towers (k : Nat) (f : LinkEnd → LinkEnd) : (modLink s k f).towers = s.towers := rfl
@[simp] theorem modLink_slices (k : Nat) (f : LinkEnd → LinkEnd) : (modLink s k f).slices = s.slices := rfl
@[simp] theorem modLink_remap (k : Nat) (f : LinkEnd → LinkEnd) : (modLink s k f).remap = s.remap := rfl
@[simp] theorem modLink_spans (k : Nat) (f : LinkEnd → LinkEnd) : (modLink s k f).spans = s.spans := rfl
@[simp] theorem modLink_watchers (k : Nat) (f : LinkEnd → LinkEnd) : (modLink s k f).watchers = s.watchers := rfl
@[simp] theorem modLink_cache (k : Nat) (f : LinkEnd → LinkEnd) : (modLink s k f).cache = s.cache := rfl
@[simp] theorem modLink_ctxs (k : Nat) (f : LinkEnd → LinkEnd) : (modLink s k f).ctxs = s.ctxs := rfl
@[simp] theorem modLink_nodes (k : Nat) (f : LinkEnd → LinkEnd) : (modLink s k f).nodes = s.nodes := rfl
@[simp] theorem modLink_stamp (k : Nat) (f : LinkEnd → LinkEnd) : (modLink s k f).stamp = s.stamp := rfl
@[simp] theorem modLink_queues (k : Nat) (f : LinkEnd → LinkEnd) : (modLink s k f).queues = s.queues := rfl
@[simp] theorem modLink_items (k : Nat) (f : LinkEnd → LinkEnd) : (modLink s k f).items = s.items := rfl
@[simp] theorem modLink_reqs (k : Nat) (f : LinkEnd → LinkEnd) : (modLink s k f).reqs = s.reqs := rfl
@[simp] theorem modLink_farReads (k : Nat) (f : LinkEnd → LinkEnd) : (modLink s k f).farReads = s.farReads := rfl
@[simp] theorem modLink_asyncs (k : Nat) (f : LinkEnd → LinkEnd) : (modLink s k f).asyncs = s.asyncs := rfl
@[simp] theorem modLink_acqs (k : Nat) (f : LinkEnd → LinkEnd) : (modLink s k f).acqs = s.acqs := rfl
@[simp] theorem modLink_joins (k : Nat) (f : LinkEnd → LinkEnd) : (modLink s k f).joins = s.joins := rfl
@[simp] theorem modLink_copies (k : Nat) (f : LinkEnd → LinkEnd) : (modLink s k f).copies = s.copies := rfl
@[simp] theorem modLink_colls (k : Nat) (f : LinkEnd → LinkEnd) : (modLink s k f).colls = s.colls := rfl
@[simp] theorem modLink_damper (k : Nat) (f : LinkEnd → LinkEnd) : (modLink s k f).damper = s.damper := rfl
@[simp] theorem modLink_kiln (k : Nat) (f : LinkEnd → LinkEnd) : (modLink s k f).kiln = s.kiln := rfl
@[simp] theorem modLink_steer (k : Nat) (f : LinkEnd → LinkEnd) : (modLink s k f).steer = s.steer := rfl
@[simp] theorem modLink_edgeErr (k : Nat) (f : LinkEnd → LinkEnd) : (modLink s k f).edgeErr = s.edgeErr := rfl
@[simp] theorem modLink_agents (k : Nat) (f : LinkEnd → LinkEnd) : (modLink s k f).agents = s.agents := rfl
@[simp] theorem modLink_fx (k : Nat) (f : LinkEnd → LinkEnd) : (modLink s k f).fx = s.fx := rfl
@[simp] theorem modLink_fxslots (k : Nat) (f : LinkEnd → LinkEnd) : (modLink s k f).fxslots = s.fxslots := rfl
@[simp] theorem modLink_fxself (k : Nat) (f : LinkEnd → LinkEnd) : (modLink s k f).fxself = s.fxself := rfl
@[simp] theorem modLink_fxSet (k : Nat) (f : LinkEnd → LinkEnd) : (modLink s k f).fxSet = s.fxSet := rfl
@[simp] theorem modLink_fxsteer (k : Nat) (f : LinkEnd → LinkEnd) : (modLink s k f).fxsteer = s.fxsteer := rfl
@[simp] theorem modLink_recalls (k : Nat) (f : LinkEnd → LinkEnd) : (modLink s k f).recalls = s.recalls := rfl
@[simp] theorem modLink_msgData (k : Nat) (f : LinkEnd → LinkEnd) : (modLink s k f).msgData = s.msgData := rfl
@[simp] theorem modLink_waiting (k : Nat) (f : LinkEnd → LinkEnd) : (modLink s k f).waiting = s.waiting := rfl
@[simp] theorem modLink_sent (k : Nat) (f : LinkEnd → LinkEnd) : (modLink s k f).sent = s.sent := rfl
@[simp] theorem modLink_outbox (k : Nat) (f : LinkEnd → LinkEnd) : (modLink s k f).outbox = s.outbox := rfl
@[simp] theorem modLink_hubIn (k : Nat) (f : LinkEnd → LinkEnd) : (modLink s k f).hubIn = s.hubIn := rfl
@[simp] theorem modLink_routed (k : Nat) (f : LinkEnd → LinkEnd) : (modLink s k f).routed = s.routed := rfl
@[simp] theorem modLink_fxInc (k : Nat) (f : LinkEnd → LinkEnd) : (modLink s k f).fxInc = s.fxInc := rfl
@[simp] theorem modLink_topoBase (k : Nat) (f : LinkEnd → LinkEnd) : (modLink s k f).topoBase = s.topoBase := rfl
@[simp] theorem modLink_moves (k : Nat) (f : LinkEnd → LinkEnd) : (modLink s k f).moves = s.moves := rfl
@[simp] theorem modLink_t1 (k : Nat) (f : LinkEnd → LinkEnd) : (modLink s k f).t1 = s.t1 := rfl
@[simp] theorem modLink_package (k : Nat) (f : LinkEnd → LinkEnd) : (modLink s k f).package = s.package := rfl
@[simp] theorem modLink_pcieUp (k : Nat) (f : LinkEnd → LinkEnd) : (modLink s k f).pcieUp = s.pcieUp := rfl
@[simp] theorem modLink_d3hot (k : Nat) (f : LinkEnd → LinkEnd) : (modLink s k f).d3hot = s.d3hot := rfl
@[simp] theorem modLink_msixTab (k : Nat) (f : LinkEnd → LinkEnd) : (modLink s k f).msixTab = s.msixTab := rfl
@[simp] theorem modLink_msixPend (k : Nat) (f : LinkEnd → LinkEnd) : (modLink s k f).msixPend = s.msixPend := rfl
@[simp] theorem modLink_bar4Log (k : Nat) (f : LinkEnd → LinkEnd) : (modLink s k f).bar4Log = s.bar4Log := rfl
@[simp] theorem modLink_msix (k : Nat) (f : LinkEnd → LinkEnd) : (modLink s k f).msix = s.msix := rfl
@[simp] theorem modLink_agenda (k : Nat) (f : LinkEnd → LinkEnd) : (modLink s k f).agenda = s.agenda := rfl
@[simp] theorem modLink_timers (k : Nat) (f : LinkEnd → LinkEnd) : (modLink s k f).timers = s.timers := rfl
@[simp] theorem modLink_ctimers (k : Nat) (f : LinkEnd → LinkEnd) : (modLink s k f).ctimers = s.ctimers := rfl
@[simp] theorem modLink_cur (k : Nat) (f : LinkEnd → LinkEnd) : (modLink s k f).cur = s.cur := rfl
@[simp] theorem modLink_nextId (k : Nat) (f : LinkEnd → LinkEnd) : (modLink s k f).nextId = s.nextId := rfl
@[simp] theorem modLink_fresh (k : Nat) (f : LinkEnd → LinkEnd) : (modLink s k f).fresh = s.fresh := rfl

/-! ## schedule -/

@[simp] theorem schedule_now (n : Nat) (e : Instr) : (schedule s n e).now = s.now := rfl
@[simp] theorem schedule_mem (n : Nat) (e : Instr) : (schedule s n e).mem = s.mem := rfl
@[simp] theorem schedule_hostMem (n : Nat) (e : Instr) : (schedule s n e).hostMem = s.hostMem := rfl
@[simp] theorem schedule_poison (n : Nat) (e : Instr) : (schedule s n e).poison = s.poison := rfl
@[simp] theorem schedule_codeFrames (n : Nat) (e : Instr) : (schedule s n e).codeFrames = s.codeFrames := rfl
@[simp] theorem schedule_codePast (n : Nat) (e : Instr) : (schedule s n e).codePast = s.codePast := rfl
@[simp] theorem schedule_threads (n : Nat) (e : Instr) : (schedule s n e).threads = s.threads := rfl
@[simp] theorem schedule_groups (n : Nat) (e : Instr) : (schedule s n e).groups = s.groups := rfl
@[simp] theorem schedule_teams (n : Nat) (e : Instr) : (schedule s n e).teams = s.teams := rfl
@[simp] theorem schedule_cores (n : Nat) (e : Instr) : (schedule s n e).cores = s.cores := rfl
@[simp] theorem schedule_quads (n : Nat) (e : Instr) : (schedule s n e).quads = s.quads := rfl
@[simp] theorem schedule_towers (n : Nat) (e : Instr) : (schedule s n e).towers = s.towers := rfl
@[simp] theorem schedule_slices (n : Nat) (e : Instr) : (schedule s n e).slices = s.slices := rfl
@[simp] theorem schedule_remap (n : Nat) (e : Instr) : (schedule s n e).remap = s.remap := rfl
@[simp] theorem schedule_spans (n : Nat) (e : Instr) : (schedule s n e).spans = s.spans := rfl
@[simp] theorem schedule_watchers (n : Nat) (e : Instr) : (schedule s n e).watchers = s.watchers := rfl
@[simp] theorem schedule_cache (n : Nat) (e : Instr) : (schedule s n e).cache = s.cache := rfl
@[simp] theorem schedule_ctxs (n : Nat) (e : Instr) : (schedule s n e).ctxs = s.ctxs := rfl
@[simp] theorem schedule_nodes (n : Nat) (e : Instr) : (schedule s n e).nodes = s.nodes := rfl
@[simp] theorem schedule_stamp (n : Nat) (e : Instr) : (schedule s n e).stamp = s.stamp := rfl
@[simp] theorem schedule_queues (n : Nat) (e : Instr) : (schedule s n e).queues = s.queues := rfl
@[simp] theorem schedule_items (n : Nat) (e : Instr) : (schedule s n e).items = s.items := rfl
@[simp] theorem schedule_reqs (n : Nat) (e : Instr) : (schedule s n e).reqs = s.reqs := rfl
@[simp] theorem schedule_farReads (n : Nat) (e : Instr) : (schedule s n e).farReads = s.farReads := rfl
@[simp] theorem schedule_asyncs (n : Nat) (e : Instr) : (schedule s n e).asyncs = s.asyncs := rfl
@[simp] theorem schedule_acqs (n : Nat) (e : Instr) : (schedule s n e).acqs = s.acqs := rfl
@[simp] theorem schedule_joins (n : Nat) (e : Instr) : (schedule s n e).joins = s.joins := rfl
@[simp] theorem schedule_copies (n : Nat) (e : Instr) : (schedule s n e).copies = s.copies := rfl
@[simp] theorem schedule_colls (n : Nat) (e : Instr) : (schedule s n e).colls = s.colls := rfl
@[simp] theorem schedule_damper (n : Nat) (e : Instr) : (schedule s n e).damper = s.damper := rfl
@[simp] theorem schedule_kiln (n : Nat) (e : Instr) : (schedule s n e).kiln = s.kiln := rfl
@[simp] theorem schedule_links (n : Nat) (e : Instr) : (schedule s n e).links = s.links := rfl
@[simp] theorem schedule_steer (n : Nat) (e : Instr) : (schedule s n e).steer = s.steer := rfl
@[simp] theorem schedule_edgeErr (n : Nat) (e : Instr) : (schedule s n e).edgeErr = s.edgeErr := rfl
@[simp] theorem schedule_agents (n : Nat) (e : Instr) : (schedule s n e).agents = s.agents := rfl
@[simp] theorem schedule_fx (n : Nat) (e : Instr) : (schedule s n e).fx = s.fx := rfl
@[simp] theorem schedule_fxslots (n : Nat) (e : Instr) : (schedule s n e).fxslots = s.fxslots := rfl
@[simp] theorem schedule_fxself (n : Nat) (e : Instr) : (schedule s n e).fxself = s.fxself := rfl
@[simp] theorem schedule_fxSet (n : Nat) (e : Instr) : (schedule s n e).fxSet = s.fxSet := rfl
@[simp] theorem schedule_fxsteer (n : Nat) (e : Instr) : (schedule s n e).fxsteer = s.fxsteer := rfl
@[simp] theorem schedule_recalls (n : Nat) (e : Instr) : (schedule s n e).recalls = s.recalls := rfl
@[simp] theorem schedule_msgData (n : Nat) (e : Instr) : (schedule s n e).msgData = s.msgData := rfl
@[simp] theorem schedule_waiting (n : Nat) (e : Instr) : (schedule s n e).waiting = s.waiting := rfl
@[simp] theorem schedule_sent (n : Nat) (e : Instr) : (schedule s n e).sent = s.sent := rfl
@[simp] theorem schedule_outbox (n : Nat) (e : Instr) : (schedule s n e).outbox = s.outbox := rfl
@[simp] theorem schedule_hubIn (n : Nat) (e : Instr) : (schedule s n e).hubIn = s.hubIn := rfl
@[simp] theorem schedule_routed (n : Nat) (e : Instr) : (schedule s n e).routed = s.routed := rfl
@[simp] theorem schedule_fxInc (n : Nat) (e : Instr) : (schedule s n e).fxInc = s.fxInc := rfl
@[simp] theorem schedule_topoBase (n : Nat) (e : Instr) : (schedule s n e).topoBase = s.topoBase := rfl
@[simp] theorem schedule_moves (n : Nat) (e : Instr) : (schedule s n e).moves = s.moves := rfl
@[simp] theorem schedule_t1 (n : Nat) (e : Instr) : (schedule s n e).t1 = s.t1 := rfl
@[simp] theorem schedule_package (n : Nat) (e : Instr) : (schedule s n e).package = s.package := rfl
@[simp] theorem schedule_pcieUp (n : Nat) (e : Instr) : (schedule s n e).pcieUp = s.pcieUp := rfl
@[simp] theorem schedule_d3hot (n : Nat) (e : Instr) : (schedule s n e).d3hot = s.d3hot := rfl
@[simp] theorem schedule_msixTab (n : Nat) (e : Instr) : (schedule s n e).msixTab = s.msixTab := rfl
@[simp] theorem schedule_msixPend (n : Nat) (e : Instr) : (schedule s n e).msixPend = s.msixPend := rfl
@[simp] theorem schedule_bar4Log (n : Nat) (e : Instr) : (schedule s n e).bar4Log = s.bar4Log := rfl
@[simp] theorem schedule_msix (n : Nat) (e : Instr) : (schedule s n e).msix = s.msix := rfl
@[simp] theorem schedule_agenda (n : Nat) (e : Instr) : (schedule s n e).agenda = s.agenda := rfl
@[simp] theorem schedule_ctimers (n : Nat) (e : Instr) : (schedule s n e).ctimers = s.ctimers := rfl
@[simp] theorem schedule_cur (n : Nat) (e : Instr) : (schedule s n e).cur = s.cur := rfl
@[simp] theorem schedule_nextId (n : Nat) (e : Instr) : (schedule s n e).nextId = s.nextId := rfl
@[simp] theorem schedule_fresh (n : Nat) (e : Instr) : (schedule s n e).fresh = s.fresh := rfl

/-! ## scheduleClk -/

@[simp] theorem scheduleClk_now (q n : Nat) (e : Instr) : (scheduleClk s q n e).now = s.now := rfl
@[simp] theorem scheduleClk_mem (q n : Nat) (e : Instr) : (scheduleClk s q n e).mem = s.mem := rfl
@[simp] theorem scheduleClk_hostMem (q n : Nat) (e : Instr) : (scheduleClk s q n e).hostMem = s.hostMem := rfl
@[simp] theorem scheduleClk_poison (q n : Nat) (e : Instr) : (scheduleClk s q n e).poison = s.poison := rfl
@[simp] theorem scheduleClk_codeFrames (q n : Nat) (e : Instr) : (scheduleClk s q n e).codeFrames = s.codeFrames := rfl
@[simp] theorem scheduleClk_codePast (q n : Nat) (e : Instr) : (scheduleClk s q n e).codePast = s.codePast := rfl
@[simp] theorem scheduleClk_threads (q n : Nat) (e : Instr) : (scheduleClk s q n e).threads = s.threads := rfl
@[simp] theorem scheduleClk_groups (q n : Nat) (e : Instr) : (scheduleClk s q n e).groups = s.groups := rfl
@[simp] theorem scheduleClk_teams (q n : Nat) (e : Instr) : (scheduleClk s q n e).teams = s.teams := rfl
@[simp] theorem scheduleClk_cores (q n : Nat) (e : Instr) : (scheduleClk s q n e).cores = s.cores := rfl
@[simp] theorem scheduleClk_quads (q n : Nat) (e : Instr) : (scheduleClk s q n e).quads = s.quads := rfl
@[simp] theorem scheduleClk_towers (q n : Nat) (e : Instr) : (scheduleClk s q n e).towers = s.towers := rfl
@[simp] theorem scheduleClk_slices (q n : Nat) (e : Instr) : (scheduleClk s q n e).slices = s.slices := rfl
@[simp] theorem scheduleClk_remap (q n : Nat) (e : Instr) : (scheduleClk s q n e).remap = s.remap := rfl
@[simp] theorem scheduleClk_spans (q n : Nat) (e : Instr) : (scheduleClk s q n e).spans = s.spans := rfl
@[simp] theorem scheduleClk_watchers (q n : Nat) (e : Instr) : (scheduleClk s q n e).watchers = s.watchers := rfl
@[simp] theorem scheduleClk_cache (q n : Nat) (e : Instr) : (scheduleClk s q n e).cache = s.cache := rfl
@[simp] theorem scheduleClk_ctxs (q n : Nat) (e : Instr) : (scheduleClk s q n e).ctxs = s.ctxs := rfl
@[simp] theorem scheduleClk_nodes (q n : Nat) (e : Instr) : (scheduleClk s q n e).nodes = s.nodes := rfl
@[simp] theorem scheduleClk_stamp (q n : Nat) (e : Instr) : (scheduleClk s q n e).stamp = s.stamp := rfl
@[simp] theorem scheduleClk_queues (q n : Nat) (e : Instr) : (scheduleClk s q n e).queues = s.queues := rfl
@[simp] theorem scheduleClk_items (q n : Nat) (e : Instr) : (scheduleClk s q n e).items = s.items := rfl
@[simp] theorem scheduleClk_reqs (q n : Nat) (e : Instr) : (scheduleClk s q n e).reqs = s.reqs := rfl
@[simp] theorem scheduleClk_farReads (q n : Nat) (e : Instr) : (scheduleClk s q n e).farReads = s.farReads := rfl
@[simp] theorem scheduleClk_asyncs (q n : Nat) (e : Instr) : (scheduleClk s q n e).asyncs = s.asyncs := rfl
@[simp] theorem scheduleClk_acqs (q n : Nat) (e : Instr) : (scheduleClk s q n e).acqs = s.acqs := rfl
@[simp] theorem scheduleClk_joins (q n : Nat) (e : Instr) : (scheduleClk s q n e).joins = s.joins := rfl
@[simp] theorem scheduleClk_copies (q n : Nat) (e : Instr) : (scheduleClk s q n e).copies = s.copies := rfl
@[simp] theorem scheduleClk_colls (q n : Nat) (e : Instr) : (scheduleClk s q n e).colls = s.colls := rfl
@[simp] theorem scheduleClk_damper (q n : Nat) (e : Instr) : (scheduleClk s q n e).damper = s.damper := rfl
@[simp] theorem scheduleClk_kiln (q n : Nat) (e : Instr) : (scheduleClk s q n e).kiln = s.kiln := rfl
@[simp] theorem scheduleClk_links (q n : Nat) (e : Instr) : (scheduleClk s q n e).links = s.links := rfl
@[simp] theorem scheduleClk_steer (q n : Nat) (e : Instr) : (scheduleClk s q n e).steer = s.steer := rfl
@[simp] theorem scheduleClk_edgeErr (q n : Nat) (e : Instr) : (scheduleClk s q n e).edgeErr = s.edgeErr := rfl
@[simp] theorem scheduleClk_agents (q n : Nat) (e : Instr) : (scheduleClk s q n e).agents = s.agents := rfl
@[simp] theorem scheduleClk_fx (q n : Nat) (e : Instr) : (scheduleClk s q n e).fx = s.fx := rfl
@[simp] theorem scheduleClk_fxslots (q n : Nat) (e : Instr) : (scheduleClk s q n e).fxslots = s.fxslots := rfl
@[simp] theorem scheduleClk_fxself (q n : Nat) (e : Instr) : (scheduleClk s q n e).fxself = s.fxself := rfl
@[simp] theorem scheduleClk_fxSet (q n : Nat) (e : Instr) : (scheduleClk s q n e).fxSet = s.fxSet := rfl
@[simp] theorem scheduleClk_fxsteer (q n : Nat) (e : Instr) : (scheduleClk s q n e).fxsteer = s.fxsteer := rfl
@[simp] theorem scheduleClk_recalls (q n : Nat) (e : Instr) : (scheduleClk s q n e).recalls = s.recalls := rfl
@[simp] theorem scheduleClk_msgData (q n : Nat) (e : Instr) : (scheduleClk s q n e).msgData = s.msgData := rfl
@[simp] theorem scheduleClk_waiting (q n : Nat) (e : Instr) : (scheduleClk s q n e).waiting = s.waiting := rfl
@[simp] theorem scheduleClk_sent (q n : Nat) (e : Instr) : (scheduleClk s q n e).sent = s.sent := rfl
@[simp] theorem scheduleClk_outbox (q n : Nat) (e : Instr) : (scheduleClk s q n e).outbox = s.outbox := rfl
@[simp] theorem scheduleClk_hubIn (q n : Nat) (e : Instr) : (scheduleClk s q n e).hubIn = s.hubIn := rfl
@[simp] theorem scheduleClk_routed (q n : Nat) (e : Instr) : (scheduleClk s q n e).routed = s.routed := rfl
@[simp] theorem scheduleClk_fxInc (q n : Nat) (e : Instr) : (scheduleClk s q n e).fxInc = s.fxInc := rfl
@[simp] theorem scheduleClk_topoBase (q n : Nat) (e : Instr) : (scheduleClk s q n e).topoBase = s.topoBase := rfl
@[simp] theorem scheduleClk_moves (q n : Nat) (e : Instr) : (scheduleClk s q n e).moves = s.moves := rfl
@[simp] theorem scheduleClk_t1 (q n : Nat) (e : Instr) : (scheduleClk s q n e).t1 = s.t1 := rfl
@[simp] theorem scheduleClk_package (q n : Nat) (e : Instr) : (scheduleClk s q n e).package = s.package := rfl
@[simp] theorem scheduleClk_pcieUp (q n : Nat) (e : Instr) : (scheduleClk s q n e).pcieUp = s.pcieUp := rfl
@[simp] theorem scheduleClk_d3hot (q n : Nat) (e : Instr) : (scheduleClk s q n e).d3hot = s.d3hot := rfl
@[simp] theorem scheduleClk_msixTab (q n : Nat) (e : Instr) : (scheduleClk s q n e).msixTab = s.msixTab := rfl
@[simp] theorem scheduleClk_msixPend (q n : Nat) (e : Instr) : (scheduleClk s q n e).msixPend = s.msixPend := rfl
@[simp] theorem scheduleClk_bar4Log (q n : Nat) (e : Instr) : (scheduleClk s q n e).bar4Log = s.bar4Log := rfl
@[simp] theorem scheduleClk_msix (q n : Nat) (e : Instr) : (scheduleClk s q n e).msix = s.msix := rfl
@[simp] theorem scheduleClk_agenda (q n : Nat) (e : Instr) : (scheduleClk s q n e).agenda = s.agenda := rfl
@[simp] theorem scheduleClk_timers (q n : Nat) (e : Instr) : (scheduleClk s q n e).timers = s.timers := rfl
@[simp] theorem scheduleClk_cur (q n : Nat) (e : Instr) : (scheduleClk s q n e).cur = s.cur := rfl
@[simp] theorem scheduleClk_nextId (q n : Nat) (e : Instr) : (scheduleClk s q n e).nextId = s.nextId := rfl
@[simp] theorem scheduleClk_fresh (q n : Nat) (e : Instr) : (scheduleClk s q n e).fresh = s.fresh := rfl

/-! ## interrupt -/

theorem interrupt_same (a b : Nat) :
    ∃ m w, interrupt s a b = { s with msix := m, msixPend := w } := by
  unfold interrupt; split
  · exact ⟨s.msix, _, rfl⟩
  · exact ⟨_, s.msixPend, rfl⟩

@[simp] theorem interrupt_now (a b : Nat) : (interrupt s a b).now = s.now := by obtain ⟨m, w, h⟩ := interrupt_same s a b; rw [h]
@[simp] theorem interrupt_mem (a b : Nat) : (interrupt s a b).mem = s.mem := by obtain ⟨m, w, h⟩ := interrupt_same s a b; rw [h]
@[simp] theorem interrupt_hostMem (a b : Nat) : (interrupt s a b).hostMem = s.hostMem := by obtain ⟨m, w, h⟩ := interrupt_same s a b; rw [h]
@[simp] theorem interrupt_poison (a b : Nat) : (interrupt s a b).poison = s.poison := by obtain ⟨m, w, h⟩ := interrupt_same s a b; rw [h]
@[simp] theorem interrupt_codeFrames (a b : Nat) : (interrupt s a b).codeFrames = s.codeFrames := by obtain ⟨m, w, h⟩ := interrupt_same s a b; rw [h]
@[simp] theorem interrupt_codePast (a b : Nat) : (interrupt s a b).codePast = s.codePast := by obtain ⟨m, w, h⟩ := interrupt_same s a b; rw [h]
@[simp] theorem interrupt_threads (a b : Nat) : (interrupt s a b).threads = s.threads := by obtain ⟨m, w, h⟩ := interrupt_same s a b; rw [h]
@[simp] theorem interrupt_groups (a b : Nat) : (interrupt s a b).groups = s.groups := by obtain ⟨m, w, h⟩ := interrupt_same s a b; rw [h]
@[simp] theorem interrupt_teams (a b : Nat) : (interrupt s a b).teams = s.teams := by obtain ⟨m, w, h⟩ := interrupt_same s a b; rw [h]
@[simp] theorem interrupt_cores (a b : Nat) : (interrupt s a b).cores = s.cores := by obtain ⟨m, w, h⟩ := interrupt_same s a b; rw [h]
@[simp] theorem interrupt_quads (a b : Nat) : (interrupt s a b).quads = s.quads := by obtain ⟨m, w, h⟩ := interrupt_same s a b; rw [h]
@[simp] theorem interrupt_towers (a b : Nat) : (interrupt s a b).towers = s.towers := by obtain ⟨m, w, h⟩ := interrupt_same s a b; rw [h]
@[simp] theorem interrupt_slices (a b : Nat) : (interrupt s a b).slices = s.slices := by obtain ⟨m, w, h⟩ := interrupt_same s a b; rw [h]
@[simp] theorem interrupt_remap (a b : Nat) : (interrupt s a b).remap = s.remap := by obtain ⟨m, w, h⟩ := interrupt_same s a b; rw [h]
@[simp] theorem interrupt_spans (a b : Nat) : (interrupt s a b).spans = s.spans := by obtain ⟨m, w, h⟩ := interrupt_same s a b; rw [h]
@[simp] theorem interrupt_watchers (a b : Nat) : (interrupt s a b).watchers = s.watchers := by obtain ⟨m, w, h⟩ := interrupt_same s a b; rw [h]
@[simp] theorem interrupt_cache (a b : Nat) : (interrupt s a b).cache = s.cache := by obtain ⟨m, w, h⟩ := interrupt_same s a b; rw [h]
@[simp] theorem interrupt_ctxs (a b : Nat) : (interrupt s a b).ctxs = s.ctxs := by obtain ⟨m, w, h⟩ := interrupt_same s a b; rw [h]
@[simp] theorem interrupt_nodes (a b : Nat) : (interrupt s a b).nodes = s.nodes := by obtain ⟨m, w, h⟩ := interrupt_same s a b; rw [h]
@[simp] theorem interrupt_stamp (a b : Nat) : (interrupt s a b).stamp = s.stamp := by obtain ⟨m, w, h⟩ := interrupt_same s a b; rw [h]
@[simp] theorem interrupt_queues (a b : Nat) : (interrupt s a b).queues = s.queues := by obtain ⟨m, w, h⟩ := interrupt_same s a b; rw [h]
@[simp] theorem interrupt_items (a b : Nat) : (interrupt s a b).items = s.items := by obtain ⟨m, w, h⟩ := interrupt_same s a b; rw [h]
@[simp] theorem interrupt_reqs (a b : Nat) : (interrupt s a b).reqs = s.reqs := by obtain ⟨m, w, h⟩ := interrupt_same s a b; rw [h]
@[simp] theorem interrupt_farReads (a b : Nat) : (interrupt s a b).farReads = s.farReads := by obtain ⟨m, w, h⟩ := interrupt_same s a b; rw [h]
@[simp] theorem interrupt_asyncs (a b : Nat) : (interrupt s a b).asyncs = s.asyncs := by obtain ⟨m, w, h⟩ := interrupt_same s a b; rw [h]
@[simp] theorem interrupt_acqs (a b : Nat) : (interrupt s a b).acqs = s.acqs := by obtain ⟨m, w, h⟩ := interrupt_same s a b; rw [h]
@[simp] theorem interrupt_joins (a b : Nat) : (interrupt s a b).joins = s.joins := by obtain ⟨m, w, h⟩ := interrupt_same s a b; rw [h]
@[simp] theorem interrupt_copies (a b : Nat) : (interrupt s a b).copies = s.copies := by obtain ⟨m, w, h⟩ := interrupt_same s a b; rw [h]
@[simp] theorem interrupt_colls (a b : Nat) : (interrupt s a b).colls = s.colls := by obtain ⟨m, w, h⟩ := interrupt_same s a b; rw [h]
@[simp] theorem interrupt_damper (a b : Nat) : (interrupt s a b).damper = s.damper := by obtain ⟨m, w, h⟩ := interrupt_same s a b; rw [h]
@[simp] theorem interrupt_kiln (a b : Nat) : (interrupt s a b).kiln = s.kiln := by obtain ⟨m, w, h⟩ := interrupt_same s a b; rw [h]
@[simp] theorem interrupt_links (a b : Nat) : (interrupt s a b).links = s.links := by obtain ⟨m, w, h⟩ := interrupt_same s a b; rw [h]
@[simp] theorem interrupt_steer (a b : Nat) : (interrupt s a b).steer = s.steer := by obtain ⟨m, w, h⟩ := interrupt_same s a b; rw [h]
@[simp] theorem interrupt_edgeErr (a b : Nat) : (interrupt s a b).edgeErr = s.edgeErr := by obtain ⟨m, w, h⟩ := interrupt_same s a b; rw [h]
@[simp] theorem interrupt_agents (a b : Nat) : (interrupt s a b).agents = s.agents := by obtain ⟨m, w, h⟩ := interrupt_same s a b; rw [h]
@[simp] theorem interrupt_fx (a b : Nat) : (interrupt s a b).fx = s.fx := by obtain ⟨m, w, h⟩ := interrupt_same s a b; rw [h]
@[simp] theorem interrupt_fxslots (a b : Nat) : (interrupt s a b).fxslots = s.fxslots := by obtain ⟨m, w, h⟩ := interrupt_same s a b; rw [h]
@[simp] theorem interrupt_fxself (a b : Nat) : (interrupt s a b).fxself = s.fxself := by obtain ⟨m, w, h⟩ := interrupt_same s a b; rw [h]
@[simp] theorem interrupt_fxSet (a b : Nat) : (interrupt s a b).fxSet = s.fxSet := by obtain ⟨m, w, h⟩ := interrupt_same s a b; rw [h]
@[simp] theorem interrupt_fxsteer (a b : Nat) : (interrupt s a b).fxsteer = s.fxsteer := by obtain ⟨m, w, h⟩ := interrupt_same s a b; rw [h]
@[simp] theorem interrupt_recalls (a b : Nat) : (interrupt s a b).recalls = s.recalls := by obtain ⟨m, w, h⟩ := interrupt_same s a b; rw [h]
@[simp] theorem interrupt_msgData (a b : Nat) : (interrupt s a b).msgData = s.msgData := by obtain ⟨m, w, h⟩ := interrupt_same s a b; rw [h]
@[simp] theorem interrupt_waiting (a b : Nat) : (interrupt s a b).waiting = s.waiting := by obtain ⟨m, w, h⟩ := interrupt_same s a b; rw [h]
@[simp] theorem interrupt_sent (a b : Nat) : (interrupt s a b).sent = s.sent := by obtain ⟨m, w, h⟩ := interrupt_same s a b; rw [h]
@[simp] theorem interrupt_outbox (a b : Nat) : (interrupt s a b).outbox = s.outbox := by obtain ⟨m, w, h⟩ := interrupt_same s a b; rw [h]
@[simp] theorem interrupt_hubIn (a b : Nat) : (interrupt s a b).hubIn = s.hubIn := by obtain ⟨m, w, h⟩ := interrupt_same s a b; rw [h]
@[simp] theorem interrupt_routed (a b : Nat) : (interrupt s a b).routed = s.routed := by obtain ⟨m, w, h⟩ := interrupt_same s a b; rw [h]
@[simp] theorem interrupt_fxInc (a b : Nat) : (interrupt s a b).fxInc = s.fxInc := by obtain ⟨m, w, h⟩ := interrupt_same s a b; rw [h]
@[simp] theorem interrupt_topoBase (a b : Nat) : (interrupt s a b).topoBase = s.topoBase := by obtain ⟨m, w, h⟩ := interrupt_same s a b; rw [h]
@[simp] theorem interrupt_moves (a b : Nat) : (interrupt s a b).moves = s.moves := by obtain ⟨m, w, h⟩ := interrupt_same s a b; rw [h]
@[simp] theorem interrupt_t1 (a b : Nat) : (interrupt s a b).t1 = s.t1 := by obtain ⟨m, w, h⟩ := interrupt_same s a b; rw [h]
@[simp] theorem interrupt_package (a b : Nat) : (interrupt s a b).package = s.package := by obtain ⟨m, w, h⟩ := interrupt_same s a b; rw [h]
@[simp] theorem interrupt_pcieUp (a b : Nat) : (interrupt s a b).pcieUp = s.pcieUp := by obtain ⟨m, w, h⟩ := interrupt_same s a b; rw [h]
@[simp] theorem interrupt_d3hot (a b : Nat) : (interrupt s a b).d3hot = s.d3hot := by obtain ⟨m, w, h⟩ := interrupt_same s a b; rw [h]
@[simp] theorem interrupt_msixTab (a b : Nat) : (interrupt s a b).msixTab = s.msixTab := by obtain ⟨m, w, h⟩ := interrupt_same s a b; rw [h]
@[simp] theorem interrupt_bar4Log (a b : Nat) : (interrupt s a b).bar4Log = s.bar4Log := by obtain ⟨m, w, h⟩ := interrupt_same s a b; rw [h]
@[simp] theorem interrupt_agenda (a b : Nat) : (interrupt s a b).agenda = s.agenda := by obtain ⟨m, w, h⟩ := interrupt_same s a b; rw [h]
@[simp] theorem interrupt_timers (a b : Nat) : (interrupt s a b).timers = s.timers := by obtain ⟨m, w, h⟩ := interrupt_same s a b; rw [h]
@[simp] theorem interrupt_ctimers (a b : Nat) : (interrupt s a b).ctimers = s.ctimers := by obtain ⟨m, w, h⟩ := interrupt_same s a b; rw [h]
@[simp] theorem interrupt_cur (a b : Nat) : (interrupt s a b).cur = s.cur := by obtain ⟨m, w, h⟩ := interrupt_same s a b; rw [h]
@[simp] theorem interrupt_nextId (a b : Nat) : (interrupt s a b).nextId = s.nextId := by obtain ⟨m, w, h⟩ := interrupt_same s a b; rw [h]
@[simp] theorem interrupt_fresh (a b : Nat) : (interrupt s a b).fresh = s.fresh := by obtain ⟨m, w, h⟩ := interrupt_same s a b; rw [h]

/-! ## Reading back -/

theorem teamOf_modTeam (k j : Nat) (f : Team → Team) : teamOf (modTeam s k f) j = if j = k then f (teamOf s k) else teamOf s j := by
  simp only [teamOf, modTeam, tgetD_tput]

theorem coreOf_modCore (k j : Nat) (f : Core → Core) : coreOf (modCore s k f) j = if j = k then f (coreOf s k) else coreOf s j := by
  simp only [coreOf, modCore, tgetD_tset]

theorem quadOf_modQuad (k j : Nat) (f : Quad → Quad) : quadOf (modQuad s k f) j = if j = k then f (quadOf s k) else quadOf s j := by
  simp only [quadOf, modQuad, tgetD_tset]

theorem towerOf_modTower (k j : Nat) (f : Tower → Tower) : towerOf (modTower s k f) j = if j = k then f (towerOf s k) else towerOf s j := by
  simp only [towerOf, modTower, tgetD_tset]

theorem ctxOf_modCtx (k j : Nat) (f : Ctx → Ctx) : ctxOf (modCtx s k f) j = if j = k then f (ctxOf s k) else ctxOf s j := by
  simp only [ctxOf, modCtx, tgetD_tset]

theorem queueAt_modQueue (k j : Nat) (f : Queue → Queue) : queueAt (modQueue s k f) j = if j = k then f (queueAt s k) else queueAt s j := by
  simp only [queueAt, modQueue, tgetD_tset]

theorem linkAt_modLink (k j : Nat) (f : LinkEnd → LinkEnd) : linkAt (modLink s k f) j = if j = k then f (linkAt s k) else linkAt s j := by
  simp only [linkAt, modLink, tgetD_tput]

theorem grpOf_setGrp (k g k' g' : Nat) (x : Group) :
    grpOf (setGrp s k g x) k' g' = if grpKey k' g' = grpKey k g then x else grpOf s k' g' := by
  simp only [grpOf, setGrp, tgetD_tput]

theorem mem_schedule (n : Nat) (e : Instr) : e ∈ tgetD (schedule s n e).timers n [] := by
  simp [schedule, tgetD_tput]

end Sys2Proof.Machine
end

