-- ==== Sys2Proof/Machine/Flit.lean ====
section
/-! DEFINITION. The bits of a flit (R416, R417, R432): its header, the layouts of the messages, the flit that carries a message, and the
messages that a flit carries. Bit 0 is the least significant bit of byte 0. -/

namespace Sys2Proof.Machine

/-! ## Layouts -/

/-- The 16 bytes of a flit's header. -/
def headerBits (h : FlitHeader) : BitVec 128 :=
  h.inc ++ h.dst ++ h.src ++ h.seq ++ h.cls ++ h.rsvHigh ++ h.cret ++ h.opc ++ h.nmsg ++ h.rsvLow

/-- The header in 16 bytes; `kind` is the largest KIND code of the requests behind it. -/
def headerFrom (x : BitVec 128) (kind : BitVec 4) : FlitHeader where
  inc := x.extractLsb' 112 16
  dst := x.extractLsb' 100 12
  src := x.extractLsb' 88 12
  seq := x.extractLsb' 72 16
  cls := x.extractLsb' 69 3
  rsvHigh := x.extractLsb' 64 5
  cret := x.extractLsb' 40 24
  opc := x.extractLsb' 32 8
  nmsg := x.extractLsb' 28 4
  rsvLow := x.extractLsb' 0 28
  kind := kind

/-- A request; a recall is one with KIND, AOP and W64 zero. -/
def requestBits (kind : BitVec 4) (sub tag line : Nat) (wmask : Word32) (aop : BitVec 4) (w64 : Bool) : BitVec 128 :=
  0#20 ++ BitVec.ofNat 12 sub ++ BitVec.ofNat 10 tag ++ BitVec.ofBool w64 ++ aop ++ kind ++ wmask ++ BitVec.ofNat 45 line

/-- A response. -/
def responseBits (sub tag : Nat) (status : BitVec 3) (val : Word64) : BitVec 128 :=
  val ++ 0#39 ++ status ++ BitVec.ofNat 12 sub ++ BitVec.ofNat 10 tag

/-- The first 16 bytes of a data message or of a copy beat. -/
def dataBits (dsp : BitVec 2) (sub tag line : Nat) : BitVec 128 :=
  0#59 ++ dsp ++ BitVec.ofNat 45 line ++ BitVec.ofNat 12 sub ++ BitVec.ofNat 10 tag

def bytes16 (x : BitVec 128) : List Byte := leBytes x.toNat 16

def dataBytes (dsp : BitVec 2) (sub tag line : Nat) (mask : BitVec 128) (bytes : List Byte) : List Byte :=
  bytes16 (dataBits dsp sub tag line) ++ bytes16 mask ++ (bytes ++ List.replicate 128 0#8).take 128

/-! ## The flit of a message -/

/-- Class, destination, opcode and payload of a message that this device sends to an agent. -/
def payloadOf (x : Sent) : Option (Nat × Nat × Nat × List Byte) :=
  match x with
  | .request a sub tag line kind words aop w64 =>
    some (0, a, 0, bytes16 (requestBits (BitVec.ofNat 4 kind) sub tag line words (BitVec.ofNat 4 aop) w64))
  | .response a sub tag status val => some (1, a, 0, bytes16 (responseBits sub tag status val))
  | .data a sub tag line mask bytes => some (2, a, 0, dataBytes 0#2 sub tag line mask bytes)
  | .recallOf a sub tag line words => some (3, a, 0, bytes16 (requestBits 0#4 sub tag line words 0#4 false))
  | .beat a sub tag line dsp mask bytes _ => some (4, a, 0, dataBytes (BitVec.ofNat 2 dsp) sub tag line mask bytes)
  | .control a _ opc field => some (5, a, opc, bytes16 (field.setWidth 128))
  | .hostData _ _ => none
  | .completerAbort _ => none
  | .managed _ => none
  | .configRetry _ => none

/-- The 256 bytes of the flit that carries a message, with what its sender and its module add. -/
def flitOf (inc : Half) (src : Nat) (seq : Half) (cret : BitVec 24) (x : Sent) : Option (List Byte) :=
  (payloadOf x).map (fun (cls, dst, opc, body) =>
    let h : FlitHeader :=
      { inc := inc, dst := BitVec.ofNat 12 dst, src := BitVec.ofNat 12 src, seq := seq, cret := cret, cls := BitVec.ofNat 3 cls
        rsvHigh := 0#5, rsvLow := 0#28, nmsg := 1#4, opc := BitVec.ofNat 8 opc, kind := 0#4 }
    (bytes16 (headerBits h) ++ body ++ List.replicate 240 0#8).take 256)

/-! ## The messages of a flit -/

/-- The 128-bit word at a byte of a flit. -/
def flitWord (bs : List Byte) (o : Nat) : BitVec 128 := BitVec.ofNat 128 (leNat ((bs.drop o).take 16))

/-- The KIND code of a request. -/
def kindBits (x : BitVec 128) : BitVec 4 := x.extractLsb' 77 4

/-- The header of a flit. -/
def flitHeader (bs : List Byte) : FlitHeader :=
  let h := headerFrom (flitWord bs 0) 0#4
  if h.cls = 0#3 then
    { h with kind := (List.range h.nmsg.toNat).foldl (fun (k : BitVec 4) i =>
        let x := kindBits (flitWord bs (16 + 16 * i))
        if k.toNat < x.toNat then x else k) 0#4 }
  else h

/-- Message `i` of a flit of classes 0 to 4 that arrives at the end `blk`. -/
def flitMsg (blk : Nat) (bs : List Byte) (i : Nat) : Msg :=
  let h := flitHeader bs
  let x := flitWord bs (16 + 16 * i)
  let m : Msg :=
    { blk := blk, src := h.src.toNat, inc := h.inc, sub := 0, tag := 0, line := 0, wmask := 0#32, aop := 0#4, w64 := false, status := 0#3
      val := 0#64, mask := 0#128, data := [], dsp := 0#2, dst := h.dst.toNat, seq := h.seq, cret := h.cret, later := decide (i ≠ 0) }
  match h.cls.toNat with
  | 0 =>
    { m with line := (x.extractLsb' 0 45).toNat, wmask := x.extractLsb' 45 32, aop := x.extractLsb' 81 4, w64 := x.getLsbD 85
             tag := (x.extractLsb' 86 10).toNat, sub := (x.extractLsb' 96 12).toNat }
  | 1 =>
    { m with tag := (x.extractLsb' 0 10).toNat, sub := (x.extractLsb' 10 12).toNat, status := x.extractLsb' 22 3
             val := x.extractLsb' 64 64 }
  | 3 =>
    { m with line := (x.extractLsb' 0 45).toNat, wmask := x.extractLsb' 45 32, tag := (x.extractLsb' 86 10).toNat
             sub := (x.extractLsb' 96 12).toNat }
  | _ =>
    { m with tag := (x.extractLsb' 0 10).toNat, sub := (x.extractLsb' 10 12).toNat, line := (x.extractLsb' 22 45).toNat
             dsp := if h.cls = 4#3 then x.extractLsb' 67 2 else 0#2
             mask := flitWord bs 32, data := (bs.drop 48).take 128 }

/-- The messages of a flit that breaks no rule, with their KIND codes where they are requests: the first is the one with which the flit
is counted. -/
def flitMsgs (blk : Nat) (bs : List Byte) : List (BitVec 4 × Msg) :=
  let h := flitHeader bs
  if badHeader h || decide (5 ≤ h.cls.toNat) then []
  else (List.range h.nmsg.toNat).map (fun i => (kindBits (flitWord bs (16 + 16 * i)), flitMsg blk bs i))

end Sys2Proof.Machine
end

