-- ==== Sys2Proof/Tests/Slice0.lean ====
section
/-! SUPPORT. The model's own tests. The well-formedness checks, each with a term that it refuses; words of the manual and what they
decode to; single steps on a small state; and, for each obligation with hypotheses, a state and operands that meet them. Expected
values are the manual's examples or are worked out by hand from its rules. -/

namespace Sys2Proof.Tests

open Sys2Proof Sys2Proof.Machine

set_option Elab.async false

/-! ## Terms -/

/-- The guard that is always 1: `v0` reads as all ones (R32, R33). -/
def always : Guard := { gr := 0#10, gb := 0#5, gn := false }

/-- A form of classes 0 to 2 without a prefix or an immediate. -/
def alu (md : BitVec 3) (dst sa sb : BitVec 10) (ext : Ext := .none) : Alu :=
  { g := always, md := md, dst := dst, sa := sa, sb := sb, ta := false, tb := false, tc := false, ext := ext }

def base (md : BitVec 4) (dst sa sb : BitVec 10) : Base :=
  { g := always, md := md, dst := dst, sa := sa, sb := sb, ta := false, tb := false, tc := false }

/-- A prefix word with a rounding code, a third source and SAT. -/
def pfx (rm : BitVec 3) (sc : BitVec 10) (sat : Bool := false) : Pfx :=
  { sat := sat, rm := rm, mn := false, mb := 0#5, mr := 0#8, zm := false, sbs := false, sas := false, scs := false, sc := sc }

/-- A memory word of a width, type SI, lease 0, with its base in an s register. -/
def mw (width : BitVec 3) (off : Half := 0#16) (bs : Bool := true) : MemWord :=
  { off := off, ix := false, ord := 0#2, scope := 0#3, bs := bs, sx := false, width := width, lease := 0#3, ty := 0#2 }

def mma : MmaCtl :=
  { barEn := false, bar := 0#4, gs := 0#3, acc := false, satI := false, bSigned := false, aSigned := false, kc := 1#10, nb := 0#3,
    lower := false, force := false, diag := 0#8, ofs := 0#8 }

/-- Rotated FP8 rows of one element for each lane, by block size and seed slot 0. -/
def glz : GlzCtl :=
  { signed := false, epl := 0#2, rm := 1#3, seed := 0#3, rot := true, rb := 0#2, sck := 2#2, fmt := 3#5, kb := 0#8, sca := 0#8,
    ela := 0#8 }

def mmw : MmwCtl := { gs := 0#3, barEn := false, bar := 0#4, pos := 0#8 }

def cpy : CopyCtl :=
  { mc := 0#12, barEn := false, bar := 0#4, gs := 0#3, dsp := 0#2, ssp := 0#2, np := 0#5, slot := 0#3, satR := false, el := 0#2 }

def coll : CollCtl := { barEn := false, bar := 0#4, gs := 0#3, op := 0#2, fmt := 0#2, kind := 0#2, comm := 0#6 }

def que : QueueWord := { sel := 0#2, qs := false, qr := 0#8, qn := 5#12 }

/-! ## Well-formedness: terms that a check takes, and terms that it refuses -/

def accepts (is : List Instr) : Bool := is.all instrWf
def refuses (is : List Instr) : Bool := is.all (fun i => !instrWf i)

/-- Modifiers, pairs, s registers, immediates, third sources, rounding codes and SAT (R32, R37 to R41, R145 to R162). -/
theorem test_wf_alu :
    accepts [.nop (alu 0 0 0 0), .mov (alu 1 22 20 0), .movImm64 always 22 1, .iadd (alu 4 2 4 6), .sel (alu 0 5 6 7 (.pfx (pfx 0 9))),
      .lut3 (alu 0 5 6 0 (.pfxImm (pfx 0 9) 0xFF#32)), .fadd (alu 0 5 6 7 (.pfx (pfx 6 0 true))), .hcmp2 (alu 0 960 6 7),
      .cvt (alu 0 5 6 0), .rng (alu 0 5 0 0), .rngseed (alu 0 0 6 0), .bop (alu 0 5 6 7), .pack (alu 0 5 6 7)] = true ∧
    refuses [.nop (alu 0 1 0 0), .nop (alu 1 0 0 0), .mov (alu 1 23 20 0), .mov (alu 0 22 20 1), .mov (alu 0 22 20 0 (.imm 0#32)),
      .movImm64 always 23 1, .movImm64 always 0 1, .iadd (alu 2 5 6 7), .iadd (alu 4 3 4 6), .iadd (alu 4 2 0 6),
      .iadd { alu 0 5 256 7 (.pfx { pfx 0 0 with sas := true }) with ta := false },
      .iadd { alu 0 5 6 7 (.pfx { pfx 0 0 with sas := true }) with ta := true }, .iadd (alu 0 5 6 1 (.imm 0#32)),
      .iadd { alu 0 5 6 7 with tc := true }, .iadd (alu 0 5 6 7 (.pfx (pfx 0 9))), .iadd (alu 0 5 6 7 (.pfx (pfx 1 0))),
      .imul (alu 2 5 6 7 (.pfx (pfx 0 0 true))), .sel (alu 0 5 6 7), .lut3 (alu 0 5 6 0 (.pfxImm (pfx 0 9) 0x100#32)),
      .lut3 (alu 0 5 6 0 (.imm 1#32)), .fadd (alu 0 5 6 7 (.pfx (pfx 7 0))), .fmin (alu 0 5 6 7 (.pfx (pfx 1 0))),
      .hcmp2 (alu 0 992 6 7), .cvt (alu 0 5 6 3), .cvt (alu 1 5 6 0), .cvt (alu 4 5 6 0), .rng (alu 0 5 1 0), .rngW (alu 2 5 0 0),
      .rngseed (alu 0 1 6 0), .rngseed (alu 0 0 7 0), .bop (alu 0 5 6 0 (.imm 1#32)),
      .bop (alu 0 5 6 7 (.pfx { pfx 0 0 with sas := true })), .pack (alu 2 5 6 7 (.pfx (pfx 1 0)))] = true := by decide

/-- Control, special registers, the group forms and the uniform forms (R42, R137, R164, R180 to R191). -/
theorem test_wf_control_and_group :
    accepts [.bra (base 0 0 0 0) 4, .brx (base 1 0 255 0), .ret (base 0 0 4 0), .safept (base 0 0 0 0) 255, .fork (base 2 9 8 0) 0,
      .rdsr (base 0 10 0x61 0), .wrsr (base 0 0x21 4 0), .wrsrExm (base 1 0x10 3 0), .xlane (base 12 4 6 31) none,
      .vote (base 3 5 6 0) (some 1), .peers (base 4 5 6 0) none, .gred (base 10 5 6 0) none, .smov (base 8 4 0 0) (some 7),
      .sshr (base 1 4 5 6) none, .sld (base 0 4 5 0) { mw 0 with bs := false }, .s2v (base 1 4 5 0), .v2s (base 1 4 6 31),
      .nsig (base 1 0 3 0)] = true ∧
    refuses [.bra (base 1 0 0 0) 4, .bra { base 0 0 0 0 with ta := true } 4, .brx (base 1 0 256 0), .brx (base 0 0 5 0), .ret (base 1 0 4 0),
      .safept (base 0 0 0 0) 0, .safept (base 0 0 0 0) 256, .fork (base 2 9 256 0) 0, .rdsr (base 0 11 0x61 0), .rdsr (base 0 10 0x009 0),
      .wrsr (base 0 0x11 4 0), .wrsr (base 0 0x21 5 0), .wrsr (base 2 0x20 4 0), .wrsr (base 0 0x10 4 0), .wrsrExm (base 0 0x20 4 0),
      .xlane (base 4 5 6 7) none, .xlane (base 8 5 6 32) none, .xlane (base 10 5 6 64) none, .xlane (base 0 5 6 7) (some 0),
      .vote (base 4 5 6 0) none, .peers (base 4 5 7 0) none, .peers (base 8 5 6 0) none, .gred (base 11 5 6 0) none,
      .scan { base 0 5 6 0 with tb := true } none, .gsync (base 1 0 0 0) none, .smov (base 0 4 0 0) (some 7), .smov (base 0 4 1 5) none,
      .sadd (base 1 4 5 6) none, .sadd (base 8 4 5 6) (some 7), .sadd (base 0 256 5 6) none,
      .sld (base 0 4 5 0) { mw 0 with bs := false, ord := 2 }, .sld (base 0 4 5 0) { mw 2 with bs := false },
      .srd (base 0 1 5 6) { mw 0 with bs := false }, .s2v (base 3 4 5 0), .s2v (base 1 5 5 0), .v2s (base 0 4 6 32), .v2s (base 1 4 7 1),
      .nsig (base 0 1 3 0)] = true := by decide

/-- The memory word and the ordering forms (R43, R44, R223 to R232, R235 to R249). -/
theorem test_wf_memory :
    accepts [.ld (base 0 20 4 0) (mw 2) none, .ld (base 0 21 4 0) { mw 1 (bs := false) with sx := true } (some 8),
      .st (base 0 20 4 0) { mw 4 with ord := 2, ty := 1, lease := 3 } none, .lda (base 0 5 4 0) { mw 2 with scope := 1 } none,
      .ldc (base 0 4 4 0) (mw 4) none, .atom (base 9 6 4 8) { mw 3 with ord := 3, scope := 5 } none, .red (base 0 6 4 0) (mw 3) none,
      .pref (base 0 0 4 0) (mw 0) none, .invl (base 1 0 0 0) (mw 0 (bs := false)), .invl (base 3 0 0 0) (mw 0 (bs := false)), .wb (base 2 0 4 7) (mw 0), .fence (base 3 0 0 5),
      .bind (base 4 15 0 0) 0, .unbind (base 1 0 0 0), .acq (base 0 0 15 5), .rel (base 4 0 0 0)] = true ∧
    refuses [.ld (base 1 20 4 0) (mw 2) none, .ld (base 0 20 5 0) (mw 2 (bs := false)) none, .ld (base 0 20 4 1) (mw 2) none,
      .ld (base 0 21 4 0) (mw 3) none, .ld (base 0 22 4 0) (mw 4) none, .ld (base 0 20 4 0) (mw 5) none, .ld (base 0 20 4 0) (mw 2 8) (some 8),
      .ld (base 0 20 4 0) { mw 2 with sx := true } none, .ld (base 0 20 4 0) { mw 2 with ord := 2 } none,
      .ld (base 0 20 4 0) { mw 2 with ty := 2, lease := 1 } none, .ld (base 0 20 4 0) { mw 2 with scope := 6 } none,
      .st (base 0 20 4 0) { mw 2 with ord := 1 } none, .lda (base 0 5 4 0) { mw 2 with scope := 2 } none,
      .sta (base 0 5 4 0) { mw 2 with ty := 1 } none, .ldc (base 0 4 4 0) (mw 1) none, .stc (base 0 4 4 0) { mw 2 with scope := 1 } none,
      .atom (base 13 6 4 8) (mw 2) none, .atom (base 10 6 4 8) (mw 3) none, .atom (base 9 6 4 10) (mw 3) none, .atom (base 0 5 4 8) (mw 3) none,
      .atom (base 0 6 4 8) (mw 1) none, .atoma (base 0 6 4 8) { mw 2 with scope := 2 } none, .red (base 9 6 4 0) (mw 2) none,
      .red (base 0 7 4 0) (mw 3) none, .red (base 0 7 4 0) { mw 2 with ord := 1 } none, .pref (base 0 1 4 0) (mw 0) none,
      .invl (base 4 0 0 0) (mw 0 (bs := false)), .wb (base 3 1 0 0) (mw 0 (bs := false)), .wb (base 0 0 4 0) (mw 1), .fence (base 0 0 0 5), .fence (base 3 0 0 6),
      .bind (base 0 16 4 5) 0, .bind (base 0 1 4 5) 16, .bind (base 4 1 4 5) 1, .bind (base 5 1 4 5) 0, .unbind (base 1 1 0 0),
      .unbind (base 0 16 0 0), .acq (base 0 0 16 5), .acq (base 4 0 1 5), .rel (base 5 0 1 5)] = true := by decide

/-- The matrix engine and Glaze (R45 to R48, R114, R277 to R281). -/
theorem test_wf_engine_and_glaze :
    accepts [.rsv (base 0 31 252 0), .rsvClr (base 1 0 0 0), .rsvf (base 3 1 0 0) 0xFFFF, .rsvq (base 0 8 31 0), .mma (base 0 30 1 2) { mma with nb := 1 },
      .mmat (base 0 0 1 2) { mma with diag := 3, force := true }, .mmz (base 7 24 0 0), .mmw (base 0 1 2 0) glz mmw,
      .glzq (base 0 1 5 0) glz, .glzd (base 0 5 0 0) glz, .glzrFwd (base 0 5 6 0) { glz with rot := false, fmt := 0, sck := 0 },
      .glzrInv (base 0 5 6 0) { glz with fmt := 0, sck := 0 }] = true ∧
    refuses [.rsv (base 0 32 252 0), .rsv (base 0 1 253 0), .rsvClr (base 1 0 4 0), .rsvf (base 4 1 0 0) 0, .rsvf (base 2 1 0 0) 0x10000,
      .rsvq (base 0 6 31 0), .rsvq (base 0 8 32 0), .mma (base 0 0 1 2) { mma with kc := 0 }, .mma (base 0 31 1 2) { mma with nb := 1 },
      .mma (base 0 0 1 2) { mma with diag := 3 }, .mma (base 0 0 1 2) { mma with bar := 1 }, .mmz (base 8 0 0 0), .mmz (base 7 25 0 0),
      .mmw (base 0 1 2 0) { glz with fmt := 12 } mmw, .mmw (base 0 1 2 0) { glz with rm := 0 } mmw,
      .mmw (base 0 1 2 0) { glz with rb := 2 } mmw, .mmw (base 0 1 2 0) glz { mmw with bar := 1 }, .mmw (base 0 1 2 0) { glz with signed := true } mmw,
      .glzq (base 0 32 5 0) glz, .glzq (base 0 1 0 0) glz, .glzq (base 0 1 5 0) { glz with rot := false },
      .glzq (base 0 1 5 0) { glz with epl := 3 }, .glzq (base 0 1 5 0) { glz with rm := 7 }, .glzq (base 0 1 5 0) { glz with sck := 0, sca := 1 },
      .glzq (base 0 1 5 0) { glz with sck := 3 }, .glzq (base 0 1 1023 0) { glz with epl := 1 }, .glzd (base 0 0 0 0) glz,
      .glzd (base 0 5 1 0) glz, .glzrFwd (base 0 5 6 0) { glz with fmt := 0, sck := 0 }, .glzrInv (base 0 5 6 0) { glz with rot := false, fmt := 0, sck := 0 },
      .glzrInv (base 0 5 6 0) { glz with fmt := 0 }] = true := by decide

/-- Barriers, copies, collectives and queues (R292, R294 to R300, R306, R307, R319, R351 to R354). -/
theorem test_wf_barriers_copies_and_queues :
    accepts [.barInit (base 0 0 15 0) (some 0x120), .barArrive (base 1 0 3 0), .barWait (base 2 0 1 9), .barTest (base 3 7 1 0),
      .barExpect (base 5 0 1 0) (some 5), .barRead (base 6 4 1 0), .barWrite (base 7 0 1 4), .barwInit (base 0 0 4 9) (mw 0) none,
      .barwArrive (base 1 10 4 0) { mw 0 with ix := true, scope := 1 } none, .step (base 0 0 0 0), .monitor (base 0 0 4 0) (mw 0) (some 4),
      .mwait (base 2 9 255 0), .gset (base 0 7 0 0), .gsetOpen (base 1 1 0 0), .cpy (base 0 0 4 0) cpy, .cpyt (base 0 0 4 0) { cpy with el := 2 },
      .cpyr (base 0 0 4 0) { cpy with satR := true, el := 2 }, .cpyq (base 0 5 7 0), .cpyqJ (base 1 5 0 0), .coll (base 0 0 8 0) { coll with kind := 1 },
      .enq (base 0 0 16 0) que, .enqTry (base 1 5 32 0) que, .deq (base 0 32 0 0) que, .deqt (base 1 1004 0 5) { que with qs := true, qr := 6, qn := 0 },
      .qctlQuery (base 0 4 0 0) { que with sel := 3 }, .qctlCreate (base 1 0 0 8) que, .qctlFreeze (base 2 0 0 0) que] = true ∧
    refuses [.barInit (base 0 0 15 0) (some 0), .barInit (base 0 0 15 0) (some 33), .barInit (base 0 0 16 0) none, .barInit (base 1 0 15 0) none,
      .barArrive (base 1 0 3 4), .barWait (base 2 1 1 9), .barExpect (base 5 0 1 6) (some 5), .barRead (base 6 5 1 0), .barWrite (base 7 0 1 0),
      .barwInit (base 0 4 4 9) (mw 0) none, .barwInit (base 0 0 4 9) (mw 2) none, .barwArrive (base 1 11 4 0) (mw 0) none,
      .barwArrive (base 1 10 4 0) { mw 0 with ix := true, scope := 2 } none, .barwWait (base 0 0 4 9) (mw 0) none, .step (base 0 0 1 0),
      .monitor (base 0 0 4 1) (mw 0) none, .monitor (base 0 0 4 0) (mw 0 4) (some 4), .mwait (base 3 9 0 0), .mwait (base 0 9 1 0), .mwait (base 2 9 256 0),
      .gset (base 0 0 0 0), .gset (base 0 8 0 0), .gset (base 1 3 0 0), .gsetOpen (base 0 3 0 0), .cpy (base 0 0 5 0) cpy,
      .cpy (base 0 0 4 0) { cpy with el := 1 }, .cpy (base 0 0 4 0) { cpy with mc := 1 }, .cpy (base 0 0 4 0) { cpy with ssp := 3 },
      .cpyt (base 0 0 4 0) { cpy with ssp := 1 }, .cpyr (base 0 0 4 0) { cpy with dsp := 1 }, .cpyr (base 0 0 4 0) { cpy with satR := true },
      .cpyq (base 0 5 8 0), .cpyqJ (base 1 5 1 0), .coll (base 0 0 8 0) { coll with kind := 3 }, .coll (base 0 0 8 0) { coll with kind := 1, op := 1 },
      .coll (base 0 0 6 0) coll, .enq (base 0 0 8 0) que, .enq (base 0 0 0 0) que, .enq (base 0 1 16 0) que, .enq (base 0 0 16 0) { que with sel := 1 },
      .enq (base 0 0 16 0) { que with qs := true }, .enq (base 0 0 16 0) { que with qr := 1 }, .deq (base 0 30 0 0) que, .deq (base 0 1008 0 0) que,
      .deq (base 1 32 0 5) que, .deqt (base 1 32 0 256) que, .qctlQuery (base 0 5 0 0) que, .qctlCreate (base 1 0 0 9) que,
      .qctlFreeze (base 2 0 0 8) que] = true := by decide

/-- Traps and the privileged forms (R365, R375, R381 to R384, R405). -/
theorem test_wf_traps_and_privileged :
    accepts [.trap (base 0 0 1023 0), .syscall (base 0 0 3 0), .rft (base 0 0 0 0), .rftTarget (base 1 0 4 0), .rftSave (base 2 0 0 0),
      .rftRest (base 3 0 20 0), .rdsys (base 0 10 0 0) 8, .wrsys (base 1 0 3 12) 8, .ctxctlCmd (base 0 9 4 0) 15, .ctxctlExm (base 1 9 4 5) 0,
      .fresRetry (base 0 9 12 0), .fresKill (base 1 9 12 0), .fresRetryD (base 2 9 12 13), .pgmapLeaf (base 0 9 4 6) 3, .pgmapTable (base 1 9 4 6) 0,
      .pgshare (base 0 9 4 6), .pgunshare (base 0 9 4 0), .pginvTlb (base 2 9 4 6), .pgdirty (base 0 10 4 0), .pgdirtyPeek (base 1 0 4 0)] = true ∧
    refuses [.trap (base 1 0 1 0), .syscall (base 0 1 3 0), .rft (base 0 0 4 0), .rftTarget (base 1 0 5 0), .rftSave (base 3 0 0 0),
      .rftRest (base 3 0 0 0), .rdsys (base 0 11 0 0) 8, .rdsys (base 0 10 3 0) 8, .rdsys (base 2 10 0 0) 8, .wrsys (base 0 0 0 13) 8,
      .ctxctlCmd (base 0 9 4 0) 16, .ctxctlCmd (base 0 9 256 0) 1, .ctxctlExm (base 1 9 4 5) 1, .fresRetry (base 0 9 12 1), .fresKill (base 0 9 12 0),
      .fresRetryD (base 2 9 12 256), .pgmapLeaf (base 0 9 4 6) 1, .pgmapTable (base 1 9 4 6) 3, .pgshare (base 1 9 4 6), .pgunshare (base 0 9 4 1),
      .pginv (base 3 9 4 6), .pgdirty (base 0 11 4 0)] = true := by decide

/-! ## Decoding: words of the manual's worked encodings, and words written out from the bit tables -/

/-- Classes 0 to 2 (the examples of R38 to R41 and of files 05, 07). -/
theorem test_decode_alu :
    decodeWords 0x0000410D#32 0x00601605#32 0x2042200D#32 0#32 =
      some (.ffma (alu 0 10 11 12 (.pfx { pfx 2 13 with mr := 8, mb := 1, zm := true }))) ∧
    decodeWords 0x8503800D#32 0xC02#32 0x100#32 0#32 =
      some (.iadd { alu 0 5 6 0 (.imm 0x100#32) with g := { gr := 40, gb := 3, gn := true } }) ∧
    decodeWords 0x6#32 0xB#32 0#32 1#32 = some (.movImm64 always 22 0x100000000#64) ∧
    decodeWords 0x401D#32 0x01003E0F#32 0x20000#32 0#32 = some (.idiv (alu 0 30 31 32 (.pfx { pfx 0 0 with mr := 8 }))) ∧
    decodeWords 0x8000106D#32 0x2833#32 0x64#32 0#32 = some (.cmp (alu 2 103 20 0 (.imm 100#32))) ∧
    decodeWords 0x20E#32 0x5001#32 0x26A3#32 0x000C0B0A#32 = some (.glzq (base 0 2 40 0)
      { glz with rb := 1, sck := 1, seed := 1, ela := 10, sca := 11, kb := 12 }) ∧
    decodeWords 0xA18#32 0xF#32 0#32 0#32 = some (.rngF (alu 1 30 0 0)) ∧
    decodeWords 0x8000005C#32 0x140A#32 0#32 0#32 = some (.popc (alu 0 21 10 0)) ∧
    decodeWords 0x80004046#32 0x5013#32 0x29#32 0xB8#32 = some (.lut3 (alu 0 39 40 0 (.pfxImm (pfx 0 41) 0xB8#32))) ∧
    decodeWords 0x8000084D#32 0x5C17#32 0x28#32 0#32 = some (.shr (alu 1 47 46 0 (.imm 40#32))) ∧
    decodeWords 0x8000#32 0#32 0#32 0#32 = some (.nop { alu 0 0 0 0 with g := { always with gn := true } }) := by decide

/-- Control, the group, memory and ordering (examples of files 06 to 09). -/
theorem test_decode_control_and_memory :
    decodeWords 0x319#32 0#32 1#32 0#32 = some (.safept (base 0 0 0 0) 1#32) ∧
    decodeWords 0x131D#32 0x1204#32 0x100#32 0#32 = some (.fork (base 2 8 9 0) 0x100#32) ∧
    decodeWords 0x80000324#32 0x4#32 0#32 0#32 = some (.vote (base 0 9 0 0) none) ∧
    decodeWords 0x338#32 0xC210#32 0#32 0#32 = some (.rdsr (base 0 32 0x61 0)) ∧
    decodeWords 0x378#32 0x1800#32 0#32 0#32 = some (.nsig (base 0 0 12 0)) ∧
    decodeWords 0xB78#32 0x600#32 0#32 0#32 = some (.nsig (base 1 0 3 0)) ∧
    decodeWords 0x401#32 0x80A#32 0x0040024C#32 0#32 = some (.ld (base 0 20 4 0) { mw 2 0x40 with lease := 3 } none) ∧
    decodeWords 0x4C19#32 0x00600805#32 0x00202A40#32 0#32 =
      some (.atom (base 9 10 4 12) { mw 2 0x20 with ord := 1, scope := 2 } none) ∧
    decodeWords 0x1C30#32 0x00180000#32 0#32 0#32 = some (.fence (base 3 0 0 3)) ∧
    decodeWords 0x1C35#32 0x00400800#32 6#32 0#32 = some (.bind (base 3 0 4 8) 6#32) ∧
    decodeWords 0x43C#32 0x00180600#32 0#32 0#32 = some (.acq (base 0 0 3 3)) := by decide

/-- The engine, barriers, copies and queues (examples of files 10 to 12, 14). -/
theorem test_decode_engine_barriers_and_queues :
    decodeWords 0x80000500#32 0x1800#32 0#32 0#32 = some (.rsv (base 0 1 12 0)) ∧
    decodeWords 0x00E0050E#32 0x00080002#32 0x01110011#32 0x14#32 = some (.mma { base 0 4 0 1 with g := { always with gr := 7 } }
      { mma with barEn := true, bar := 1, acc := true, kc := 2, nb := 1, ofs := 20 }) ∧
    decodeWords 0x601#32 0x200#32 0x102#32 0#32 = some (.barInit (base 0 0 1 0) (some 0x102#32)) ∧
    decodeWords 0xE00#32 0x200#32 0#32 0#32 = some (.barArrive (base 1 0 1 0)) ∧
    decodeWords 0x1600#32 0x200#32 0#32 0#32 = some (.barWait (base 2 0 1 0)) ∧
    decodeWords 0x80001E00#32 0x223#32 0#32 0#32 = some (.barTest (base 3 71 1 0)) ∧
    decodeWords 0x2600#32 0x200#32 0#32 0#32 = some (.barInval (base 4 0 1 0)) ∧
    decodeWords 0xE05#32 0x805#32 0xE00#32 0#32 = some (.barwArrive (base 1 10 4 0) { mw 0 with scope := 3 } none) ∧
    decodeWords 0x608#32 0#32 0#32 0#32 = some (.step (base 0 0 0 0)) ∧
    decodeWords 0x80000E10#32 0x1804#32 0#32 0#32 = some (.mwait (base 1 9 12 0)) ∧
    decodeWords 0x80000614#32 1#32 0#32 0#32 = some (.gset (base 0 3 0 0)) ∧
    decodeWords 0x80000E14#32 1#32 0#32 0#32 = some (.gsetOpen (base 1 3 0 0)) ∧
    decodeWords 0x61E#32 0x5000#32 0x00388409#32 0#32 =
      some (.cpy (base 0 0 40 0) { cpy with slot := 1, np := 1, dsp := 1, bar := 1, barEn := true, mc := 3 }) ∧
    decodeWords 0x631#32 0x2000#32 5#32 0#32 = some (.enq (base 0 0 16 0) que) ∧
    decodeWords 0x635#32 0x10#32 0x00106000#32 0#32 = some (.deq (base 0 32 0 0) { que with qs := true, qr := 6, qn := 0 }) := by decide

/-- Traps, returns and the privileged forms (examples of files 15, 16). -/
theorem test_decode_privileged :
    decodeWords 0x700#32 0x2200#32 0#32 0#32 = some (.trap (base 0 0 17 0)) ∧
    decodeWords 0x708#32 0x600#32 0#32 0#32 = some (.syscall (base 0 0 3 0)) ∧
    decodeWords 0x704#32 0#32 0#32 0#32 = some (.rft (base 0 0 0 0)) ∧
    decodeWords 0x1704#32 0#32 0#32 0#32 = some (.rftSave (base 2 0 0 0)) ∧
    decodeWords 0x1F04#32 0x2800#32 0#32 0#32 = some (.rftRest (base 3 0 20 0)) ∧
    decodeWords 0xF0D#32 0x605#32 0x40#32 0#32 = some (.rdsys (base 1 10 3 0) 0x40#32) ∧
    decodeWords 0xF11#32 0x00600800#32 8#32 0#32 = some (.wrsys (base 1 0 4 12) 8#32) ∧
    decodeWords 0x80000715#32 0x804#32 4#32 0#32 = some (.ctxctlCmd (base 0 9 4 0) 4#32) ∧
    decodeWords 0x80000718#32 0x1804#32 0#32 0#32 = some (.fresRetry (base 0 9 12 0)) ∧
    decodeWords 0x80000F20#32 0x00300804#32 0#32 0#32 = some (.pgshareCow (base 1 9 4 6)) ∧
    decodeWords 0x8000071D#32 0x00300804#32 3#32 0#32 = some (.pgmapLeaf (base 0 9 4 6) 3#32) ∧
    decodeWords 0x730#32 0x805#32 0#32 0#32 = some (.pgdirty (base 0 10 4 0)) := by decide

/-- Every LEN 11, an unassigned opcode and a breach of an encoding rule decode to nothing (R27, R36, R51). -/
theorem test_decode_refuses :
    decodeWords 3#32 0#32 0#32 0#32 = none ∧ decodeWords 0x78#32 0#32 0#32 0#32 = none ∧
    decodeWords 0x800#32 0#32 0#32 0#32 = none ∧ lenOf 0x3#32 = none ∧ lenOf 0x20E#32 = some 16 := by decide

/-- The first word of an instruction stands at the lowest address, each word least significant byte first. -/
theorem test_decode_table_word :
    decodeTableWord 96 0x64000028338000106D = some (.cmp (alu 2 103 20 0 (.imm 100#32))) ∧
    wordBytes (encode (.step (base 0 0 0 0))) = [0x08#8, 0x06#8, 0#8, 0#8, 0#8, 0#8, 0#8, 0#8] := by decide

/-! ## A small machine

Core 0 runs a team of context 0 whose first group has the lanes `ls` of a packet at address 0; page 0 of the context is mapped
readable, writable and executable at physical address 0x10_0000, as `State.withFetchWord` leaves it. -/

def loaded : State := { State.reset.withFetchWord 64 0 with agenda := [] }

def packet (ls : List Nat := [0]) (len : Nat := 8) : Packet :=
  { core := 0, team := 0, pc := 0#64, len := len, thrs := ls.map (fun l => (0, l)), base := loaded.nextId }

def lane (l : Nat) : ThrRef := { team := 0, gid := 0, lane := l }

def maskOf (ls : List Nat) : LaneMask := ls.foldl (fun m l => m ||| (1#32 <<< l)) 0#32

/-- The registers of a thread, by number and value. -/
def regs (vs : List (Nat × Word32)) : Tab VReg := vs.map (fun x => (x.1, { val := x.2 }))

/-- The machine with threads of the lanes given, each with its registers, about to execute an instruction. -/
def world (ths : List (Nat × Thread)) (ss : Tab Word64 := []) (len : Nat := 8) : State :=
  { loaded with
    threads := ths.map (fun x => (thrKey (lane x.1), x.2))
    groups := [(grpKey 0 0, { exm := maskOf (ths.map (·.1)), live := maskOf (ths.map (·.1)), s := ss })]
    cur := some (packet (ths.map (·.1)) len) }

/-- One thread, in lane 0. -/
def one (vs : List (Nat × Word32) := []) (ss : Tab Word64 := []) : State := world [(0, { v := regs vs })] ss

/-- The state after an instruction. -/
def after (i : Instr) (s : State) : State := match exec i s with | .next t => t | _ => { s with nextId := 0 }

/-- What a register of a lane holds after an instruction. -/
def gives (i : Instr) (s : State) (n : Nat) (l : Nat := 0) : Word32 := regVal (thrOf (after i s) (lane l)) n

/-- Whether an instruction answers a next state. -/
def isNext : Host.Outcome State Fault Refusal → Bool
  | .next _ => true
  | _ => false

/-! ## The first step of a word placed by `State.withFetchWord` -/

/-- `IADD v5,v6,0x100` runs, and the words of an unassigned opcode raise ILLOP, for which the team has declared a handler. -/
theorem test_step_runs_the_placed_word :
    (match step (State.reset.withFetchWord 96 0x10000000C028000000D) with
     | .next t => (regVal (thrOf t (lane 0)) 5, (thrOf t (lane 0)).pc)
     | _ => (0#32, 0#64)) = (0x100#32, 12#64) ∧
    (match step (State.reset.withFetchWord 64 0x78) with
     | .next t => ((thrOf t (lane 0)).trapcode, (thrOf t (lane 0)).pc, (thrOf t (lane 0)).mode)
     | _ => (0#32, 0#64, .save)) = (1#32, 0x8000#64, .trap) := by decide +kernel

/-! ## The hypotheses of the obligations, as tests -/

def meets (o : Opnds) (all : Bool) (mm : LaneMask) (s : State) (p : Packet) (gid : Nat) (parts present : List Nat) : Bool :=
  s.cur == some p && regsOk o (teamOf s p.team).hdr.regs && decide (gid < 32) && p.refs != [] && decide p.refs.Nodup
  && (grpOf s p.team gid).sld == none
  && p.refs.all (fun r => r.gid == gid && parts.contains r.lane && (thrOf s r).pc == p.pc
    && parts == lanesOf (participants (grpOf s p.team gid) (thrOf s r).mode all mm)
    && (regOf (thrOf s r) o.g.gr.toNat).full && !(regOf (thrOf s r) o.g.gr.toNat).poison
    && (!guardBit (thrOf s r) o.g || missing o (thrOf s r) == []))
  && parts.all (fun l => p.refs.contains (atLane p gid l) || (arrivedAt (thrOf s (atLane p gid l)) p.pc).isSome)
  && present == parts.filter (guardAt o s p gid)
  && present.all (fun l => stepSeven o (isUser (teamOf s p.team)) (thrOf s (atLane p gid l)) == none)

theorem meeting_of {o : Opnds} {all : Bool} {mm : LaneMask} {s : State} {p : Packet} {gid : Nat} {parts present : List Nat}
    (h : meets o all mm s p gid parts present = true) : Meeting o all mm s p gid parts present := by
  simp only [meets, Bool.and_eq_true, beq_iff_eq, bne_iff_ne, decide_eq_true_eq, List.all_eq_true, List.contains_iff_mem,
    Bool.or_eq_true, Bool.not_eq_true'] at h
  obtain ⟨⟨⟨⟨⟨⟨⟨⟨⟨h1, h2⟩, h3⟩, h4⟩, h5⟩, h6⟩, h7⟩, h8⟩, h9⟩, h10⟩ := h
  refine ⟨h1, h2, h3, h4, h5, h6, ?_, h8, h9, h10⟩
  intro r hr
  obtain ⟨⟨⟨⟨⟨⟨a, b⟩, c⟩, d⟩, e⟩, f⟩, g⟩ := h7 r hr
  exact ⟨a, b, c, d, e, f, fun hg => by rcases g with g | g <;> simp_all⟩

/-- A release that has nothing to wait for: no access of the thread is in flight, its core holds no line of the set, and at SYSTEM
scope the PCIe link is down; or one that waited, at whose end nothing is on its way any more. -/
def releases (s : State) (r : ThrRef) (scope : Nat) (cover : Option (List (Nat × Nat))) : Bool :=
  !(thrOf s r).linklost && match (thrOf s r).rel with
  | none => (reqsOf s r).isEmpty && (coveredLines s (thrCore s r) (thrCtx s r) cover).isEmpty && (backsOf s (thrCore s r)).isEmpty
      && (decide (scope < 5) || !s.pcieUp)
  | some w => idsDone s w.ids && (decide (scope < 5) || w.flushed)

theorem ends_free {s : State} {r : ThrRef} {scope : Nat} {fl : Bool} (hl : (thrOf s r).linklost = false)
    (h : scope < 5 ∨ fl = true ∨ s.pcieUp = false) : releaseEnds s r scope fl = .done (freed s r) := by
  have e : (if scSystem ≤ scope ∧ !fl then flushRead s (thrCore s r) else ([], s)) = ([], s) := by
    split
    · rename_i hc
      have h5 : ¬scope < 5 := Nat.not_lt.mpr hc.1
      have hf : fl = false := by simpa using hc.2
      simp_all [flushRead]
    · rfl
  unfold releaseEnds
  rw [e]
  simp [hl, freed]

theorem released {s : State} {r : ThrRef} {scope : Nat} {cover : Option (List (Nat × Nat))} (h : releases s r scope cover = true) :
    Freed s r scope cover := by
  simp only [releases, Bool.and_eq_true, Bool.not_eq_true'] at h
  obtain ⟨hl, h⟩ := h
  unfold Freed release
  split at h <;> rename_i hr <;> simp only [hr]
  · simp only [Bool.and_eq_true, List.isEmpty_iff, Bool.or_eq_true, decide_eq_true_eq, Bool.not_eq_true'] at h
    obtain ⟨⟨⟨h1, h2⟩, h3⟩, h4⟩ := h
    by_cases hs : scope < scCluster <;> simp [h1, h2, h3, hs] <;> exact ends_free hl (h4.imp id .inr)
  · simp only [Bool.and_eq_true, Bool.or_eq_true, decide_eq_true_eq] at h
    rw [if_pos h.1]
    exact ends_free hl (h.2.imp id .inl)

/-- The releases of threads of distinct lanes, none with anything to wait for, end one after another. -/
theorem lanes_released {p : Packet} {gid scope : Nat} {cover : Option (List (Nat × Nat))} (lanes : List Nat) (u : State)
    (hk : (lanes.map (fun l => thrKey (atLane p gid l))).Nodup) (h : ∀ l ∈ lanes, releases u (atLane p gid l) scope cover = true) :
    ∃ v, releaseLanes p gid scope cover lanes u .done = .done v := by
  induction lanes generalizing u with
  | nil => exact ⟨u, rfl⟩
  | cons l r ih =>
    have hl : release u (laneRef p gid l) scope cover = .done (freed u (atLane p gid l)) := released (h l (by simp))
    rw [releaseLanes, hl]
    rw [List.map_cons, List.nodup_cons] at hk
    refine ih _ hk.2 fun m hm => ?_
    have hne : thrKey (atLane p gid m) ≠ thrKey (atLane p gid l) := fun e => hk.1 (e ▸ List.mem_map_of_mem hm)
    have ht : thrOf (freed u (atLane p gid l)) (atLane p gid m) = thrOf u (atLane p gid m) := thrOf_modThr_ne u _ _ _ hne
    have hr := h m (by simp [hm])
    simp only [releases, ht] at hr ⊢
    exact hr

/-- An access that its checks let through, to a line that the core does not hold, of a page that is not host-uncached and not
poisoned, in a thread that has nothing to release in `cover`. -/
abbrev Through (s : State) (p : Packet) (r : ThrRef) (va : Word64) (w : Nat) (a : Acc) (scope : Nat := 0)
    (cover : Option (List (Nat × Nat)) := some []) : Prop :=
  ∃ x t, Reaches s t p r va w a x ∧ l1Of t p.core (x.pa / 128) = {} ∧ leafContract x.leaf ≠ 4 ∧
    poisoned t (x.pa / 128) (wordMask (x.pa % 128) w) = false ∧ Freed t r scope cover

def reach (s : State) (p : Packet) (r : ThrRef) (va : Word64) (w : Nat) (a : Acc) (scope : Nat := 0)
    (cover : Option (List (Nat × Nat)) := some []) : Bool :=
  match checkGlobal s p.core (thrCtx s r) va w a with
  | .ok x t => !lineBusy t p (x.pa / 128) && (thrOf t r).mon != .arming (x.pa / 128) && thrOf t r == thrOf s r && t.cur == s.cur
      && t.now == s.now && decide (p.base ≤ t.nextId) && t.reqs.all (fun e => decide (e.1 < p.base))
      && l1Of t p.core (x.pa / 128) == {} && leafContract x.leaf != 4 && !poisoned t (x.pa / 128) (wordMask (x.pa % 128) w)
      && releases t r scope cover
  | _ => false

theorem through {s : State} {p : Packet} {r : ThrRef} {va : Word64} {w : Nat} {a : Acc} {scope : Nat}
    {cover : Option (List (Nat × Nat))} (h : reach s p r va w a scope cover = true) : Through s p r va w a scope cover := by
  unfold reach at h
  split at h
  · rename_i x t e
    simp only [Bool.and_eq_true, beq_iff_eq, bne_iff_ne, decide_eq_true_eq, List.all_eq_true, Bool.not_eq_true'] at h
    obtain ⟨⟨⟨⟨⟨⟨⟨⟨⟨⟨h1, h2⟩, h3⟩, h4⟩, h5⟩, h6⟩, h7⟩, h8⟩, h9⟩, h10⟩, h11⟩ := h
    exact ⟨x, t, ⟨e, h1, h2, h3, h4, h5, h6, h7⟩, h8, h9, h10, released h11⟩
  · cases h

/-! ## Single steps: classes 0 to 2 -/

/-- Wrap, the clamp of SAT, shifts of the width or more, and the fields (R146, R149). -/
theorem test_integer_values :
    gives (.iadd (alu 0 5 6 7)) (one [(6, 0xFFFFFFFF#32), (7, 1#32)]) 5 = 0#32 ∧
    gives (.iadd (alu 0 5 6 7 (.pfx (pfx 0 0 true)))) (one [(6, 0x7FFFFFFF#32), (7, 1#32)]) 5 = 0x7FFFFFFF#32 ∧
    gives (.isub (alu 1 5 6 7 (.pfx (pfx 0 0 true)))) (one [(6, 1#32), (7, 2#32)]) 5 = 0#32 ∧
    gives (.imul (alu 2 5 6 7)) (one [(6, 0x80000000#32), (7, 2#32)]) 5 = 0xFFFFFFFF#32 ∧
    gives (.imul (alu 3 5 6 7)) (one [(6, 0x80000000#32), (7, 2#32)]) 5 = 1#32 ∧
    gives (.iabs (alu 0 5 6 0)) (one [(6, 0x80000000#32)]) 5 = 0x80000000#32 ∧
    gives (.shl (alu 0 5 6 7)) (one [(6, 1#32), (7, 32#32)]) 5 = 0#32 ∧
    gives (.shr (alu 1 5 6 7)) (one [(6, 0x80000000#32), (7, 40#32)]) 5 = 0xFFFFFFFF#32 ∧
    gives (.bfe (alu 1 5 6 7)) (one [(6, 0xF0#32), (7, 0x404#32)]) 5 = 0xFFFFFFFF#32 ∧
    gives (.bfi (alu 0 5 6 7 (.pfx (pfx 0 8)))) (one [(6, 0xAB#32), (7, 0x41E#32), (8, 0#32)]) 5 = 0xC0000000#32 ∧
    gives (.brev (alu 0 5 6 0)) (one [(6, 1#32)]) 5 = 0x80000000#32 ∧
    gives (.popc (alu 0 5 6 0)) (one [(6, 0xF0F0#32)]) 5 = 8#32 ∧ gives (.clz (alu 0 5 6 0)) (one [(6, 0#32)]) 5 = 32#32 := by
  decide +kernel

/-- A bit destination keeps the other bits (R151); `v0` discards a write and reads as all ones (R32); a guard of 0 skips (R33). -/
theorem test_bits_and_guards :
    gives (.cmp (alu 2 103 20 0 (.imm 100#32))) (one [(7, 0xF0#32), (20, 0xFFFFFFFF#32)]) 7 = 0xF8#32 ∧
    gives (.bop (alu 3 103 4 5)) (one [(4, 1#32), (5, 1#32), (7, 8#32)]) 7 = 0#32 ∧
    gives (.mov (alu 0 0 6 0)) (one [(6, 5#32)]) 0 = 0xFFFFFFFF#32 ∧
    gives (.mov { alu 0 5 6 0 with g := { always with gn := true } }) (one [(5, 1#32), (6, 9#32)]) 5 = 1#32 ∧
    (thrOf (after (.mov { alu 0 5 6 0 with g := { always with gn := true } }) (one [(6, 9#32)])) (lane 0)).pc = 8#64 := by
  decide +kernel

/-- The result of an asynchronous form in flight. -/
def flying (i : Instr) (s : State) : Option (Word32 × BitVec 5) := (after i s).asyncs.head?.map (fun x => (x.2.val, x.2.flags))

/-- R148 at its corners, and R154 for a quotient by zero: DZ, and infinity. -/
theorem test_division :
    flying (.idiv (alu 0 5 6 7)) (one [(6, 0x80000000#32), (7, 0xFFFFFFFF#32)]) = some (0x80000000#32, 0#5) ∧
    flying (.irem (alu 0 5 6 7)) (one [(6, 0xFFFFFFF9#32), (7, 4#32)]) = some (0xFFFFFFFD#32, 0#5) ∧
    flying (.idiv (alu 0 5 6 7)) (one [(6, 7#32), (7, 0#32)]) = some (0xFFFFFFFF#32, 0#5) ∧
    flying (.fdiv (alu 0 5 6 7)) (one [(6, 0x3F800000#32), (7, 0x80000000#32)]) = some (0xFF800000#32, 8#5) := by decide +kernel

/-- FP32: 2 × 3 + 1, a tie to even with its flag, ordered zeros, the class of −0, and the generator's example in file 05. -/
theorem test_float_values :
    gives (.ffma (alu 0 5 6 7 (.pfx (pfx 0 8)))) (one [(6, 0x40000000#32), (7, 0x40400000#32), (8, 0x3F800000#32)]) 5 = 0x40E00000#32 ∧
    gives (.fadd (alu 0 5 6 7)) (one [(6, 0x3F800000#32), (7, 0x33800000#32)]) 5 = 0x3F800000#32 ∧
    (thrOf (after (.fadd (alu 0 5 6 7)) (one [(6, 0x3F800000#32), (7, 0x33800000#32)])) (lane 0)).fpc = 0x401#32 ∧
    gives (.fmin (alu 0 5 6 7)) (one [(6, 0#32), (7, 0x80000000#32)]) 5 = 0x80000000#32 ∧
    gives (.fclass (alu 0 5 6 0)) (one [(6, 0x80000000#32)]) 5 = 8#32 ∧
    gives (.hadd2 (alu 0 5 6 7)) (one [(6, 0x3C003C00#32), (7, 0x3C00BC00#32)]) 5 = 0x40000000#32 ∧
    gives (.rngF (alu 1 30 0 0)) (world [(0, { rng := 1#64 })]) 30 = 0x3E8FC99C#32 := by decide +kernel

/-! ## Single steps: control, the group and memory -/

/-- `TRAP 17` enters the handler, `RFT` returns, `SYSCALL` waits, and a user's `RDSYS` raises PRIV (R372, R380 to R383). -/
theorem test_exceptions :
    (let th := thrOf (after (.trap (base 0 0 17 0)) (one [])) (lane 0)
     (th.mode, th.pc, th.trapcode, th.trappc) = (.trap, 0x8000#64, 0x110014#32, 8#64)) ∧
    (let th := thrOf (after (.rft (base 0 0 0 0)) (world [(0, { mode := .trap, trappc := 0x40#64 })])) (lane 0)
     (th.mode, th.pc) = (.normal, 0x40#64)) ∧
    (let th := thrOf (after (.syscall (base 0 0 3 0)) (one [])) (lane 0)
     ((match th.stat with | .faultWait _ a => a | _ => false), th.pc) = (true, 8#64)) ∧
    (let th := thrOf (after (.rdsys (base 0 10 0 0) 8) { one [] with teams := [(0, { probeTeam with ctx := 1 })] }) (lane 0)
     (th.mode, th.trapcode, th.trappc) = (.trap, 4#32, 0#64)) := by decide +kernel

/-- `WRSR` of `%fpc` stores the default rounding for code 0 and nothing in reserved bits (R139); a branch and a call (R163). -/
theorem test_control :
    (thrOf (after (.wrsr (base 0 0x20 6 0)) (one [(6, 0xFFFFC000#32)])) (lane 0)).fpc = 0x400#32 ∧
    (thrOf (after (.bra (base 0 0 0 0) 0xFFFFFFF8#32) (one [])) (lane 0)).pc = 0xFFFFFFFFFFFFFFF8#64 ∧
    gives (.call (base 0 0 0 0) 0x40#32) (world [(0, {})] [] 12) 2 = 12#32 := by decide +kernel

/-- Two lanes: votes, exchanges, reductions and the uniform forms (R181 to R190). -/
theorem test_group_forms :
    let two := world [(0, { v := regs [(6, 5#32)] }), (1, { v := regs [(6, 7#32)] })] [(4, 1#64), (5, 0xFFFFFFFFFFFFFFFF#64)]
    gives (.xlane (base 11 5 6 1) none) two 5 0 = 7#32 ∧ gives (.xlane (base 10 5 6 1) none) two 5 1 = 7#32 ∧
    gives (.vote (base 2 5 38 0) none) two 5 1 = 2#32 ∧ gives (.gred (base 0 5 6 0) none) two 5 1 = 12#32 ∧
    gives (.scan (base 8 5 6 0) none) two 5 1 = 5#32 ∧
    sregOf (grpOf (after (.sadd (base 0 8 4 5) none) two) 0 0) 8 = 0#64 ∧
    sregOf (grpOf (after (.v2s (base 0 8 6 1)) two) 0 0) 8 = 7#64 := by decide +kernel

/-- A load whose line no core holds asks its home and empties its destination (R211, R225); the bytes of a buffer (R226). -/
theorem test_memory :
    (let t := after (.ld (base 0 20 4 0) (mw 2 0x40) none) (one [] [(4, 0x1000#64)])
     (t.reqs.map (fun e => (e.2.kind, e.2.line)), (regOf (thrOf t (lane 0)) 20).full) = ([(.read, 0x101040 / 128)], false)) ∧
    bufNat (teamOf (after (.sta (base 0 6 4 0) (mw 2) none) (one [(6, 0x11223344#32)] [(4, 0#64)])) 0).abuf 0 2 = 0x3344 := by
  decide +kernel

/-! ## Single steps: barriers, power, links and memories -/

/-- `BAR.INIT b1, 0x102`; the last arrival of a cyclic barrier of one group moves its phase on and arms it again (R284, R287);
`MWAIT` without a monitor answers 3 (R300). -/
theorem test_barriers :
    (let x := barOf (teamOf (after (.barInit (base 0 0 1 0) (some 0x102#32)) (one [])) 0) 1
     (x.state, x.exp, x.cyc, x.arr)) = (.armed, 2, true, 0) ∧
    (let s := after (.barInit (base 0 0 1 0) (some 0x101#32)) (one [])
     let x := barOf (teamOf (after (.barArrive (base 1 0 1 0)) { s with cur := some (packet) }) 0) 1
     (x.state, x.phase, x.arr, x.exp)) = (.armed, 1#16, 0, 1) ∧
    gives (.mwait (base 0 9 0 0)) (one []) 9 = 3#32 := by decide +kernel

/-- `SETBOUND 5` clamps to 20, `SETALARM` of tower 3 to 105, both with status 0 and vector 3 (R459, R461). -/
theorem test_mailbox :
    (let t := after (.setbound 5#64) State.reset; (t.damper.bound, t.kiln.status, t.msix)) = (20, 0#8, [(0, 3)]) ∧
    (towerOf (after (.setalarm 0xFF03#64) State.reset) 3).alarm = 105#8 ∧
    (after (.setbound 0x10000#64) State.reset).kiln.status = 1#8 := by decide +kernel

/-- Five teams of load 50 under B = 120 and T = 0: boundary by boundary two are granted, then two, then one (file 18's example). -/
theorem test_damper :
    (let req := fun n => (⟨n, .admission n, 50, false, 41, false, n, n, none, n⟩ : DamperReq)
     let d := { State.reset.damper with reqs := [req 1, req 2, req 3, req 4, req 5] }
     let g := boundaryGrants d 0
     let h := boundaryGrants { d with reqs := [req 3, req 4, req 5], t := 100 } 100
     (g.1.length, g.2.1, h.1.length, h.2.1)) = (2, 100, 2, 200) := by decide +kernel

/-- A module of a tower's edge pauses from ACTIVE and refuses RESUME there (R421, R422, R424). -/
theorem test_link_commands :
    (linkAt (after (.linkPause (towerBlk 0 0 0)) State.reset) (towerBlk 0 0 0)).state = .pausing ∧
    (linkAt (after (.linkResume (towerBlk 0 0 0)) State.reset) (towerBlk 0 0 0)).err = 8#4 := by decide +kernel

/-- A token byte is kept; the identity of the life cycle that reset gives permits no commissioning (R467). -/
theorem test_life_cycle :
    (after (.tkdata 7#8) State.reset).kiln.token = [7#8] ∧ (after .lcCommission State.reset).kiln.lcresult = 3#2 := by decide +kernel

/-- Writing what an unlisted address reads as removes the entry; the keys rise. -/
theorem test_memory_is_canonical :
    memWriteN (memWriteN [] 9 [1#8, 2#8]) 3 [5#8] = [(3, 5#8), (9, 1#8), (10, 2#8)] ∧
    memWriteN (memWriteN [] 9 [1#8, 2#8]) 9 [0#8] = [(10, 2#8)] ∧ memBlank 9 = 0#8 := by decide +kernel

/-- The one-block example that FIPS 180-4's examples give for SHA-256: the digest of "abc" (log entry 101). -/
theorem test_sha256 : leNat (sha256 [0x61#8, 0x62#8, 0x63#8]).reverse =
    0xBA7816BF8F01CFEA414140DE5DAE2223B00361A396177A9CB410FF61F20015AD := by decide +kernel

/-! ## Witnesses: states and operands that meet the hypotheses of the obligations -/

def skipping : Guard := { always with gn := true }

/-- The forms of the obligations on classes 0 to 2 run on two lanes, also where the guard skips them. -/
theorem witness_integer_sums_and_products :
    ∀ f ∈ [alu 0 5 6 7, alu 4 8 10 12, alu 1 5 6 7 (.pfx (pfx 0 9 true)), { alu 0 5 6 7 with g := skipping }],
      ∀ u ∈ [wUse f, { kd := if mdW f then 2 else 1 }, { kc := 1, kd := if mdW f then 2 else 1 }, { kb := 0 }],
        Runs (aluOpnds u f) (world [(0, {}), (31, {})]) (packet [0, 31]) := by unfold Runs; decide +kernel

theorem witness_integer_select_and_logic :
    ∀ f ∈ [alu 0 5 6 7 (.pfx (pfx 0 9)), alu 0 5 6 0 (.pfxImm (pfx 0 9) 0xB8#32)],
      (∀ u ∈ [{ kc := 1 }, {}, wUse f, { kb := 0 }, { kb := 0, kc := 1, old := true }], Runs (aluOpnds u f) (one []) packet) ∧
      (∀ i, i ∈ [0, 31] → i < 32) ∧ (alu 0 5 6 0 (.pfxImm (pfx 0 9) 0xB8#32)).ext.immOf = some 0xB8#32 := by
  unfold Runs; decide +kernel

theorem witness_integer_shifts_and_fields :
    ∀ f ∈ [alu 0 5 6 7, alu 5 8 10 12], ∀ u ∈ [wUse f, {}, { kc := 1 }, { kb := 0 }], Runs (aluOpnds u f) (one []) packet := by
  unfold Runs; decide +kernel

theorem witness_generator_forms :
    ∀ f ∈ [alu 0 6 8 0], ∀ u ∈ [{ ka := 0, kb := 0 }, { ka := 0, kb := 0, kd := 2 }, { ka := 2, kb := 0, kd := 0 }, { ka := 2, kd := 0 }],
      Runs (aluOpnds u f) (one []) packet := by unfold Runs; decide +kernel

theorem witness_integer_moves_bits_and_bytes :
    (∀ f ∈ [alu 0 5 6 7, alu 1 8 6 0, alu 0 5 0 0 (.imm 3#32)], ∀ u ∈ [{ ka := 0, kb := 0, kd := 0 }, { ka := 2, kb := 0, kd := 2 },
      { ka := 0, kb := 1, kd := 1 }, { kb := 0 }, { kc := 1 }, { kbit := 1 }, { ka := 2, kd := 2 }],
      Runs (aluOpnds u f) (one []) packet) ∧
    (alu 0 5 0 0 (.imm 3#32)).ext.immOf = some 3#32 ∧ (alu 0 5 6 0).ext.immOf = none ∧
    Runs { g := always, dsts := [22, 23] } (one []) packet ∧
    (let f := alu 3 103 38 39
     Runs { aluOpnds { ka := 0, kb := 0, kbit := 1 } f with srcs := [(f.sa.toNat % 32, f.ta), (f.sb.toNat % 32, f.tb)] } (one []) packet) := by
  unfold Runs; decide +kernel

/-- A quotient in flight to a thread that waits for it, to one that has exited, into a ratio stop, and to one whose registers move. -/
theorem witness_asynchronous_results_arrive :
    let a : Async := { thr := lane 0, dst := 5, val := 7#32, flags := 1#5 }
    let q := fun (x : Option Nat) => [(0, ({ gated := false, stopUntil := x } : Quad))]
    (∀ st ∈ [Stat.waiting .result, .exited], let s := { world [(0, { stat := st })] with asyncs := [(3, a)] }
      tget s.asyncs 3 = some a ∧ (quadOf s (coreQuad (thrCore s a.thr))).stopUntil = none ∧ (thrOf s a.thr).res ≠ .movingOut ∧
      (thrOf s a.thr).res ≠ .recalling ∧ (thrOf s a.thr).stat = st) ∧
    (let s := { one [] with asyncs := [(3, a)], quads := q (some 9) }
     tget s.asyncs 3 = some a ∧ (quadOf s (coreQuad (thrCore s a.thr))).stopUntil ≠ none) ∧
    ∀ r ∈ [Residence.movingOut, .recalling], let s := { world [(0, { res := r })] with asyncs := [(3, a)] }
      tget s.asyncs 3 = some a ∧ (quadOf s (coreQuad (thrCore s a.thr))).stopUntil = none ∧ (thrOf s a.thr).res = r := by decide +kernel

/-- Operands without a flag to trap: 1 + 1, and one with the traps on. -/
theorem witness_float_arithmetic :
    let s := one [(6, 0x3F800000#32), (7, 0x3F800000#32), (8, 0x3F800000#32)]
    ∀ f ∈ [alu 0 5 6 7 (.pfx (pfx 0 8)), alu 1 5 6 7 (.pfx (pfx 6 8))], ∀ u ∈ [({} : AluUse), { kc := 1 }, { kb := 0 }],
      Runs (aluOpnds u f) s packet ∧ (∀ r ∈ packet.refs, maskBit (thrOf s r) f = true →
        (roundedOnce f (fun rc a b _ => addRes rc a b) (thrOf s r) (opA u f s r) (opB u f s r) (opC u f s r)).flags
          &&& fpcTraps (thrOf s r).fpc = 0#5 ∧
        (roundedPair f (fun rc a b _ => addRes rc a b) (thrOf s r) (opA u f s r) (opB u f s r) (opC u f s r)).flags
          &&& fpcTraps (thrOf s r).fpc = 0#5) := by unfold Runs; decide +kernel

theorem witness_float_selection_tests_and_conversions :
    let s := one [(6, 0x3F800000#32), (7, 0xC0000000#32)]
    (∀ f ∈ [alu 0 5 6 7], ∀ u ∈ [({} : AluUse), { kbit := 1 }, { kbit := 2 }, { kb := 0 }, { kb := 0, kd := 2 }],
      Runs (aluOpnds u f) s packet ∧ (∀ r ∈ packet.refs,
        (cvtOp f (thrOf s r) (opA u f s r) (opB u f s r) (opC u f s r)).flags &&& fpcTraps (thrOf s r).fpc = 0#5)) ∧
    (0x80000000 : Nat) < 2 ^ 32 ∧ isNan (fp32.read 0x80000000) = false := by unfold Runs; decide +kernel

/-- Each kind of use, in a thread that has no trap enabled. -/
theorem witness_untrapped_forms_complete :
    ∀ f ∈ [alu 0 6 8 10], ∀ u ∈ [({} : AluUse), { kbit := 1 }, { kbit := 2 }, { kb := 0 }, { kb := 0, kd := 2 }, { kc := 1 }, { ka := 0, kb := 0 },
      { ka := 0, kb := 0, kd := 2 }, { ka := 2, kb := 0, kd := 0 }, { ka := 2, kd := 0 }],
      Runs (aluOpnds u f) (one []) packet ∧ ∀ r ∈ packet.refs, fpcTraps (thrOf (one []) r).fpc = 0#5 := by unfold Runs; decide +kernel

theorem witness_asynchronous_forms_are_launched :
    let s := one [(6, 0x3F800000#32), (7, 0x40000000#32)]
    ∀ f ∈ [alu 0 5 6 7], ∀ u ∈ [({} : AluUse), { kb := 0 }], Runs (aluOpnds u f) s packet ∧
      (∀ r ∈ packet.refs, maskBit (thrOf s r) f = true → (roundedOnce f (fun _ x y _ => divRes x y) (thrOf s r) (opA u f s r)
        (opB u f s r) 0#64).flags &&& fpcTraps (thrOf s r).fpc = 0#5) := by unfold Runs; decide +kernel

theorem witness_branches_and_calls :
    let s := one [(4, 0x40#32), (5, 0#32)] [(3, 0x80#64)]
    let rel : Word64 := 0#64 + (0xFFFFFFFC#32).signExtend 64
    rel.toNat % 4 = 0 ∧ Runs { g := always } s packet ∧ Runs { g := always, dsts := [2, 3] } s packet ∧
    Runs { g := always, srcs := [(4, false), (5, false)] } s packet ∧ Runs { g := always, srcs := [(4, false), (5, false)], dsts := [2, 3] } s packet ∧
    ∀ r ∈ packet.refs, (pairVal (thrOf s r) 4).toNat % 4 = 0 ∧ (thrSreg s r 3).toNat % 4 = 0 := by unfold Runs; decide +kernel

/-- Two lanes meet: one is in the packet, the other has arrived before, or skips. -/
def pair (th0 th1 : Thread) (ls : List Nat := [0, 1]) : State :=
  { world [(0, th0), (1, th1)] [(4, 1#64), (8, 2#64)] with cur := some (packet ls) }

def arrived (guard all : Bool) (mm : LaneMask) : Stat := .waiting (.rendezvous guard all mm none)

theorem witness_lane_exchange_and_votes :
    Meeting (baseOpnds (base 11 5 6 1) 1 0 1) false 0xFFFFFFFF#32 (pair {} {}) (packet [0, 1]) 0 [0, 1] [0, 1] ∧
    Meeting (baseOpnds (base 6 6 8 10) 2 1 2) false 0xFFFFFFFF#32 (pair {} {}) (packet [0, 1]) 0 [0, 1] [0, 1] ∧
    Meeting { g := always, srcs := [(6, false)], dsts := [5] } false 2#32 (pair {} {} [1]) (packet [1]) 0 [1] [1] ∧
    Meeting (baseOpnds (base 3 5 6 0) 1 0 1) false 0xFFFFFFFF#32 (pair {} { stat := arrived false false 0xFFFFFFFF#32 } [0]) (packet [0]) 0
      [0, 1] [0] :=
  ⟨meeting_of (by decide +kernel), meeting_of (by decide +kernel), meeting_of (by decide +kernel), meeting_of (by decide +kernel)⟩

theorem witness_special_registers :
    Runs { g := always, dsts := [32, 33] } (one []) packet ∧ Runs { g := always, dsts := [5] } (one []) packet ∧
    Alone { g := always, srcs := [(6, false)] } (one []) packet (lane 0) ∧
    Alone { g := always, srcs := [(6, false), (7, false)] } (one []) packet (lane 0) ∧ Alone { g := always } (one []) packet (lane 0) ∧
    (∀ n ∈ [0x020, 0x021, 0x030, 0x037, 0x041, 0x046], srWritable n = true) ∧
    -- a clock that runs, one that is gated and one in a ratio stop
    (let q := fun (x : Quad) => quadOf { one [] with quads := [(0, x)] } (coreQuad (teamOf (one []) 0).core)
     ((q { gated := false }).gated = false ∧ (q { gated := false }).stopUntil = none ∧ (q { gated := false }).clkSince ≤ (one []).now) ∧
     (q {}).gated = true ∧ (q { gated := false, stopUntil := some 1 }).stopUntil ≠ none) := by unfold Runs Alone; decide +kernel

theorem witness_exit_and_safe_points :
    Alone { g := always } (one []) packet (lane 0) ∧
    (let s := pair {} {} [0]
     Alone { g := always } s (packet [0]) (lane 0) ∧ (thrOf s (lane 0)).linklost = false ∧
     (grpOf s 0 0).live &&& ~~~(1#32 <<< (lane 0).lane) ≠ 0#32) ∧
    (Runs { g := skipping } (one []) packet ∧ ∀ r ∈ packet.refs, skips { g := skipping } (one []) r = true) ∧
    (let s := world [(0, { stat := .exited })]
     (thrOf s (lane 0)).stat = .exited ∧ returnsOut s (lane 0) = false ∧ s.asyncs = [] ∧
     (let u := { s with groups := [(grpKey 0 0, { state := .exited })] }
      (grpOf u 0 0).state = .exited ∧
        ∀ e ∈ u.threads, e.1 / 32 = grpKey 0 0 → e.1 = thrKey (lane 0))) ∧
    (Runs { g := always } (one []) packet ∧ ∀ r ∈ packet.refs, (teamOf (one []) r.team).state ≠ .saving ∨ (thrOf (one []) r).mode ≠ .normal) ∧
    (let sp : SafePt := { pc := 0, save := 0x100, rest := 0x200 }
     let s := { one [] with teams := [(0, { probeTeam with state := .saving, hdr := { probeTeam.hdr with nsp := 2, safepts := [(1, sp)] } })] }
     Alone { g := always } s packet (lane 0) ∧ (teamOf s 0).state = .saving ∧ (thrOf s (lane 0)).mode = .normal ∧
     1 < (teamOf s 0).hdr.nsp ∧ tget (teamOf s 0).hdr.safepts 1 = some sp ∧
     packet.pc = (teamOf s 0).hdr.addr + BitVec.ofNat 64 sp.pc ∧ (thrOf s (lane 0)).stat = .ready ∧
     (thrOf s (lane 0)).v.all (fun e => e.2.full) = true ∧ drained s 0 = true) := by unfold Runs Alone; decide +kernel

theorem witness_group_reductions_and_synchronization :
    Meeting (baseOpnds (base 0 5 6 0) 1 0 1) false 0xFFFFFFFF#32 (pair {} {}) (packet [0, 1]) 0 [0, 1] [0, 1] ∧
    (base 7 5 6 0).md.toNat < 8 ∧ 8 ≤ (base 8 5 6 0).md.toNat ∧
    Meeting { g := always } false 0xFFFFFFFF#32 (pair {} {}) (packet [0, 1]) 0 [0, 1] [0, 1] ∧
    ∀ l < 32, reqsOf (pair {} {}) (atLane (packet [0, 1]) 0 l) = [] ∧ (thrOf (pair {} {}) (atLane (packet [0, 1]) 0 l)).linklost = false :=
  ⟨meeting_of (by decide +kernel), by decide, by decide, meeting_of (by decide +kernel), by decide +kernel⟩

theorem witness_uniform_forms :
    Meeting { g := always } false 0xFFFFFFFF#32 (pair {} {}) (packet [0, 1]) 0 [0, 1] [0, 1] ∧
    Runs (baseOpnds (base 1 4 5 0) 0 0 2) (one []) packet ∧ Runs (baseOpnds (base 2 4 5 0) 0 0 1) (one []) packet ∧
    Meeting { g := always, srcs := [(6, false), (7, false)] } false 0xFFFFFFFF#32 (pair {} {}) (packet [0, 1]) 0 [0, 1] [0, 1] ∧
    -- the lane named is present; it is not
    (1 ∈ [0, 1] ∧ 31 ∉ [0, 1]) ∧
    Meeting { g := always, srcs := [(6, false)] } true 0xFFFFFFFF#32 (pair {} {}) (packet [0, 1]) 0 [0, 1] [0, 1] :=
  ⟨meeting_of (by decide +kernel), by unfold Runs; decide +kernel, by unfold Runs; decide +kernel, meeting_of (by decide +kernel),
    by decide, meeting_of (by decide +kernel)⟩

/-! ### Memory and ordering -/

/-- A thread with its base in `s4` and `v4:v5`, at a mapped address. -/
def mem1 : State := one [(4, 0x1000#32), (5, 0#32), (6, 7#32)] [(4, 0x1000#64)]

/-- The same thread at the end of a release at SYSTEM scope: its flushing read is done. -/
def flushed1 : State := modThr mem1 (lane 0) (fun th => { th with rel := some { ids := [], flushed := true } })

/-- An access that its checks let through, where the line stands in L1 as `l`. -/
def standing (l : L1Line) : State := { mem1 with cores := [(0, { l1 := [(8224, l)] })] }

def reachHeld (s : State) (p : Packet) (r : ThrRef) (va : Word64) (w : Nat) (a : Acc) (l : L1Line) : Bool :=
  match checkGlobal s p.core (thrCtx s r) va w a with
  | .ok x t => !lineBusy t p (x.pa / 128) && (thrOf t r).mon != .arming (x.pa / 128) && thrOf t r == thrOf s r && t.cur == s.cur
      && t.now == s.now && decide (p.base ≤ t.nextId) && t.reqs.all (fun e => decide (e.1 < p.base))
      && leafContract x.leaf != 4 && x.pa / 128 == 8224 && x.pa % 128 == 0 && (tget (coreOf t p.core).l1 8224) == some l
  | _ => false

theorem reaches_held {s : State} {p : Packet} {r : ThrRef} {va : Word64} {w : Nat} {a : Acc} {l : L1Line}
    (h : reachHeld s p r va w a l = true) : ∃ x t, Reaches s t p r va w a x ∧ leafContract x.leaf ≠ 4 ∧ x.pa / 128 = 8224 ∧
      x.pa % 128 = 0 ∧ tget (coreOf t p.core).l1 8224 = some l ∧ t.now = s.now := by
  unfold reachHeld at h
  split at h
  · rename_i x t e
    simp only [Bool.and_eq_true, beq_iff_eq, bne_iff_ne, decide_eq_true_eq, List.all_eq_true, Bool.not_eq_true'] at h
    obtain ⟨⟨⟨⟨⟨⟨⟨⟨⟨⟨h1, h2⟩, h3⟩, h4⟩, h5⟩, h6⟩, h7⟩, h8⟩, h9⟩, h10⟩, h11⟩ := h
    exact ⟨x, t, ⟨e, h1, h2, h3, h4, h5, h6, h7⟩, h8, h9, h10, h11, h5⟩
  · cases h

/-- Lines of L1 that a load or a store hits: owned, and valid under a lease that has not run out or under none. -/
def hitLines : List L1Line := [{ own := 3#32 }, { valid := 1#32, expiry := some 1 }, { valid := 1#32 }]

theorem witness_accesses_hit :
    (∀ l ∈ hitLines, ∀ m ∈ [{ mw 2 with lease := 3 }, { mw 2 with ty := 1 }],
      (Alone (memOpnds (base 0 20 4 0) m 0 1) (standing l) packet (lane 0) ∧ Hits l (wordMask 0 4) (m.ty = 2#2) (standing l).now ∧
        ∃ x t, Reaches (standing l) t packet (lane 0) (effAddr (standing l) (lane 0) (base 0 20 4 0) m none) 4
          { read := true, strict := m.ty == 2#2, kind := 1 } x ∧ leafContract x.leaf ≠ 4 ∧ x.pa / 128 = 8224 ∧ x.pa % 128 = 0 ∧
          tget (coreOf t 0).l1 8224 = some l ∧ t.now = (standing l).now) ∧
      Alone { memOpnds (base 0 6 4 0) m 1 0 with dsts := [] } (standing l) packet (lane 0) ∧ m.ord ≠ 2#2 ∧ m.ty ≠ 3#2 ∧
        ∃ x t, Reaches (standing l) t packet (lane 0) (effAddr (standing l) (lane 0) (base 0 6 4 0) m none) 4
          { write := true, strict := m.ty == 2#2, kind := 2 } x ∧ leafContract x.leaf ≠ 4 ∧ x.pa / 128 = 8224 ∧ x.pa % 128 = 0 ∧
          tget (coreOf t 0).l1 8224 = some l ∧ t.now = (standing l).now) ∧
    Hits { own := 3#32 } (wordMask 0 4) True 0 := by
  refine ⟨fun l hl m hm => ⟨⟨?_, ?_, reaches_held ?_⟩, ?_, ?_, ?_, reaches_held ?_⟩, ?_⟩
  · revert l m; unfold Alone; decide +kernel
  · simp only [hitLines, List.mem_cons, List.not_mem_nil, or_false] at hl hm
    rcases hl with rfl | rfl | rfl <;> rcases hm with rfl | rfl <;> simp [Hits, wordMask] <;> decide
  · revert l m; decide +kernel
  · revert l m; unfold Alone; decide +kernel
  · revert m; decide +kernel
  · revert m; decide +kernel
  · revert l m; decide +kernel
  · unfold Hits; decide

/-- Every type of store, with and without a release, of each wider scope too. -/
theorem witness_stores_are_sent :
    ∀ x ∈ [({ mw 2 with lease := 3, ord := 2 }, mem1), ({ mw 2 with ord := 2, scope := 4 }, mem1), ({ mw 2 with ord := 2, scope := 5 }, flushed1),
        ({ mw 2 with ord := 2, scope := 5 }, { mem1 with pcieUp := false }), ({ mw 2 with ty := 1 }, mem1), ({ mw 2 with ty := 2 }, mem1),
        ({ mw 0 with ty := 3 }, mem1)],
      Alone { memOpnds (base 0 6 4 0) x.1 (widthRegs x.1.width) 0 with dsts := [] } x.2 packet (lane 0) ∧
      (let va := effAddr x.2 (lane 0) (base 0 6 4 0) x.1 none
       Through x.2 packet (lane 0) va (widthBytes x.1.width) { write := true, strict := x.1.ty == 2#2, kind := 2 } x.1.scope.toNat
        (lockCover x.2 (lane 0) va)) ∧
      (coreOf x.2 0).l1.length < 1024 := by
  intro x hx
  refine ⟨?_, through ?_, ?_⟩
  · revert x; unfold Alone; decide +kernel
  · revert x; decide +kernel
  · revert x; decide +kernel

/-- A compare and swap of 64 bits with acquire and release, and a reduction with release. -/
theorem witness_atomics_are_sent :
    let m := { mw 3 with ord := 3, scope := 5 }
    let n := { mw 2 with ord := 2, scope := 3 }
    (Alone (atomOpnds (base 9 8 4 12) m) flushed1 packet (lane 0) ∧ m.scope.toNat < 8 ∧
      let va := effAddr flushed1 (lane 0) (base 9 8 4 12) m none
      Through flushed1 packet (lane 0) va 8 { read := true, write := true, strict := true, kind := 3 } 5 (lockCover flushed1 (lane 0) va)) ∧
    (Alone { memOpnds (base 0 6 4 0) n 1 0 with dsts := [] } mem1 packet (lane 0) ∧ n.ord ≠ 1#2 ∧ n.ord ≠ 3#2 ∧
      let va := effAddr mem1 (lane 0) (base 0 6 4 0) n none
      Through mem1 packet (lane 0) va 4 { write := true, strict := true, kind := 3 } 3 (lockCover mem1 (lane 0) va)) :=
  ⟨⟨by unfold Alone; decide +kernel, by decide, through (by decide +kernel)⟩,
    by unfold Alone; decide +kernel, by decide, by decide, through (by decide +kernel)⟩

/-- An access of a core that has been performed, and one on its way. -/
def access (kind : ReqKind) (performed : Bool := false) (serve : Nat := 0) : Req :=
  { id := 3, kind := kind, core := 0, ctx := 0, line := 8224, vls := [(0, 32)], mask := 15#128, data := [(0, 1#8)], due := 0, serve := serve,
    performed := performed, leaf := 0x10006501f#64,
    parts := [{ thr := some (lane 0), off := 0, width := 4, dst := 5, got := if performed then some (7, false) else none }] }

def withReq (q : Req) : State := { one [] with reqs := [(q.id, q)], nextId := 4 }

theorem witness_loads_return :
    (∀ k ∈ [ReqKind.read, .uc, .atomic], ∀ v ∈ [0, 1], ∀ d ∈ [none, some 0], let q := { access k true v with dueClk := d }
      let s := { withReq q with now := 1 }
      tget s.reqs q.id = some q ∧ q.performed = true ∧ (∀ k ∈ d.toList, k ≤ coreClock s q.core) ∧ q.due ≤ s.now ∧
      (∃ y, q.parts = [y] ∧ y.thr = some (lane 0) ∧ y.sld = false ∧ y.got ≠ none) ∧
      returnHeld s (lane 0) = false ∧ isFar s (q.line * 128) = false ∧ pathReady s (reqPath s q) [] (backChans q) = true) ∧
    (let q := { access .read with lease := some (some 5), fetched := 3#32 }
     q.fetched ≠ 0#32 ∧ q.nokeep = 0#32 ∧ l1Of (withReq q) q.core q.line = {} ∧ (coreOf (withReq q) q.core).l1.length < 1024) ∧
    (∀ w ∈ [1, 2, 4, 8, 16], ∃ y : Part, y.got = some (0x80, false) ∧ y.width = w ∧ y.dst ≠ 0) ∧
    (thrOf (one []) (lane 0)).stat = .ready :=
  ⟨by
    have h : ∀ k ∈ [ReqKind.read, .uc, .atomic], ∀ v ∈ [0, 1], ∀ d ∈ [none, some 0], let q := { access k true v with dueClk := d }
      let s := { withReq q with now := 1 }
      tget s.reqs q.id = some q ∧ q.performed = true ∧ (∀ k ∈ d.toList, k ≤ coreClock s q.core) ∧ q.due ≤ s.now ∧
      returnHeld s (lane 0) = false ∧ isFar s (q.line * 128) = false ∧ pathReady s (reqPath s q) [] (backChans q) = true := by decide +kernel
    intro k hk v hv d hd
    obtain ⟨a, b, c, e, f⟩ := h k hk v hv d hd
    exact ⟨a, b, c, e, ⟨_, rfl, rfl, rfl, by simp⟩, f⟩,
   by decide +kernel,
   fun w _ => ⟨{ thr := none, off := 0, width := w, dst := 4, got := some (0x80, false) }, rfl, rfl, by simp⟩, by decide +kernel⟩

/-- A core that holds a clean line. -/
def holding : State := { mem1 with cores := [(0, { l1 := [(8224, { valid := 1#32 })] })] }

/-- A span of words 0 to 7 of the line that a core owns. -/
def owned (c : Nat) : Span := { line := 8224, agent := coreAgent c, sub := c, words := 0xFF#32, seq := 0 }

/-- A line of L1 that is dirty, and one that its core owns, clean and dirty. -/
theorem witness_dirty_lines :
    (let s := { holding with cores := [(0, { l1 := [(8224, { valid := 1#32, dirty := 0xF#128 })] })] }
     Alone (rangeOpnds (base 1 0 0 0) (mw 0 (bs := false))) s packet (lane 0) ∧ (thrOf s (lane 0)).rel = none ∧
     rangeNamed s (lane 0) (base 1 0 0 0) (mw 0 (bs := false)) = none ∧ rangeHolds s 0 none 8224 = true ∧
     (l1Of s 0 8224).dirty ≠ 0#128 ∧ (l1Of s 0 8224).own = 0#32 ∧ (∀ e ∈ s.reqs, e.1 < s.nextId ∧ e.2.kind ≠ .writeBack)) ∧
    (let s := modThr mem1 (lane 0) (fun th => { th with rel := some { ids := [] } })
     Alone (rangeOpnds (base 1 0 0 0) (mw 0 (bs := false))) s packet (lane 0) ∧ idsDone s [] = true ∧
     (thrOf s (lane 0)).rel = some { ids := [] }) ∧
    ∀ d ∈ [0, 15], let s := { mem1 with cores := [(0, { l1 := [(8224, { own := 0xFF#32, dirty := BitVec.ofNat 128 d })] })], spans := [owned 0] }
      isFar s (8224 * 128) = false ∧ (l1Of s 0 8224).own ≠ 0#32 ∧ backsOut s 0 8224 = [] ∧
      s.spans = [{ line := 8224, agent := coreAgent 0, sub := 0, words := (l1Of s 0 8224).own, seq := 0 }] ∧
      ((l1Of s 0 8224).dirty &&& bytesOf (l1Of s 0 8224).own = 0#128 ↔ d = 0) := by
  unfold Alone; decide +kernel

theorem witness_cache_management :
    Alone (rangeOpnds (base 1 0 0 0) (mw 0 (bs := false))) holding packet (lane 0) ∧ (thrOf holding (lane 0)).rel = none ∧
    rangeTouch holding (thrCtx holding (lane 0)) none = holding ∧
    rangeNamed holding (lane 0) (base 1 0 0 0) (mw 0 (bs := false)) = none ∧ rangeHolds holding 0 none 8224 = true ∧ thrCore holding (lane 0) = 0 ∧
    (l1Of holding 0 8224).dirty = 0#128 ∧ (l1Of holding 0 8224).own = 0#32 ∧ holding.reqs = [] ∧
    -- a named range: 256 bytes at 0x1000, in the page at 0x10_0000
    (let s := { mem1 with cores := holding.cores, threads := (modThr mem1 (lane 0) (fun th => putReg th 6 256#32)).threads }
     Alone (rangeOpnds (base 0 0 4 6) (mw 0)) s packet (lane 0) ∧ rangeNamed s (lane 0) (base 0 0 4 6) (mw 0) = some (0x1000, 256) ∧
      let s1 := rangeTouch s 0 (some (0x1000, 256))
      s1.reqs = [] ∧ (thrOf s1 (lane 0)).rel = none ∧ rangeHolds s1 0 (some (0x1000, 256)) 8224 = true ∧
        rangeHolds s1 0 (some (0x1000, 256)) 8226 = false ∧ (l1Of s1 0 8224).dirty = 0#128 ∧ (l1Of s1 0 8224).own = 0#32) := by
  refine ⟨by unfold Alone; decide +kernel, by decide +kernel, rfl, rfl, by decide +kernel, by decide +kernel, by decide +kernel, by decide +kernel,
    by decide +kernel, ⟨by decide +kernel, by decide +kernel, by decide +kernel, by decide +kernel⟩, by decide +kernel, by decide +kernel⟩

theorem witness_loads_and_prefetches_are_sent :
    (∀ m ∈ [{ mw 2 with lease := 3 }, { mw 3 with ty := 1, ord := 1, scope := 5 }, { mw 2 with ty := 2 }, { mw 2 with ty := 3 }],
      Alone (memOpnds (base 0 20 4 0) m 0 (widthRegs m.width)) mem1 packet (lane 0) ∧
      Through mem1 packet (lane 0) (effAddr mem1 (lane 0) (base 0 20 4 0) m none) (widthBytes m.width)
        { read := true, strict := m.ty == 2#2, kind := 1 }) ∧
    (Alone (memOpnds (base 0 0 4 0) (mw 2) 0 0) mem1 packet (lane 0) ∧ mem1.reqs = [] ∧
      Through mem1 packet (lane 0) (effAddr mem1 (lane 0) (base 0 0 4 0) (mw 2) none) 4 { read := true, kind := 1 }) ∧
    -- a page that moves, one whose line is poisoned, and an address that is not mapped
    (let s := { mem1 with moves := [(7, { kind := .move, ctx := 0, va := 0, stage := 1 })] }
     (match checkGlobal s 0 (thrCtx s (lane 0)) (effAddr s (lane 0) (base 0 0 4 0) (mw 2) none) 4 { read := true, kind := 1 } with
      | .held _ _ => true | _ => false) = true) ∧
    (let s := { mem1 with poison := [8224 * 32] }
     (match checkGlobal s 0 (thrCtx s (lane 0)) (effAddr s (lane 0) (base 0 0 4 0) (mw 2) none) 4 { read := true, kind := 1 } with
      | .ok x t => poisoned t (x.pa / 128) (wordMask (x.pa % 128) 4) | _ => false) = true) ∧
    (match checkGlobal mem1 0 (thrCtx mem1 (lane 0)) (effAddr mem1 (lane 0) (base 0 0 8 0) (mw 2) (some 0x80000#32)) 4
      { read := true, kind := 1 } with | .fault _ t => t.cur == mem1.cur && t.reqs.isEmpty | _ => false) = true := by
  refine ⟨fun m hm => ⟨?_, through ?_⟩, ⟨by unfold Alone; decide +kernel, by decide +kernel, through (by decide +kernel)⟩, by decide +kernel,
    by decide +kernel, by decide +kernel⟩
  · revert m; unfold Alone; decide +kernel
  · revert m; decide +kernel

def ownMsg : Msg :=
  { blk := 0, src := 0x10, inc := 0#16, sub := 0, tag := 3, line := 8224, wmask := 1#32, aop := 0#4, w64 := false, status := 0#3, val := 0#64,
    mask := 0#128, data := [], dsp := 0#2 }

theorem witness_homes_serve_accesses :
    (∀ k ∈ [ReqKind.write, .read, .own, .uc, .writeBack, .atomic, .reduce], let q := access k
      let s := withReq q
      AtHome s q (reqWords q) ∧ AtHome s q (coverRun (reqWords q)) ∧ AtHome s q (fetchWords s q) ∧ AtHome s q (maskWords q.mask) ∧
      (roomOf s q.line (coverRun (reqWords q)) (sparedBy q)).isNone = true ∧ OwnMsg ownMsg q) ∧
    (let q := { access .write with line := hostBase / 128, performed := true }
     let s := withReq q
     tget s.reqs q.id = some q ∧ q.out = false ∧ q.accepted = true ∧ q.serve ≤ s.now) ∧
    (let q := access .atomic
     let s := withReq q
     s.spans = [] ∧ memWf s.mem = true ∧ s.t1 = false ∧ (∀ i < 128, rangeOf (q.line * 128 + i) = .hbm) ∧
     poisoned s q.line 0xFFFFFFFF#32 = false ∧ coverRun (reqWords q) ≠ 0#32 ∧ (l1Of s q.core q.line).own = 0#32 ∧ q.mask ≠ 0#128 ∧
     -- nobody owns words, another core owns some, and the core of a write-back that gives its span up
     Owners s q (reqWords q) ∧ Owners { s with spans := [owned 1] } q (reqWords q) ∧ Owners { s with spans := [owned 1] } q (maskWords q.mask) ∧
     Owners { s with spans := [owned 1] } q (coverRun (reqWords q)) ∧
     (let b := { access .writeBack with gives := 0xFF#32 }
      b.gives ≠ 0#32 ∧ { s with spans := [owned 0] }.spans = [{ line := b.line, agent := coreAgent b.core, sub := b.core, words := b.gives, seq := 0 }]) ∧
     ∃ y, q.parts = [y] ∧ y.off + y.width ≤ 128 ∧ y.width = 4) := by
  refine ⟨?_, by decide +kernel, by decide +kernel, by decide +kernel, by decide +kernel, by decide +kernel, by decide +kernel, by decide +kernel,
    by decide +kernel, by decide +kernel, .inl (by decide +kernel), ?_, ?_, ?_, by decide +kernel, _, rfl, by decide, rfl⟩
  · unfold AtHome OwnMsg; decide +kernel
  all_goals exact .inr ⟨_, rfl, by decide +kernel, by decide +kernel, by decide +kernel, by decide +kernel, by decide +kernel⟩

/-- An access of a group that its checks let through, to a line that the core does not hold, with its releases at an end. -/
abbrev GroupThrough (u : State) (p : Packet) (gid l : Nat) (parts : List Nat) (va : Word64) (a : Acc) : Prop :=
  ∃ x v, GroupReaches u v p gid l parts va a x ∧ ∀ sc < 5, ∀ lanes ∈ [parts],
    ∃ v', releaseLanes p gid sc (lockCover v (atLane p gid l) va) lanes v .done = .done v'

def groupReach (u : State) (p : Packet) (gid l : Nat) (parts : List Nat) (va : Word64) (a : Acc) : Bool :=
  match checkGlobal u p.core (teamOf u p.team).ctx va 8 a with
  | .ok x v => !accessWaits v p (atLane p gid l) (x.pa / 128) && l1Of v p.core (x.pa / 128) == {}
      && parts.all (fun j => thrOf v (atLane p gid j) == thrOf u (atLane p gid j)) && v.groups == u.groups && v.cur == u.cur && v.now == u.now
      && decide (p.base ≤ v.nextId) && v.reqs.all (fun e => decide (e.1 < p.base))
      && (List.range 5).all (fun sc => parts.all (fun j => releases v (atLane p gid j) sc (lockCover v (atLane p gid l) va)))
      && decide (parts.map (fun l => thrKey (atLane p gid l))).Nodup
  | _ => false

theorem group_through {u : State} {p : Packet} {gid l : Nat} {parts : List Nat} {va : Word64} {a : Acc}
    (h : groupReach u p gid l parts va a = true) : GroupThrough u p gid l parts va a := by
  unfold groupReach at h
  split at h
  · rename_i x v e
    simp only [Bool.and_eq_true, beq_iff_eq, decide_eq_true_eq, List.all_eq_true, Bool.not_eq_true', List.mem_range] at h
    obtain ⟨⟨⟨⟨⟨⟨⟨⟨⟨h1, h2⟩, h3⟩, h4⟩, h5⟩, h6⟩, h7⟩, h8⟩, h9⟩, h10⟩ := h
    refine ⟨x, v, ⟨e, h1, h2, h3, h4, h5, h6, h7, h8⟩, fun sc hs lanes hl => ?_⟩
    rw [List.mem_singleton] at hl
    subst hl
    exact lanes_released _ v h10 fun j hj => h9 sc hs j hj
  · cases h

theorem witness_buffer_and_uniform_accesses :
    (let s := one [] [(4, 0#64)]
     abufAt s 0 0#64 = some (0, 0) ∧ abufBad s 0 0 4 = false ∧ (∀ sc, sc < 5 → Freed s (lane 0) sc (some [])) ∧
     Alone (memOpnds (base 0 20 4 0) (mw 2) 0 1) s packet (lane 0) ∧ Alone { memOpnds (base 0 6 4 0) (mw 2) 1 0 with dsts := [] } s packet (lane 0) ∧
     Alone (atomOpnds (base 8 5 4 6) { mw 2 with ord := 3 }) s packet (lane 0) ∧ (0 : Nat) / 4096 < (teamOf s 0).hdr.cbuf ∧
     (0 : Nat) % 4096 / 128 = (lane 0).lane ∧ (crowOf (teamOf s 0) 0 0).out = 0) ∧
    (let s := pair {} {}
     let p := packet [0, 1]
     Meeting { g := always } false 0xFFFFFFFF#32 s p 0 [0, 1] [0, 1] ∧ [0, 1].head? = some 0 ∧
     sregOf (grpOf s 0 0) 5 + (0x1000#16).signExtend 64 = 0x1000#64 ∧
     ∀ strict ∈ [true, false], GroupThrough (gathered { g := always } false 0xFFFFFFFF#32 s p) p 0 0 [0, 1] 0x1000#64
        { read := true, strict := strict, kind := 1 } ∧
       GroupThrough (gathered { g := always } false 0xFFFFFFFF#32 s p) p 0 0 [0, 1] 0x1000#64 { write := true, strict := strict, kind := 2 }) := by
  refine ⟨⟨by decide +kernel, by decide +kernel, ?_, ?_⟩, meeting_of (by decide +kernel), rfl, by decide +kernel,
    fun st hs => ⟨group_through ?_, group_through ?_⟩⟩
  · intro sc hs
    exact released (by revert sc; decide +kernel)
  · unfold Alone; decide +kernel
  · revert st; decide +kernel
  · revert st; decide +kernel

theorem witness_fences_acquires_and_bindings :
    Alone { g := always } mem1 packet (lane 0) ∧ reqsOf mem1 (lane 0) = [] ∧ (thrOf mem1 (lane 0)).rel = none ∧
    (thrOf mem1 (lane 0)).linklost = false ∧ (∀ l, (l1Of mem1 0 l).dirty = 0#128) ∧ mem1.reqs = [] ∧
    (base 1 0 0 5).md.getLsbD 0 = true ∧ 1 ≤ (base 1 0 0 5).sb.toNat ∧ ¬((base 1 0 0 5).sb.toNat < 5 ∨ mem1.pcieUp = false) ∧
    (base 3 0 0 4).sb.toNat < 5 ∧
    (∀ k ∈ [(1, 0x38#64), (3, 0x40#64), (4, 0#64)], bindFault mem1 (lane 0) k.1 0x1000#64 0x80#64 k.2 = none) ∧
    bindFault mem1 (lane 0) 0 0x1000#64 0#64 15#64 = none := by
  refine ⟨by unfold Alone; decide +kernel, by decide +kernel, by decide +kernel, by decide +kernel, fun l => ?_, by decide +kernel, by decide,
    by decide, by decide +kernel, by decide, by decide +kernel, by decide +kernel⟩
  have h : mem1.cores = [] := by decide +kernel
  simp [l1Of, coreOf, h, tgetD, tget]

/-! ### The engine, barriers, copies and queues -/

/-- Device 5 is known, and stands behind slot 0 and port 0. -/
def fab : State :=
  { mem1 with fx := [(5, { kind := 6 })], fxslots := [(0, 0x8000000000000005#64)], links := tput (portBlk 0) { state := .active } loaded.links
              fxSet := true, fxself := 1 }

def fabLine : Nat := fabBase / 128

/-- A record of 64 rows and columns of FP8 at the start of the A-buffer. -/
def rec8 : BitVec 256 := BitVec.ofNat 256 (2 ^ 255 + 3 * 2 ^ 192 + 64 * 2 ^ 96 + 64 * 2 ^ 80 + 64 * 2 ^ 64)

/-- A group of two lanes whose team has the record in `rv0` and `rv1`. -/
def tiles : State := { pair {} {} with teams := [(0, { probeTeam with recs := [(0, rec8), (1, rec8)] })] }

theorem witness_glaze_forms :
    let c := { glz with sck := 0 }
    let ok := fun (x : Except Flt (Nat × Nat)) => (match x with | .ok _ => true | _ => false) = true
    Meeting (glzOpnds (base 0 1 5 0) c true false) false 0xFFFFFFFF#32 tiles (packet [0, 1]) 0 [0, 1] [0, 1] ∧ [0, 1] ≠ [] ∧
    ok (glzCheck tiles (packet [0, 1]) 0 c true true) ∧ glzqRecord (recordOf (teamOf tiles 0) 1) c = true ∧
    Meeting (glzOpnds (base 0 5 0 0) c false true) false 0xFFFFFFFF#32 tiles (packet [0, 1]) 0 [0, 1] [0, 1] ∧
    ok (glzCheck tiles (packet [0, 1]) 0 c c.rot true) ∧ (teamOf tiles 0).apoison = [] ∧
    Meeting (glzOpnds (base 0 5 6 0) c true true) false 0xFFFFFFFF#32 tiles (packet [0, 1]) 0 [0, 1] [0, 1] ∧
    ok (glzCheck tiles (packet [0, 1]) 0 c true false) ∧
    -- with the scales off, and with 4 bytes of them at the start of the A-buffer
    ∀ k ∈ [0#2, 1#2], ∀ mem ∈ [true, false], GlzFits tiles (packet [0, 1]) 0 { glz with sck := k } true mem :=
  ⟨meeting_of (by decide +kernel), by decide, by decide +kernel, by decide +kernel, meeting_of (by decide +kernel), by decide +kernel,
    by decide +kernel, meeting_of (by decide +kernel), by decide +kernel, by unfold GlzFits; decide +kernel⟩

/-- A zeroing command of one chunk. -/
def zero : MeCmd := { id := 9, team := 0, gid := 0, kind := .mmz, mask := 1#32, todo := [(0, 0)] }

theorem witness_engine_events :
    let q : Quad := { gated := false }
    let s := fun (q : Quad) => { one [] with quads := [(0, q)] }
    (onEdge (s q) q = true ∧ q.busy = none) ∧
    (let s := s { q with passAt := some 0, busy := some (0, 0) }
     (quadOf s 0).passAt = some 0 ∧ 0 ≤ clockOf s (quadOf s 0) ∧ (quadOf s 0).busy = some (0, 0) ∧ cmdOf s 0 0 = none) ∧
    -- a pass that ends with its clock, and one that the stop found under way, at its tick
    (∀ u ∈ [none, some 0], let s := s { q with passAt := some 0, busy := some (9, 0), me := [zero], passTick := u, stopUntil := u.map (· + 9) }
     cmdOf s 0 9 = some zero ∧ zero.todo = [(0, 0)] ∧ passFails (teamOf s 0) zero (0, 0) = false ∧ (quadOf s 0).passTick = u ∧
     (u = none → 0 ≤ clockOf s (quadOf s 0)) ∧ ∀ n ∈ u.toList, n ≤ s.now) ∧
    (∀ u ∈ [none, some 0], let e := { zero with todo := [], doneAt := some 0, doneTick := u }
     let s := s { q with me := [e] }
     cmdOf s 0 9 = some e ∧ e.doneAt = some 0 ∧ e.doneTick = u ∧ (u = none → 0 ≤ clockOf s (quadOf s 0)) ∧ ∀ n ∈ u.toList, n ≤ s.now) ∧
    (let e := { zero with need := [8224], pages := [(0, 0x100000, 0x10006501f#64)] }
     let s := s { q with me := [e] }
     cmdOf s 0 9 = some e ∧ 8224 ∈ e.need ∧ ¬((quadOf s 0).pugClk = clockOf s (quadOf s 0) ∧ 4 ≤ (quadOf s 0).pugCnt) ∧
     clockStands (quadOf s 0) = false ∧
     ((e.pages.find? (fun x => x.2.1 / 65536 == 8224 * 128 / 65536)).map (·.2.2)).getD 0#64 = 0x10006501f#64 ∧
     pathReady s (pathOf s (quadTower 0) (8224 * 128) 0x10006501f#64) [0] [1, 2] = true ∧ backsOut s (teamOf s e.team).core 8224 = [] ∧
     remoteSpans s 8224 0xFFFFFFFF#32 = []) ∧
    -- a line that another agent homes
    (let s := { fab with t1 := true, agents := tput 0x11 { kind := 4, unit := 1, units := 1, state := .active } fab.agents
                         quads := [(0, { q with me := [{ zero with need := [0x20000000] }] })] }
     cmdOf s 0 9 = some { zero with need := [0x20000000] } ∧ isFar s (0x20000000 * 128) = true ∧ lineLost s 0x20000000 = false ∧
     clockStands (quadOf s 0) = false ∧ ¬((quadOf s 0).pugClk = clockOf s (quadOf s 0) ∧ 4 ≤ (quadOf s 0).pugCnt)) ∧
    (let s := { s { q with balPending := 1 } with threads := [] }
     coreQuad 0 = 0 ∧ (quadOf s 0).balPending ≠ 0 ∧ coreRuns s 0 = true ∧ coreReady s 0 = [] ∧ (coreOf s 0).nextPick ≤ coreClock s 0) := by decide +kernel

theorem witness_reservations :
    let r : Word64 := rec8.extractLsb' 192 64
    let s := one [] [(4, 0#64), (5, rec8.extractLsb' 64 64), (6, 0#64), (7, r)]
    let u := { one [] with teams := [(0, { probeTeam with recs := [(1, rec8)] })] }
    Alone { g := always } s packet (lane 0) ∧ 31 < (teamOf s packet.team).hdr.rsvn ∧
    recordOk (thrSreg s (lane 0) 7 ++ thrSreg s (lane 0) 6 ++ thrSreg s (lane 0) 5 ++ thrSreg s (lane 0) 4) = true ∧
    (∀ x ∈ [(0, 0xFFFFFFF0#32), (0, 16#32), (1, 0#32), (2, 0xFFFF#32), (3, 32#32)], rBuilt (recordOf (teamOf u 0) 1) = true ∧
      (x.1 = 0 → x.2 = 0xFFFFFFF0#32 ∨ recordOk (rsvfNew x.1 x.2 (recordOf (teamOf u 0) 1)) = true) ∧
      (x.1 ≠ 0 → recordOk (rsvfNew x.1 x.2 (recordOf (teamOf u 0) 1)) = true)) ∧
    Meeting { g := always } false 0xFFFFFFFF#32 (pair {} {}) (packet [0, 1]) 0 [0, 1] [0, 1] :=
  ⟨by unfold Alone; decide +kernel, by decide +kernel, by decide +kernel, by decide +kernel, meeting_of (by decide +kernel)⟩

theorem witness_engine_requests_and_acceptance :
    let p := packet [0, 1]
    let c := { mma with acc := true }
    let e := mmaCmd tiles (base 0 4 0 1) c false p 0 3#32
    OneGroup { g := always } tiles p 0 3#32 ∧ (quadOf tiles 0).me.length < 64 ∧
    mmaIll (base 0 4 0 1) c (teamOf tiles 0) = false ∧ mmaCheck (teamOf tiles 0) e = none ∧
    streamPages 0 0 4 ((streamRanges e).flatMap (fun x => rangePages x.2)) tiles [] = (.ok [], tiles) ∧
    24 + (base 7 24 0 0).md.toNat % 8 < (teamOf tiles 0).hdr.cbuf ∧
    (let g := { glz with sck := 0, rot := false }
     mmwCheck (teamOf tiles 0) { zero with kind := .mmw, mask := 3#32, ra := rec8, ctl := some g } g = none) ∧
    (let x := { zero with bar := some 1, gs := 0 }
     x.bar.isSome = true ∧ slotOf (teamOf tiles 0) x.gs ≠ .isFalse ∧ ∀ b, x.bar = some b → (barOf (teamOf tiles 0) b).rp = false) := by
  refine ⟨by unfold OneGroup Runs; decide +kernel, by decide +kernel, by decide +kernel, by decide +kernel, ?_, by decide +kernel,
    by decide +kernel, by decide, by decide +kernel, fun b h => ?_⟩
  · have h : (streamRanges (mmaCmd tiles (base 0 4 0 1) { mma with acc := true } false (packet [0, 1]) 0 3#32)) = [] := by decide +kernel
    simp only [h]; rfl
  · injection h with h; subst h; decide +kernel

/-- The machine with a barrier register. -/
def barred (x : Bar) (a : Arrival := {}) (th : Thread := {}) (ss : Tab Word64 := []) : State :=
  { world [(0, th)] ss with teams := [(0, { probeTeam with bars := [(1, x)], arrs := [(1, a)] })] }

def armedBar : Bar := { state := .armed, base := 2, exp := 2 }

theorem witness_barrier_register_control :
    let s := barred {}
    let t := barred armedBar
    (1 < 16 ∧ 1 < (teamOf s 0).hdr.bars ∧ (regAt s packet (base 0 0 1 0)).rp = false ∧ (regAt s packet (base 0 0 1 0)).pend = 0) ∧
    Leads { g := always } s packet (lane 0) ∧
    (∀ n ∈ [1, 0x120], let a := BitVec.ofNat 32 n
      1 ≤ a.toNat % 64 ∧ a.toNat % 64 ≤ 32 ∧ a &&& ~~~0x13F#32 = 0#32) ∧
    ((regAt t packet (base 0 0 1 0)).state = .armed ∧ ∀ n ∈ [0xFFFFFFFF, 1021], let a := BitVec.ofNat 32 n
      0 ≤ ((2 : Nat) : Int) + a.toInt ∧ ((2 : Nat) : Int) + a.toInt ≤ 1023 ∧ ((0 : Nat) : Int) < ((2 : Nat) : Int) + a.toInt) ∧
    (∀ r ∈ teamThreads t 0, ∀ i ph, (thrOf t r).stat = .waiting (.bar i ph) → i ≠ 1) ∧
    Leads (baseOpnds (base 7 0 1 4) 0 2 0) s packet (lane 0) ∧ imageOk 0#64 = true := by
  refine ⟨by decide +kernel, by unfold Leads Runs; decide +kernel, by decide +kernel, by decide +kernel, fun r hr i ph h => ?_,
    by unfold Leads Runs; decide +kernel, by decide +kernel⟩
  have hr : ∀ r ∈ teamThreads (barred armedBar) 0, (thrOf (barred armedBar) r).stat = .ready := by decide +kernel
  rw [hr r ‹_›] at h
  cases h

theorem witness_barrier_arrival :
    let s := barred armedBar { mask := 0#32 }
    let two := { pair {} {} [0] with teams := [(0, { probeTeam with bars := [(1, armedBar)] })] }
    (∀ u ∈ [(s, packet), (two, packet [0])], Alone { g := always } u.1 u.2 (lane 0)) ∧ (lane 0).lane < 32 ∧ (lane 0).team = packet.team ∧
    1 < (teamOf s 0).hdr.bars ∧ armedBar.state = .armed ∧ (arrOf (teamOf s 0) 0 1).mask.getLsbD 0 = false ∧
    (arrOf (teamOf s 0) 0 1).last ≠ some armedBar.phase ∧ Freed s (lane 0) 3 (some (boundTo (teamOf s 0) objBar 1#64)) ∧
    -- another lane of the group is to come; no other
    ((grpOf two 0 0).live &&& (grpOf two 0 0).exm &&& ~~~(0#32 ||| (1#32 <<< 0)) ≠ 0#32 ∧
     (grpOf s 0 0).live &&& (grpOf s 0 0).exm &&& ~~~(0#32 ||| (1#32 <<< 0)) = 0#32) ∧
    armedBar.rp = false ∧ armedBar.arr + 1 < armedBar.exp ∧ armedBar.heldExp = 0 ∧ armedBar.heldPend = 0 ∧ armedBar.heldArr = 0 ∧
    -- the last arrival that EXP asks for: in a team that runs, with and without a load, and in one that is quiet
    (∀ cyc ∈ [true, false], ∀ l ∈ [0, 1], ∀ g ∈ [GroupState.active, .held],
      let x : Bar := { state := .armed, base := 1, exp := 1, cyc := cyc }
      let s := { barred x with
        teams := [(0, { probeTeam with bars := [(1, x)], hdr := { probeTeam.hdr with load := l } })]
        groups := [(grpKey 0 0, { exm := 1#32, live := 1#32, state := g })] }
      Alone { g := always } s packet (lane 0) ∧ regAt s packet (base 0 0 1 0) = x ∧ 1 < (teamOf s 0).hdr.bars ∧ releases s (lane 0) 3 (some (boundTo (teamOf s 0) objBar 1#64)) = true ∧
      (arrOf (teamOf s 0) 0 1).mask = 0#32 ∧ (arrOf (teamOf s 0) 0 1).last ≠ some x.phase ∧
      (grpOf s 0 0).live &&& (grpOf s 0 0).exm &&& ~~~(0#32 ||| (1#32 <<< 0)) = 0#32 ∧ x.exp = x.arr + 1 ∧ x.pend = 0 ∧ 1 ≤ x.base ∧
      (teamOf s 0).state ≠ .saved ∧ (teamOf s 0).hdr.load = l ∧ (quietTeam s 0 = true ↔ g = .held)) := by
  refine ⟨by unfold Alone; decide +kernel, by decide, rfl, by decide +kernel, rfl, by decide +kernel, by decide +kernel, released (by decide +kernel),
    by decide +kernel, by decide, by decide, by decide, by decide, by decide, by unfold Alone; decide +kernel⟩

theorem witness_barrier_waits :
    let s := barred { armedBar with phase := 5 } {} { v := regs [(9, 4#32), (10, 5#32)] }
    1 < (teamOf s 0).hdr.bars ∧ Alone (baseOpnds (base 2 0 1 9) 0 1 0) s packet (lane 0) ∧
    (barOf (teamOf s 0) 1).state = .armed ∧ (thrOf s (lane 0)).mode = .normal ∧
    -- the phase before is released, the phase itself and the one 2^15 ahead are not
    Released (barOf (teamOf s 0) 1) (phaseOf (base 2 0 1 9) s (lane 0)) ∧ Released (barOf (teamOf s 0) 1) (some (5#16 - 0x8000#16)) ∧
    (phaseOf (base 2 0 1 10) s (lane 0) = some 5#16 ∧ ¬Released (barOf (teamOf s 0) 1) (some 5#16)) ∧
    Alone { baseOpnds (base 3 71 1 0) 0 0 0 with dsts := [7] } s packet (lane 0) ∧ (71 : Nat) % 32 ≠ 0 ∧
    Runs (baseOpnds (base 6 4 1 0) 0 0 2) s packet ∧ lane 0 ∈ packet.refs := by
  refine ⟨by decide +kernel, by unfold Alone; decide +kernel, by decide +kernel, by decide +kernel, ?_, ?_, ⟨by decide +kernel, ?_⟩,
    by unfold Alone; decide +kernel, by decide, by unfold Runs; decide +kernel, by decide +kernel⟩
  · show Released _ (some 4#16); unfold Released; decide +kernel
  · unfold Released; decide +kernel
  · unfold Released; decide +kernel

/-- A word of the A-buffer: EXPW 2, CNT of the byte given, PH 0. -/
def barWordAt (cnt : Nat) : State :=
  { one [(9, 0x10005#32), (10, 1#32)] [(4, 0#64)] with
    teams := [(0, { probeTeam with abuf := if cnt = 0 then [(4, 2#8)] else [(0, BitVec.ofNat 8 cnt), (4, 2#8)] })] }

/-- The count that reaches EXPW, the one before it, and the polls of a thread that waits. -/
theorem witness_barrier_words :
    let b := base 0 0 4 9
    let m := { mw 3 with ix := true, scope := 3#3 }
    let x := { baseOpnds (base 0 0 4 9) 0 0 0 with srcs := baseSrcs b m.bs ++ [(b.sb.toNat, b.tb)] }
    m.ix = true ∧
    (∀ c ∈ [0, 1], let s := barWordAt c
      let a := barwAddr s (lane 0) b m none
      a.toNat % 8 = 0 ∧ abufAt s 0 a = some (0, 0) ∧ abufBad s 0 0 8 = false ∧
      (∀ t ∈ s.threads.map (·.2), (match t.stat with | .waiting (.barw _) => true | _ => false) = false) ∧
      Alone x s packet (lane 0) ∧ s.reqs = [] ∧ (packet).base ≤ s.nextId ∧
      Alone { g := b.g, srcs := baseSrcs b m.bs, dsts := [] } s packet (lane 0) ∧ Alone { g := b.g, srcs := baseSrcs b m.bs, dsts := [20, 21] } s packet (lane 0) ∧
      (thrOf s (lane 0)).mode = .normal) ∧
    (∀ c ∈ [0, 1], ∀ sc < 5, Freed (barWordAt c) (lane 0) sc (wordCover (barWordAt c) (lane 0) (barwAddr (barWordAt c) (lane 0) b m none))) ∧
    (let w : BarwWait := { ab := some 0, loc := 0, va := 0, ph := true, len := 8, watched := false, first := true }
     let s := { barWordAt 0 with threads := [(0, { stat := .waiting (.barw w) })] }
     (thrOf s (lane 0)).stat = .waiting (.barw w) ∧ w.watched = false ∧ w.ab = some 0 ∧ w.first = true ∧ w.woken = false ∧
      (bufNat (teamOf s 0).abuf 0 8 / 2 ^ 63 % 2 == 1) ≠ w.ph) := by
  refine ⟨rfl, ?_, fun c hc sc hs => released ?_, by decide +kernel⟩
  · unfold Alone; decide +kernel
  · revert sc c; decide +kernel

/-- One thread of the grid that arrives, alone or with another to come; monitors and guard slots. -/
theorem witness_grid_steps_monitors_and_guard_slots :
    (∀ u ∈ [(mem1, packet), (pair {} {} [0], packet)], Alone { g := always } u.1 u.2 (lane 0) ∧ (thrOf u.1 (lane 0)).mode = .normal ∧
      Freed u.1 (lane 0) 3 (some (boundTo (teamOf u.1 0) objStep 0#64))) ∧
    (stepComplete (makeWait (freed mem1 (lane 0)) (lane 0) .gridStep) 0 0 = true ∧
     stepComplete (makeWait (freed (pair {} {} [0]) (lane 0)) (lane 0) .gridStep) 0 0 = false) ∧
    (Alone { g := always, srcs := baseSrcs (base 0 0 4 0) true } mem1 packet (lane 0) ∧
     Through mem1 packet (lane 0) (barwAddr mem1 (lane 0) (base 0 0 4 0) (mw 3) none) 1 { read := true, kind := 6 } ∧
     (match checkGlobal mem1 0 0 (barwAddr mem1 (lane 0) (base 0 0 4 0) (mw 3) none) 1 { read := true, kind := 6 } with
      | .ok x _ => rangeOf x.pa == .hbm && leafContract x.leaf != 4 | _ => false) = true) ∧
    (∀ x ∈ [Monitor.disarmed, .armed 8224, .arming 8224, .triggered 8224 false, .triggered 8224 true], ∀ md ∈ [0, 1, 2],
      ∀ v ∈ [0#32, 5#32].map (·.toNat), let s := world [(0, { mon := x, v := regs [(6, BitVec.ofNat 32 v)] })] [(6, BitVec.ofNat 64 v)]
      let b := base (BitVec.ofNat 4 md) 5 6 0
      Alone (baseOpnds b (if b.md = 1#4 then 1 else 0) 0 1) s packet (lane 0) ∧ (thrOf s (lane 0)).mode = .normal ∧ (thrOf s (lane 0)).mon = x) ∧
    (let s := world [(0, { stat := .waiting (.mwait (some 0) 5) })]
     (thrOf s (lane 0)).stat = .waiting (.mwait (some 0) 5) ∧ 0 ≤ s.now ∧ (quadOf s (coreQuad (thrCore s (lane 0)))).stopUntil = none) ∧
    Leads { g := always } mem1 packet (lane 0) := by
  refine ⟨fun u hu => ⟨?_, ?_, released ?_⟩, ⟨by decide +kernel, by decide +kernel⟩, ⟨by unfold Alone; decide +kernel, through (by decide +kernel), by decide +kernel⟩,
    by unfold Alone; decide +kernel, by decide +kernel, by unfold Leads Runs; decide +kernel⟩
  · simp only [List.mem_cons, List.not_mem_nil, or_false] at hu; rcases hu with rfl | rfl <;> (unfold Alone; decide +kernel)
  · simp only [List.mem_cons, List.not_mem_nil, or_false] at hu; rcases hu with rfl | rfl <;> decide +kernel
  · simp only [List.mem_cons, List.not_mem_nil, or_false] at hu; rcases hu with rfl | rfl <;> decide +kernel

def cpyCtl : CopyCtl := { mc := 0, barEn := false, bar := 0, gs := 0, dsp := 0, ssp := 0, np := 1, slot := 0, satR := false, el := 2 }

/-- A copy of one row of 128 bytes, with a beat under way. -/
def copying (op : Nat) (dsp : BitVec 2) (beats : List CopyBeat) (done : Bool := false) : CopyCmd :=
  { id := 4, team := 0, op := op, ctl := { cpyCtl with dsp := dsp }, core := 0, state := .running, beats := beats
    parts := [{ entry := 0, src := 0x1000#64, dst := 0x2000#64, rows := 1, rb := 128, sp := 128, dp := 128, row := if done then 1 else 0 }] }

def copyState (c : CopyCmd) : State := { mem1 with copies := [(c.id, c)], nextId := 9 }

theorem witness_copy_events :
    let b : CopyBeat := { id := 5, part := 0, row := 0, off := 0, len := 128 }
    let read := { b with unread := false, data := (List.range 128).map (fun i => (i, 7#8)), pa := 0x102000, leaf := 0x10006501f#64, counts := true }
    (let c := copying opCPY 0 [b]
     copyOfId (copyState c) c.id = some c ∧ c.beats.find? (fun y => y.id == b.id) = some b ∧ b.unread = true) ∧
    (∀ op ∈ [opCPY, opCPYT, opCPYR], ∀ x ∈ [read, { read with member := some 0 }], let c := copying op (if x.member.isSome then 1 else 0) [x]
     let s := copyState c
     copyOfId s c.id = some c ∧ c.beats.find? (fun y => y.id == x.id) = some x ∧ x.unread = false ∧ (c.parts[x.part]?).isSome = true ∧
     x.due ≤ s.now ∧ s.reqs = [] ∧ (∀ p ∈ c.parts, ∀ y ∈ c.beats, beatsClash p y x = false) ∧ isFar s x.pa = false ∧
     (∀ v ∈ [[0, 2], [4]], pathReady s (pathOf s (coreTower c.core) x.pa x.leaf) v [1] = true) ∧ remoteSpans s (x.pa / 128) (beatWords x) = []) ∧
    -- a beat that another device homes
    (∀ op ∈ [opCPY, opCPYR], let x := { read with pa := fabBase }
     let c := copying op 0 [x]
     let s := { fab with copies := [(c.id, c)], nextId := 9 }
     copyOfId s c.id = some c ∧ isFar s x.pa = true ∧ (freeTag s c.core).isSome = true ∧ x.due ≤ s.now ∧ s.reqs = [] ∧
     pathReady s (pathOf s (coreTower c.core) x.pa x.leaf) (if op = opCPYR then [0, 2] else [4]) [1] = true) ∧
    (let c := copying opCPY 0 [] true
     copyOfId (copyState c) c.id = some c ∧ copyDone c = true) ∧
    (let s := copyState { copying opCPY 0 [] with state := .replay }
     ∀ e ∈ s.teams, (e.2.state = .running ∨ e.2.state = .exited) ∧ ∀ t ∈ teamThreads s e.1, (thrOf s t).mode ≠ .rest) := by decide +kernel

theorem witness_copy_forms :
    let s := { pair {} {} with groups := [(grpKey 0 0, { exm := 3#32, live := 3#32, s := [(4, 0x1000#64), (5, 0x2000#64), (6, 0x10000000080#64), (7, 0x8000000080#64)] })] }
    let x := partFrom (grpOf s 0 0) 4
    Meeting { g := always } false 0xFFFFFFFF#32 s (packet [0, 1]) 0 [0, 1] [0, 1] ∧
    (∀ op ∈ [opCPY, opCPYT, opCPYR], partCheck s 0 0 op cpyCtl x = none) ∧ freeEntry (teamOf s 0) = some 0 ∧ x.rows = 256 ∧ x.rb = 128 ∧
    (let full := (List.range 64).map (fun i => (i, ({ st := BitVec.ofNat 3 jPart } : Journal)))
     freeEntry { teamOf s 0 with journal := full } = none) ∧
    Runs (baseOpnds (base 0 5 1 0) 0 0 1) s (packet [0, 1]) :=
  ⟨meeting_of (by decide +kernel), by decide +kernel, by decide +kernel, by decide +kernel, by decide +kernel, by decide +kernel,
    by unfold Runs; decide +kernel⟩

def allReduce : CollCtl := { barEn := false, bar := 0, gs := 0, op := 0, fmt := 2, kind := 0, comm := 1 }

/-- A communicator of `n` ranks, in which this is rank 0. -/
def ranks (n : Nat) (s : State) : State :=
  { s with ctxs := [(0, { ctxOf s 0 with wdog := 5#32, comms := [(1, { cfg := BitVec.ofNat 64 (2 ^ 63 + n * 2 ^ 48) })] })] }

def posted (state : CollState := .posted) : Coll :=
  { id := 4, team := 0, gid := 0, entry := 0, ctl := allReduce, send := 0x1000#64, recv := 0x2000#64, count := 1, seq := 0, core := 0,
    state := state, postedAt := 0 }

def pieces (s : State) (c : Coll) : Bool :=
  let n := commSize (collComm s c)
  match collPieces s c false (cutLines (bits (collComm s c).tab 0 56) (2 * n)) with
  | .ok tx s1 =>
    let s2 := modColl (readTable s1 c tx).2 c.id (fun c => { c with devs := tableIds (readTable s1 c tx).1 n })
    match collPieces s2 c false (cutLines c.send.toNat (collSendBytes s2 c)) with
    | .ok sx s3 => match collPieces s3 c true (cutLines c.recv.toNat (collRecvBytes s3 c)) with
      | .ok rx s4 => sx.all (fun y => !isFar s4 y.1.pa) && (sx ++ rx).all (fun y => (remoteSpans s4 (y.1.pa / 128) (pieceWords y)).isEmpty && (backsOut s4 c.core (y.1.pa / 128)).isEmpty)
          && (Machine.collOf s4 c.id).isSome
      | _ => false
    | _ => false
  | _ => false

theorem pieces_ok {s : State} {c : Coll} (h : pieces s c = true) : ∃ tx sx rx s1 s3 s4 d,
    let n := commSize (collComm s c)
    let s2 := modColl (readTable s1 c tx).2 c.id (fun c => { c with devs := tableIds (readTable s1 c tx).1 n })
    collPieces s c false (cutLines (bits (collComm s c).tab 0 56) (2 * n)) = .ok tx s1 ∧
    collPieces s2 c false (cutLines c.send.toNat (collSendBytes s2 c)) = .ok sx s3 ∧
    collPieces s3 c true (cutLines c.recv.toNat (collRecvBytes s3 c)) = .ok rx s4 ∧
    (∀ y ∈ sx, isFar s4 y.1.pa = false) ∧ (∀ y ∈ sx ++ rx, remoteSpans s4 (y.1.pa / 128) (pieceWords y) = [] ∧
      backsOut s4 c.core (y.1.pa / 128) = []) ∧
    Machine.collOf s4 c.id = some d := by
  unfold pieces at h
  dsimp only at h
  split at h
  · rename_i tx s1 h1
    split at h
    · rename_i sx s3 h2
      split at h
      · rename_i rx s4 h3
        simp only [Bool.and_eq_true, List.all_eq_true, Bool.not_eq_true', List.isEmpty_iff, Option.isSome_iff_exists] at h
        obtain ⟨⟨ha, hb⟩, d, hd⟩ := h
        exact ⟨tx, sx, rx, s1, s3, s4, d, h1, h2, h3, ha, hb, hd⟩
      · cases h
    · cases h
  · cases h

theorem witness_collectives :
    (let s := ranks 2 { pair {} {} with
        groups := [(grpKey 0 0, { exm := 3#32, live := 3#32, s := [(4, 0x1000#64), (5, 0x2000#64), (6, 1#64)] })] }
     Meeting { g := always } false 0xFFFFFFFF#32 s (packet [0, 1]) 0 [0, 1] [0, 1] ∧ freeEntry (teamOf s 0) = some 0 ∧
     collCheck s 0 allReduce (grpOf s 0 0) 4 = none ∧ ∃ v, releaseLanes (packet [0, 1]) 0 4 (some (collBuffers s 0 allReduce (grpOf s 0 0) 4))
       [0, 1] (gathered { g := always } false 0xFFFFFFFF#32 s (packet [0, 1])) .done = .done v) ∧
    (∀ n ∈ [1, 2], let s := { ranks n (one []) with colls := [(4, posted)] }
     let x := collComm s posted
     let posts : List RankPost := if n = 1 then [] else [{ rank := 1, kind := 0, fmt := 2, op := 0, count := 1, elems := [7#32] }]
     Machine.collOf s 4 = some posted ∧ posted.state = .posted ∧
     (∀ r ∈ (List.range (commSize x)).filter (· != commRank x), ∃ y ∈ posts, y.rank = r) ∧
     ((List.range (commSize x)).filter (· != commRank x)).length + 1 = commSize x) ∧
    (∀ n ∈ [1, 2], pieces { ranks n (one []) with colls := [(4, posted .matched)] } (posted .matched) = true ∧ (posted .matched).ran = false) ∧
    (let c := { posted .matched with ran := true }
     let q := { access .read true with nokeep := 0#32 }
     let s := { ranks 2 (withReq q) with colls := [(4, c)], cores := [(0, { l1 := [(8224, { valid := 1#32 })] })] }
     Machine.collOf s 4 = some c ∧ collDone s c = true ∧ (∀ e ∈ s.reqs, e.1 < s.nextId) ∧ (l1Of s c.core 8224).own = 0#32 ∧
     (l1Of s c.core 8224).valid = 1#32 ∧ tget s.reqs q.id = some q ∧ q.core = c.core ∧ q.performed = true ∧ q.kind = .read ∧ q.line = 8224 ∧
     ∃ iv ∈ rangeLines s (collCtx s c) c.send.toNat (collSendBytes s c) ++ rangeLines s (collCtx s c) c.recv.toNat (collRecvBytes s c),
       iv.1 ≤ 8224 ∧ 8224 ≤ iv.2) ∧
    (∀ t ∈ [0, 15120000], let c := { posted with wdog := 5 }
     let s := { ranks 2 (one []) with colls := [(4, c)], now := t }
     Machine.collOf s 4 = some c ∧ c.wdog ≠ 0 ∧ (c.postedAt + c.wdog * 1000 * 3024 ≤ s.now ↔ t = 15120000)) ∧
    (∀ xs ∈ [[], [0xFFFFFFFF, 1]], ∀ x ∈ xs, x < 2 ^ 32) ∧ allReduce.fmt = 2#2 ∧ allReduce.op = 0#2 := by
  refine ⟨⟨meeting_of (by decide +kernel), by decide +kernel, by decide +kernel, lanes_released _ _ (by decide) (by decide +kernel)⟩, by decide +kernel, by decide +kernel, by decide +kernel,
    by decide +kernel, by decide, rfl, rfl⟩

/-- A queue of context 0 with a ring of 64 items at 0x2000. -/
def queue (head tail : Nat) (state : QState := .active) : Queue := { state := state, c := 6, base := 0x2000, head := head, tail := tail }

/-- A thread with 16 registers of an item and a queue descriptor in `s12` to `s15`. -/
def queueState (x : Queue) (th : Thread := {}) (now : Nat := 0) : State :=
  { world [(0, th)] [(4, 3#64), (12, 0x2000#64), (13, 6#64), (14, 1#64), (15, 2#64)] with queues := [(3, x)], now := now }

def qw : QueueWord := { sel := 1, qs := false, qr := 0, qn := 3 }

def taken (s : State) : Bool :=
  match enqueue (freed s (lane 0)) 3 (leBytes (regsNat (thrOf s (lane 0)) 8 16) 64) with | .ok _ => true | _ => false
def isHeld (s : State) : Bool :=
  match enqueue (freed s (lane 0)) 3 (leBytes (regsNat (thrOf s (lane 0)) 8 16) 64) with | .held _ => true | _ => false
def isFull (s : State) : Bool :=
  match enqueue (freed s (lane 0)) 3 (leBytes (regsNat (thrOf s (lane 0)) 8 16) 64) with | .full => true | _ => false

/-- Whether what the thread brings to the unit stands behind an enqueue that came before it. -/
def behind (s : State) : Bool := unitBehind s 3 (turnStamp s 3 (lane 0)) (some (lane 0))

/-- A state in which lane 1 waits at the unit, and lane 0 behind it or before it. -/
def inTurn (order : List Nat) (st : Stat := .ready) (x : Queue := queue 0 0) : State :=
  { queueState { x with turn := order.map (fun l => { thr := lane l, pc := 0#64, stamp := l }) } with
    threads := [(thrKey (lane 0), { stat := st }), (thrKey (lane 1), { stat := .waiting .event })], nextId := 9 }

theorem witness_enqueues :
    (∀ x ∈ [queue 0 0, queue 5 68, queue 5 69], ∀ w ∈ [qw, { qw with qs := true, qr := 4 }], let s := queueState x
      queueNo s (lane 0) w = 3 ∧ 8 + 16 ≤ (teamOf s 0).hdr.regs ∧ queueCheck s (lane 0) 3 false = true ∧
      (let srcs := (List.range 16).map (fun i => (8 + i, false))
      Alone { g := always, srcs := srcs } s packet (lane 0) ∧ Alone { g := always, srcs := srcs, dsts := [5] } s packet (lane 0)) ∧
      behind (freed s (lane 0)) = false ∧ taken s = decide (x.tail < 69) ∧ isFull s = decide (x.tail = 69)) ∧
    (∀ x ∈ [queue 0 0, queue 5 68, queue 5 69], Freed (queueState x) (lane 0) 3 (queueCover (queueState x) (lane 0) 3)) ∧
    -- a ring page that moves, and lane 0 behind lane 1, or first
    (let s := { queueState (queue 0 0) with moves := [(7, { kind := .move, ctx := 0, va := 0, stage := 1 })] }
     (let srcs := (List.range 16).map (fun i => (8 + i, false))
      Alone { g := always, srcs := srcs } s packet (lane 0) ∧ Alone { g := always, srcs := srcs, dsts := [5] } s packet (lane 0)) ∧
     behind (freed s (lane 0)) = false ∧ isHeld s = true ∧ Freed s (lane 0) 3 (queueCover s (lane 0) 3)) ∧
    (let s := inTurn [1]
     (let srcs := (List.range 16).map (fun i => (8 + i, false))
      Alone { g := always, srcs := srcs } s packet (lane 0) ∧ Alone { g := always, srcs := srcs, dsts := [5] } s packet (lane 0)) ∧
     behind (freed s (lane 0)) = true ∧ queueCheck s (lane 0) 3 false = true ∧ Freed s (lane 0) 3 (queueCover s (lane 0) 3) ∧
     (tget s.threads (thrKey (lane 0))).isSome = true ∧ (∃ x ∈ turnsAt s 3, x.stamp ≤ s.nextId) ∧ ∀ y ∈ turnsAt s 3, y.thr ≠ lane 0) ∧
    (let s := inTurn [0, 1] (.waiting .event)
     (∃ x, (turnsAt s 3).head? = some x ∧ x.thr = lane 0) ∧ itemsOf s 3 = []) := by
  refine ⟨by unfold Alone; decide +kernel, fun x hx => released ?_, ⟨by unfold Alone; decide +kernel, by decide +kernel, by decide +kernel,
    released (by decide +kernel)⟩, ⟨by unfold Alone; decide +kernel, by decide +kernel, by decide +kernel, released (by decide +kernel),
    by decide +kernel, by decide +kernel, by decide +kernel⟩, ⟨_, rfl, rfl⟩, by decide +kernel⟩
  revert x; decide +kernel

def slotOk (s : State) (seq : Nat) : Bool := match ringSlot s 3 seq false with | .ok _ _ => true | _ => false

theorem witness_dequeues :
    (∀ x ∈ [queue 0 1, queue 4 4], ∀ i ∈ [0, 1], let s := queueState x { v := regs [(5, 9#32)] }
      let o := { g := always, srcs := if i = 0 then [] else [(5, false)], dsts := (List.range 18).map (fun i => 8 + i) }
      Alone o s packet (lane 0) ∧ 8 + 18 ≤ (teamOf s 0).hdr.regs ∧ (thrOf s (lane 0)).mode = .normal ∧ queueNo s (lane 0) qw = 3 ∧
      queueCheck s (lane 0) 3 true = true ∧ (queueAt s 3).waiters = [] ∧ (queueAt s 3).state = .active ∧ (teamOf s 0).state = .running ∧
      (slotOk s (queueAt s 3).head = true ∧ ((queueAt s 3).head < (queueAt s 3).tail ↔ x.tail = 1))) ∧
    (let s := queueState (queue 4 4 .draining)
     queueCheck s (lane 0) 3 true = true ∧ (queueAt s 3).waiters = [] ∧ (queueAt s 3).state = .draining ∧ returnHeld s (lane 0) = false) ∧
    (let s := queueState (queue 4 4) { stat := .waiting (.queue 3 (some 7) 8) } 7
     (thrOf s (lane 0)).stat = .waiting (.queue 3 (some 7) 8) ∧ 7 ≤ s.now ∧ (quadOf s (coreQuad (thrCore s (lane 0)))).stopUntil = none) := by
  unfold Alone; decide +kernel

/-- The launch queue of context 0, whose page the device reads. -/
def launching : State :=
  { queueState (queue 0 1) with ctxs := [(0, { ctxOf loaded 0 with sysq := 0x1003#64 })] }

def launches (s : State) : Bool :=
  match ringSlot s 3 0 false with | .ok y u => decide ((unitNat u y.pa 64).1 = 0) | _ => false

theorem witness_queue_control_and_events :
    (∀ st ∈ [QState.free, .active, .frozen, .draining, .error], let s := queueState (queue 0 1 st)
      let r := fun (i : Nat) => thrSreg s (lane 0) (12 + i)
      queueNo s (lane 0) qw = 3 ∧ Leads { g := always, priv := true } s packet (lane 0) ∧ (queueAt s 3).state = st ∧
      6 ≤ (r 1).toNat % 32 ∧ (r 1).toNat % 32 ≤ 20 ∧ (r 0).toNat % 4096 = 0 ∧ pointersOk (r 2).toNat (r 3).toNat 6 = true ∧
      ringPagesOk ((ringPages (r 0).toNat 6).foldl (fun s va => walkTouch s ((r 1).toNat / 256 % 64) va 4) s) ((r 1).toNat / 256 % 64) (r 0).toNat 6 = true ∧ Alone (baseOpnds (base 0 8 0 12) 0 0 2) s packet (lane 0) ∧
      (teamOf s 0).ctx = 0 ∧ behind s = false) ∧
    (let s := inTurn [1]
     Leads { g := always, priv := true } s packet (lane 0) ∧ behind s = true) ∧
    (hostReaches (queueState (queue 0 1)) 63 = true ∧ (4095 : Nat) * 4096 / 4096 < 4096 ∧ (List.replicate 64 0#8).length = 64) ∧
    (let i : DevItem := { id := 2, ctx := 0, queue := 3, kind := .frame 0x110000, bytes := List.replicate 64 0#8 }
     let s := { queueState (queue 0 1) with items := [i] }
     s.items.find? (fun j => j.id == i.id) = some i ∧ itemsOf s i.queue = [i] ∧ s.items.find? (fun j => j.id == 0) = none) ∧
    (let c := ctxOf launching 0
     let x := queueAt launching (c.sysq.toNat % 4096)
     c.state ≠ .free ∧ c.state ≠ .building ∧ c.sysq.getLsbD 12 = true ∧ x.owner = 0 ∧ x.state = .active ∧ x.head < x.tail ∧
       launches launching = true) := by unfold Leads Runs Alone; decide +kernel

/-! ### Exceptions, contexts, pages and residence -/

theorem witness_system_registers :
    (∀ o ∈ [0, 0xEFFFF8, 0x1000000, 0x5FFFFF8], o % 8 = 0 ∧ (o < 0xF00000 ∨ 0x1000000 ≤ o) ∧ o < 2 ^ 32) ∧
    (∀ md ∈ [0, 1], (lo32 (thrSreg mem1 (lane 0) 4) + 8#32).toNat % 8 = 0 ∧ reqsOf mem1 (lane 0) = [] ∧
      Alone (baseOpnds (base (BitVec.ofNat 4 md) 6 4 0) 0 0 2 true) mem1 packet (lane 0) ∧
      Alone (baseOpnds (base (BitVec.ofNat 4 md) 0 4 6) 0 2 0 true) mem1 packet (lane 0)) := by unfold Alone; decide +kernel

/-- A team of context 1. -/
def userState (th : Thread := {}) : State :=
  { world [(0, th)] with teams := [(0, { probeTeam with ctx := 1 })], ctxs := [(1, ctxOf loaded 0)] }

theorem witness_privilege :
    ∀ o ∈ [baseOpnds (base 0 6 4 8) 0 0 2 true, baseOpnds (base 0 6 4 8) 0 2 0 true, baseOpnds (base 0 6 4 8) 0 0 1 true, { g := always, priv := true }],
      let s := userState
      s.cur = some packet ∧ packet.refs = [lane 0] ∧ (lane 0).team = packet.team ∧ regsOk o (teamOf s 0).hdr.regs = true ∧
      (regOf (thrOf s (lane 0)) o.g.gr.toNat).full = true ∧ (regOf (thrOf s (lane 0)) o.g.gr.toNat).poison = false ∧
      guardBit (thrOf s (lane 0)) o.g = true ∧ missing o (thrOf s (lane 0)) = [] ∧ (teamOf s 0).ctx ≠ 0 ∧ s.moves = [] := by decide +kernel

theorem witness_context_commands :
    (mem1.kiln.stopped = false ∧ ∀ x ∈ [(CmdSource.vf 5, 5, 1), (.vf 5, 6, 3), (.supervisor, 0, 3)], mayCommand x.1 x.2.1 x.2.2 = false) ∧
    ∀ x ∈ [CtxState.free, .ready, .running], let s := { mem1 with ctxs := [(63, { state := x })] }
      mayCommand .pf 63 1 = true ∧ mayCommand (.vf 63) 63 3 = true ∧ mayCommand .supervisor 63 7 = true ∧
      ctxStopped s 63 = false ∧ (ctxOf s 63).busy = false ∧ (ctxOf s 63).state = x := by decide +kernel

/-- A fault of the handler class; one that software resolves, with a fault queue and without. -/
theorem witness_taking_an_exception :
    (let f := flt 0x01
     f.wait = false ∧ (thrOf mem1 (lane 0)).mode = .normal ∧ (teamOf mem1 0).hdr.traph ≠ 0#64) ∧
    (let f : Flt := { code := 0x06, addr := 0x1000#64, wait := true }
     f.wait = true ∧ (ctxOf mem1 0).sysq.getLsbD 28 = false ∧ (ctxOf mem1 0).state = .running ∧
     (ctxOf { mem1 with ctxs := [(0, { ctxOf mem1 0 with sysq := BitVec.ofNat 64 (2 ^ 28) })] } 0).sysq.getLsbD 28 = true) ∧
    (thrOf (world [(0, { mode := .trap })]) (lane 0)).mode ≠ .normal := by decide +kernel

theorem witness_traps_returns_and_fetch_faults :
    let st := fun (m : Mode) => world [(0, { mode := m, v := regs [(4, 0x40#32)], trappc := 0x80#64 })]
    (Alone { g := always } (st .normal) packet (lane 0) ∧ (teamOf (st .normal) 0).hdr.traph ≠ 0#64) ∧
    (Alone { g := always, srcs := [(4, false), (5, false), (6, false), (7, false)] } (st .normal) packet (lane 0) ∧ 8 ≤ (teamOf (st .normal) 0).hdr.regs) ∧
    (∀ m ∈ [Mode.trap, .rest], Alone { g := always } (st m) packet (lane 0) ∧ Alone (baseOpnds (base 1 0 4 0) 2 0 0) (st m) packet (lane 0) ∧
      (thrOf (st m) (lane 0)).mode = m ∧ (pairVal (thrOf (st m) (lane 0)) 4).toNat % 4 = 0) ∧
    (Alone { g := always } (st .save) packet (lane 0) ∧ (thrOf (st .save) (lane 0)).mode = .save ∧ emptyRegs (thrOf (st .save) (lane 0)) = [] ∧
      Freed ({ st .save with pcieUp := false }) (lane 0) 5 none ∧
      (let s := modThr (st .save) (lane 0) (fun th => { th with rel := some { ids := [], flushed := true } })
       Alone { g := always } s packet (lane 0) ∧ emptyRegs (thrOf s (lane 0)) = [] ∧ Freed s (lane 0) 5 none)) ∧
    ((st .normal).cur = some packet ∧ packet.refs = [lane 0]) := by
  refine ⟨?_, ?_, ?_, ⟨?_, by decide +kernel, by decide +kernel, released (by decide +kernel), ?_, by decide +kernel, released (by decide +kernel)⟩,
    by decide +kernel⟩ <;> (unfold Alone; decide +kernel)

/-- A token of context 0; a thread that waits under it in another team; a HELD group of context 1; the command BUILD. -/
theorem witness_context_control_and_fault_resolution :
    let r1 : ThrRef := { team := 1, gid := 0, lane := 0 }
    let s := { mem1 with
      teams := [(0, probeTeam), (1, { probeTeam with ctx := 1, core := 5 })]
      threads := mem1.threads ++ [(thrKey r1, { stat := .faultWait 0x1000000000005#64 false })]
      groups := [(grpKey 0 0, { exm := 1#32, live := 1#32, s := [(4, 0x1000005#64), (5, 1#64), (6, 0x1000000000005#64), (8, 0x40#64), (9, 1#64)] }),
        (grpKey 1 0, { state := .held, exm := 0#32, live := 1#32 })] }
    Alone (baseOpnds (base 0 6 4 5) 0 0 1 true) s packet (lane 0) ∧ Alone (baseOpnds (base 0 6 6 5) 0 0 1 true) s packet (lane 0) ∧
    (let h := thrSreg s (lane 0) 9
     h.toNat % 64 = 1 ∧ (command s .supervisor 1 1).1 = 0 ∧ thrOf (command s .supervisor 1 1).2 (lane 0) = thrOf s (lane 0) ∧
     teamOf (command s .supervisor 1 1).2 0 = teamOf s 0) ∧
    (thrSreg s (lane 0) 8).toNat % 64 = 0 ∧
    (let h := thrSreg s (lane 0) 4
     h.toNat / 2 ^ 24 % 64 ≠ 0 ∧ groupNamed s h = some (1, 0) ∧ (grpOf s 1 0).state = .held ∧ lo32 (thrSreg s (lane 0) 5) ≠ 0#32) ∧
    (fresTarget s (thrSreg s (lane 0) 5) = false ∧ fresTarget s (thrSreg s (lane 0) 6) = true ∧ Freed { s with pcieUp := false } (lane 0) 5 none ∧
      Freed (modThr s (lane 0) (fun th => { th with rel := some { ids := [], flushed := true } })) (lane 0) 5 none) := by
  refine ⟨by unfold Alone; decide +kernel, by unfold Alone; decide +kernel, by decide +kernel, by decide +kernel, by decide +kernel,
    by decide +kernel, by decide +kernel, released (by decide +kernel), released (by decide +kernel)⟩

theorem off_records {s : State} {a : Nat} (ht : s.t1 = false) (ha : a + 8 ≤ frameTable) : OffRecords s a := by
  intro pa i _
  left
  unfold recordAt frameRecAt cellOf
  simp only [ht]
  exact Nat.le_trans ha (Nat.le_add_right _ _)

/-- The small machine with SHARE 1 in the record of the frame at 0x10_0000, and the leaves of that frame and of the one two after it. -/
def tabled : State := modFrame mem1 16 (fun _ => 0x40001#64)

def leaf16 : Word64 := 0x10006501f#64
def leaf18 : Word64 := 0x12006501f#64

def moveOf (k : PageKind) (va : Nat) (entry : Word64 := 0#64) (va2 : Nat := 0) : Move :=
  { kind := k, ctx := 0, va := va, ctx2 := 0, va2 := va2, entry := entry, count := 1, thrs := [lane 0] }

theorem witness_page_tables :
    let s := tabled
    (s.spans = [] ∧ s.t1 = false ∧ memWf s.mem = true ∧ (ctxOf s 0).state ≠ .free) ∧
    (∀ a ∈ [155648, 155656, 147456, 147472], OffRecords s a) ∧
    -- a leaf of 64 KiB in place of another and of none, an empty entry, and a leaf of 64 MiB
    (∀ x ∈ [(3, 0, leaf18, 155648), (3, 0x10000, leaf18, 155656), (3, 0, 0#64, 155648), (2, 0x8000000, 0x6701f#64, 147472)],
      entryAddr s 0 x.2.1 x.1 = some x.2.2.2 ∧ (x.2.2.1 = 0#64 ∨ (isValidLeaf x.2.2.1 = true ∧ newLeafOk s x.2.2.1 x.1 x.2.1 = true)) ∧
      (leafV (entryWord s x.2.2.2) = true → leafLeaf (entryWord s x.2.2.2) = true) ∧
      overflows s (without (framesOf x.2.2.1 x.1) (framesOf (entryWord s x.2.2.2) x.1)) = false) ∧
    (∀ x ∈ [(2, 0#64), (1, 0x24001#64)], (entryAddr s 0 0 x.1).isSome = true ∧ (x.2 = 0#64 ∨ (leafLeaf x.2 = false ∧ tableEntryOk x.2 = true))) ∧
    (leafAt s 0 0 = some (leaf16, 3, 155648) ∧ leafForm leaf16 3 = true ∧ counted leaf16 3 = [16] ∧ leafR leaf16 = true ∧
     entryAddr s 0 0x10000 3 = some 155656 ∧ leafV (entryWord s 155656) = false ∧ overflows s [16] = false ∧ recShare (recOf s 16) = 1 ∧
     (0 : Nat) % 65536 = 0) ∧
    ((moveOf (.dirty true) 0).result = 0#64 ∧ (moveOf (.inv 1) 0).count = 1) ∧
    leafTier leaf16 ≠ 3 ∧ isValidLeaf leaf18 = true ∧ newLeafOk s leaf18 3 0 = true ∧ leafTier leaf18 ≠ 3 ∧ counted leaf18 3 = [18] ∧
    recShare (recOf s 18) = 0 ∧ recMove (recOf s 18) = false := by
  refine ⟨by decide +kernel, fun a ha => off_records (by decide +kernel) ?_, by decide +kernel⟩
  revert a; decide

theorem witness_page_moved_and_course :
    let m := { moveOf .move 0 leaf18 with old := leaf16, entryAt := 155648 }
    (OffRecords tabled m.entryAt ∧ rangeOf m.entryAt = .hbm ∧ moveFrom m = 16 ∧ moveTo m = 18 ∧ (frameIndex (16 * 65536)).isSome = true ∧
     (frameIndex (18 * 65536)).isSome = true) ∧
    -- one that is done at its start, with the status 0 and another
    ∀ x ∈ [(0, true), (0x4000000, false)], let m := moveOf .unshare x.1
      let s := { tabled with moves := [(7, m)], threads := [(thrKey (lane 0), { stat := .waiting (.pageOp 7) })] }
      tget s.moves 7 = some m ∧ s.spans = [] ∧ s.t1 = false ∧ m.kind ≠ .frame ∧ pageBlocked s 7 m = false ∧ m.stage = 0 ∧
      ((actPage s m).status = 0 ↔ x.2 = true) ∧ (thrOf (actPage s m).s (lane 0)).stat = .waiting (.pageOp 7) :=
  ⟨⟨off_records (by decide +kernel) (by decide), by decide +kernel⟩, by decide +kernel⟩

def opens (k : PageKind) (s : State) : Bool := match pageOpen k (base 0 6 4 8) packet (lane 0) s with | .ok _ => true | _ => false

theorem witness_page_operations :
    (let s := one [] [(4, 0x4000000#64), (8, 0x8000000#64)]
     ∀ k ∈ [PageKind.leaf 1, .leaf 2, .table 1, .share false, .share true, .unshare, .move, .inv 0, .inv 1, .inv 2, .dirty false, .dirty true],
       opens k s = true) ∧
    (∀ kd ∈ [1, 2], ∀ priv ∈ [true, false], Leads (baseOpnds (base 0 6 4 8) 0 0 kd priv) mem1 packet (lane 0)) ∧
    (∀ q ∈ [0#64, BitVec.ofNat 64 (2 ^ 44)].map (·.toNat),
      let s := { mem1 with moves := [(7, { kind := .frame, ctx := 0, va := 0x20000, frames := [18], stage := 1 })],
                           ctxs := [(0, { ctxOf mem1 0 with sysq := BitVec.ofNat 64 q })] }
      (s.moves.find? (fun e => e.2.kind == .frame && e.2.frames == [18] && e.2.va == (0x20000#64).toNat)).isSome = true ∧
      ∀ l ∈ pinnedLines s, lineFrame l ≠ 18) ∧
    (frameIndex (8224 * 128)).isSome = true ∧ frameIndex (2 ^ 42 * 128) = none ∧
    (let s := one [(5, 7#32)]
     (tget s.threads (thrKey (lane 0))).isSome = true ∧ (regOf (thrOf s (lane 0)) 5).full = true) := by unfold Leads Runs; decide +kernel

/-- A home lane whose bank four threads of 32 blocks fill, one of them idle for the threshold, and a fifth thread that is backed. -/
def fullBank (idle : Bool) (res : Residence := .backed) (stat : Stat := .ready) : State :=
  { mem1 with
    cores := [(0, { thresh := 16#16 })]
    now := 200000
    threads := [(0, if idle then { stat := .waiting .gridStep } else { stat := .exited, res := .backed }), (32, { }), (64, { }), (96, { }),
      (128, { res := res, stat := stat })] }

theorem witness_register_residence :
    let r0 : ThrRef := { team := 0, gid := 0, lane := 0 }
    let r4 : ThrRef := { team := 0, gid := 4, lane := 0 }
    (let s := fullBank true
     movingOut s 0 0 = false ∧ ((recallable s).any fun t => thrCore s t == 0 && t.lane == 0 && !bankHasRoom s t) = true ∧
     bankVictim s 0 0 = some r0) ∧
    (r4 ∈ recallable (fullBank false) ∧ bankHasRoom (fullBank false) r4 = true) ∧
    (∀ x ∈ [Residence.movingOut, .recalling], (thrOf (fullBank false x) r4).res = x ∧ (thrOf (fullBank false x) r4).held = [] ∧
      ∀ m ∈ [MoveEnd.clk 1, .tick 200000], let s := modThr (fullBank false x) r4 (fun th => { th with move := m })
        (thrOf s r4).move = m ∧ (thrOf s r4).res = x ∧ 1 ≤ thrClock s r4 ∧ 200000 ≤ s.now ∧ (thrOf s r4).held = []) := by
  decide +kernel

/-! ### The Damper, Kiln and the links -/

def request (load : Nat) (deadline : Option Nat := none) : DamperReq :=
  { id := 6, what := .wake [], load := load, pinned := false, window := 0, release := true, core := 0, order := 0, deadline := deadline }

/-- Requests of which a prefix fits, one above B alone, and a raw load above T + B; a boundary that is due; a deadline that is over; a
clamp that is raised, and lowered at its floor and above it; a quad that takes ballast and gated ones that do not. -/
theorem witness_damper_and_clamp :
    (let d := fun (ls : List Nat) => ({ bound := 100, reqs := ls.map request } : Damper)
     ((boundaryGrants (d [60, 40, 1]) 0).2.2 = false ∧ (boundaryGrants (d [60, 40, 1]) 0).1.length = 2) ∧
     ((boundaryGrants (d [101]) 0).2.2 = true ∧ (boundaryGrants (d [101]) 0).1.length = 1) ∧
     ((boundaryGrants (d [1]) 101).2.2 = true ∧ (boundaryGrants (d [1]) 101).1 = [])) ∧
    (takesBallast { loaded with quads := [(0, { gated := true })] } 0 = false ∧
     (divide (modelQuads loaded) loaded 0).1 = 0) ∧
    (let s := { loaded with now := windowTicks }
     s.now % windowTicks = 0 ∧ s.damper.win < s.now / windowTicks) ∧
    -- a deadline whose boundary has granted, with room left and without, one whose boundary has not, and one to come
    (∀ x ∈ [(windowTicks, 1, 100), (windowTicks, 1, 0), (windowTicks, 0, 0), (0, 0, 0)], let r := request 5 (some 1)
     let s := { loaded with now := x.1, damper := { reqs := [{ r with window := 1 }], win := x.2.1, room := x.2.2 } }
     s.damper.reqs.find? (fun r => r.id == 6) = some { r with window := 1 } ∧ r.deadline = some 1 ∧
     (1 ≤ s.now / windowTicks ↔ x.1 = windowTicks) ∧ (1 ≤ s.damper.win ↔ x.2.1 = 1) ∧ (stillFits s { r with window := 1 } = true ↔ x.2.2 = 100)) ∧
    (∀ p ∈ [0, 1], let x : Quad := { measure := 41, pass := BitVec.ofNat 2 p, quiet := 16 }
     x.ilim.toNat < x.measure ∧ x.pass.toNat < 2 ∧ 16 ≤ x.quiet ∧ (x.floor.toNat < x.pass.toNat ↔ p = 1)) := by decide +kernel

/-- A quad of tower 0 as given, with tower `t` in a state. -/
def power (q : Quad) (t : Nat := 7) (tw : Tower := {}) : State := { loaded with quads := [(0, q)], towers := [(t, tw)] }

theorem witness_power_commands_and_towers :
    -- Kiln busy, down, and free; arguments at the ends of their fields
    ({ loaded.kiln with busy := some (4, 0#64) }.busy.isSome = true ∧ kilnUp { loaded with kiln := { loaded.kiln with down := some 0 } } = false ∧
     kilnUp loaded = true ∧ loaded.kiln.busy = none ∧ (0x10000#64).toNat / 2 ^ 16 ≠ 0 ∧ (loaded.kiln.stopped && romAnswers loaded) = false ∧
     (let s := { loaded with kiln := { loaded.kiln with stopped := true, step := 1, down := some 0 } }
      (s.kiln.stopped && romAnswers s) = true)) ∧
    (let arg := 0x2800#64
     bits arg 0 14 = arg.toNat ∧ bits arg 10 2 ≠ 3 ∧ bits arg 12 2 ≠ 3 ∧ bits arg 0 10 = 0 ∧
     (∀ q ∈ [({} : Quad), { gated := false }, { gated := false, ratio := 2#2 }], (quadOf (power q) 0).stopUntil = none) ∧
     (quadOf (power { stopUntil := some 5 }) 0).stopUntil.isSome = true ∧ (quadOf (power { stopUntil := some 5 }) 0).nextOp = none ∧
     (quadOf (power { stopUntil := some 5, nextOp := some 1#64 }) 0).nextOp.isSome = true) ∧
    (bits 0x3FF#64 0 10 = (0x3FF#64).toNat ∧ quadBusy (power {}) 0 = true ∧ quadBusy (power {}) 0x3FF = false ∧
     (towerOf (power {}) (quadTower 0x3FF)).tstate = 0#2 ∧ (towerOf (power {} 7 { tstate := 2#2 }) (quadTower 0x3FF)).tstate ≠ 0#2) ∧
    (bits 7#64 0 3 = (7#64).toNat ∧ online (power {}) 7 = true ∧ 1 < ((List.range 8).filter (online (power {}))).length ∧
     online (power {} 7 { offlining := some 0 }) 7 = false ∧ (towerOf (power {} 7 { tstate := 3#2 }) 7).tstate = 3#2 ∧
     ({ power {} with t1 := true }.t1 = true ∧ (7 : Nat) ≠ 0 ∧ (power {}).t1 = false ∧ (towerOf { power {} with t1 := true } 0).tstate ≠ 3#2)) ∧
    (bits 400#64 0 9 = (400#64).toNat ∧ bits 0x800#64 0 12 = (0x800#64).toNat ∧ bits 0x800#64 10 2 ≠ 3 ∧
     bits 0x6907#64 0 3 + 256 * bits 0x6907#64 8 8 = (0x6907#64).toNat) ∧
    -- the towers
    (quadOf (power { stopUntil := some 0 }) 0).stopUntil = some 0 ∧ (towerOf (power {} 7 { offlining := some 0 }) 7).offlining.isSome = true ∧
    (let s := { power {} 7 { alrm := true, alrmAt := some 0 } with now := 20000000 * 3024 }
     (towerOf s 7).alarm.toNat ≤ (110#8).toNat ∧ (99#8).toNat < (towerOf s 7).alarm.toNat ∧ (towerOf s 7).alrmAt = some 0 ∧
     0 + 20000000 * 3024 ≤ s.now ∧ (towerOf s 7).tstate.toNat ≤ 1 ∧ (towerOf s 7).tstate ≠ 3#2 ∧
     (towerOf s 6).alrmAt = none ∧ (109#8).toNat < 110 ∧ 2 ≤ (towerOf (power {} 7 { tstate := 2#2 }) 7).tstate.toNat) := by decide +kernel

/-- An image that cannot be read is not accepted; that one is accepted is for the values of `Config` to say. -/
def badImage : KilnImage := { readable := false, key := [], version := 0#8, code := [], sig := [] }

def kilnState (k : Kiln) (now : Nat := 0) : State := { loaded with kiln := k, now := now }

/-- A tier die and a hub of an integrator, as discovery on a T1 finds them. -/
def partnerDie (blk : Nat) (kind : BitVec 4) (units : Byte) : IdentMsg :=
  { blk := blk, src := 0xFFF, kind := kind, inc := 0#16, credits := 4#8, firstUnit := 0#8, units := units, wiped := true, dev := 0#9 }

theorem witness_kiln_and_trust :
    (kilnUp (kilnState {}) = true ∧ (kilnState {}).kiln.stopped = false) ∧
    (let s := kilnState { down := some 0, atbusy := true } (100000000 * 3024)
     s.kiln.down = some 0 ∧ 0 + 100000000 * 3024 ≤ s.now ∧ s.kiln.restarting = false ∧ kilnUp s = false ∧ s.kiln.atbusy = true ∧
     s.kiln.stopped = false) ∧
    (∀ n ∈ [1, 2], ∀ u ∈ [true, false], let s := kilnState { restarting := true, step := n, unpublished := u }
     s.kiln.restarting = true ∧ (s.kiln.step = 1 ↔ n = 1) ∧ s.kiln.unpublished = u) ∧
    (flashFail (kilnState { restarting := true, flash := some badImage }) ≠ 0 ∧ imageFail (kilnState {}) badImage ≠ 0) ∧
    (flashFail (kilnState { restarting := true }) = 0 ∧ (kilnState { restarting := true }).kiln.flash = none) ∧
    (∀ x : KilnImage, x.readable = true → x.key.length = 32 → keyEnrolled (kilnState {}) (sha256 x.key) = true → x.sig.length = 7856 →
      slhDsaVerify x.key (imageBytes x) x.sig = true → Config.fusedMinVersion.toNat ≤ x.version.toNat →
      imageFail (kilnState {}) x = 0 ∧ flashFail (kilnState { restarting := true, flash := some x }) = 0) ∧
    (∀ p ∈ [3, 7], flashFail (resetKeep (kilnState { pending := BitVec.ofNat 3 p })) = 0) ∧
    -- the packages that discovery finds and does not find, and an image that is refused
    (let tier := partnerDie (towerBlk 0 2 0) 3 8
     let hub := partnerDie (towerBlk 0 3 0) 5 0
     layoutFound loaded.package.dies = true ∧ layoutFound [] = false ∧ partnersFound [tier, hub] = true ∧ partnersFound [tier] = false ∧
     partnersFound [hub, tier] = false ∧ flashFail (resetKeep (kilnState { flash := some badImage })) ≠ 0 ∧
     ∀ ds ∈ [[tier, hub], [tier]], flashFail (resetKeep { loaded with package := { t1 := true, dies := ds } }) = 0) ∧
    -- vector 3 of function 0, masked in its entry, of a function in D3hot, and in a boot that has stopped
    (msixHeld loaded 0 3 = false ∧ msixHeld { loaded with msixTab := [(7, BitVec.ofNat 64 (2 ^ 32))] } 0 3 = true ∧
     msixHeld { loaded with d3hot := [5] } 5 3 = true ∧ msixHeld { loaded with kiln := { loaded.kiln with stopped := true } } 0 3 = true) ∧
    (hbmSize < (hbmSize - 8111) + 8112 ∧ (hbmSize - 8112) + 8112 ≤ hbmSize ∧ (kilnState {}).kiln.identity = true ∧
      (kilnState { identity := false }).kiln.identity = false ∧ (kilnState { atbusy := true }).kiln.atbusy = true ∧
      kilnUp (kilnState { atbusy := true }) = true) ∧
    (∀ l ∈ [0, 1, 2, 3], bmcServed (kilnState { life := BitVec.ofNat 3 l }) = true) ∧ bmcServed (kilnState { life := 4#3 }) = false ∧
    (List.replicate 8112 0#8).length = 8112 ∧ tokenOk (kilnState {}) = false := by
  refine ⟨by decide +kernel, by decide +kernel, by decide +kernel, by decide +kernel, by decide +kernel, fun x h1 h0 h2 h3 h4 h5 => ?_, by decide +kernel,
    by decide +kernel, by decide +kernel, by decide +kernel, by decide +kernel, by decide +kernel, List.length_replicate, by decide +kernel⟩
  have hk : keyEnrolled (kilnState { restarting := true, flash := some x }) (sha256 x.key) = true := h2
  simp [imageFail, flashFail, kilnState, h0, h1, h3, h4] at *
  simp_all

/-- The device has run its boot, or has stopped in it, or the boot ROM answers; a vector of a function in D3hot is pending. -/
theorem witness_register_writes_of_the_host :
    (romAnswers loaded = false ∧ romAnswers (kilnState { restarting := true }) = true ∧ (List.replicate 8 1#8).length = 8 ∧
     loaded.kiln.dyn = none ∧ (0x7F : Nat) < 128 ∧ (0x7F : Nat) ≠ loaded.kiln.dyn.getD 0x3A) ∧
    (loaded.kiln.stopped = false ∧ (kilnState { stopped := true }).kiln.stopped = true ∧ loaded.t1 = false ∧ 4095 < 4096 ∧
     (let s := { loaded with d3hot := [5], msixPend := [(5, 2)] }
      (5, 2) ∈ s.msixPend ∧ msixHeld { s with d3hot := [] } 5 2 = false ∧ (1#64).getLsbD 0 = true ∧ (0#64).getLsbD 0 = false)) := by decide +kernel

/-- A carrying module changes a steering entry to one past the edge, or to one that stays; communicators; a change of the map. -/
theorem witness_system_register_writes :
    (∀ off ∈ [0, 0xEFFFF8, 0x1000000], off % 8 = 0 ∧ (off < 0xF00000 ∨ 0x1000000 ≤ off)) ∧
    ((4 : Nat) % 8 ≠ 0 ∧ 0xF00000 ≤ 0xF00000 ∧ 0xFFFFF8 < 0x1000000) ∧
    (hostReaches loaded 0 = true ∧ hostReaches loaded 63 = true ∧ hostReaches { loaded with d3hot := [63] } 63 = false ∧
     hostReaches loaded 64 = false ∧ loaded.pcieUp = true ∧ loaded.t1 = false ∧ (30#64).toNat = 30 ∧ (36#64).toNat = 36) ∧
    -- the map: no change; a change; one that is refused, and one while units leave
    (spCode loaded 7 47 = 1 ∧ unitRefused loaded 7 47 0 = false ∧ unitRefused loaded 7 47 15 = true ∧
     (towerOf loaded 7).busy = false ∧ spCode (spmapReads loaded 7 2 0#64) 7 47 = 1 ∧ (towerOf (power {} 7 { busy := true, leaving := [47] }) 7).busy = true) ∧
    (let s := { one [] with colls := [(4, posted)] }
     collCtx s posted = 0 ∧ posted.ctl.comm.toNat = 1 ∧ ∀ e ∈ s.colls, ¬(collCtx s e.2 = 63 ∧ e.2.ctl.comm.toNat = 63)) ∧
    (let stays := fun (s : State) (v : Word64) (j : Nat) => bits v (4 * j) 4 < edgeModules 0 ∧
       (bits v (4 * j) 4 ≠ bits (steerOf s 0 0) (4 * j) 4 → carrying s (towerBlk 0 0 (bits (steerOf s 0 0) (4 * j) 4)) = false)
     (∀ j < 16, stays loaded (steerOf loaded 0 0) j) ∧ ¬stays loaded 0xFFFFFFFFFFFFFFFF#64 15) ∧
    (let old := fun (j : Nat) => bits (fxsteerOf loaded 0) (8 * j) 5
     let up := { loaded with links := tput (portBlk (old 0)) { state := .active } loaded.links }
     (∀ j < 8, carrying loaded (portBlk (old j)) = false) ∧
     bits 0x1F1F1F1F1F1F1F1F#64 0 5 ≠ bits (fxsteerOf up 0) 0 5 ∧ carrying up (portBlk (bits (fxsteerOf up 0) 0 5)) = true) ∧
    (let s := { loaded with fxSet := true, fxself := 1 }
     (0x80000000000001FF#64).getLsbD 63 = true ∧ s.fxSet = true ∧ bits 0x80000000000001FF#64 0 9 ≠ s.fxself) := by decide +kernel

/-- A module and a port in a state, at both ends. -/
def linked (blk : Nat) (x : LinkEnd) : State := modEnds loaded blk (fun _ => x)

theorem witness_link_states_and_vertical_wires :
    (∀ blk ∈ [towerBlk 0 0 0, towerBlk 7 3 3, hubBlk 0 3, bridgeBlk 7 7, portBlk 31], blkOk loaded blk = true) ∧
    (∀ blk ∈ [towerBlk 0 0 0, portBlk 31], ∀ x ∈ [LinkState.down, .training, .active, .pausing, .paused, .retraining, .error, .failed],
        (linkAt (linked blk { state := x }) blk).state = x) ∧
    (isPort (portBlk 31) = true ∧ (0#2).toNat ≤ 0 ∧ isPort (towerBlk 0 0 0) = false ∧ (1#2).toNat ≤ 1 ∧ ¬(2#2).toNat ≤ 1) ∧
    -- trainings at both widths, whose lanes work, of which one half works, and of which neither does, at the first and the last attempt
    (∀ f ∈ [true, false], ∀ w ∈ [(0#2, ([] : List Nat), some false), (0#2, [5], none), (1#2, [40], some false), (1#2, [5], some true), (1#2, [5, 40], none)],
       ∀ n ∈ [0, 2], let s := linked (towerBlk 0 0 0) { state := .training, fromPaused := f, aim := w.1, attempts := n,
                                                        dead := BitVec.ofNat 64 ((w.2.1.map (2 ^ ·)).sum) }
      let x := linkAt s (towerBlk 0 0 0)
      x.fromPaused = f ∧ x.state = .training ∧ halfFor x.aim (lanesLost s (towerBlk 0 0 0)) = w.2.2 ∧ (x.attempts + 1 < 3 ↔ n = 0)) ∧
    (∀ w ∈ [(([] : List Nat), some false), ([5], none)], let s := linked (portBlk 31) { state := .retraining, dead := BitVec.ofNat 64 ((w.1.map (2 ^ ·)).sum) }
      let u := autoRepair s (portBlk 31)
      (linkAt s (portBlk 31)).state = .retraining ∧ halfFor (linkAt u (portBlk 31)).width (lanesLost u (portBlk 31)) = w.2) ∧
    (let h : FlitHeader := { cls := 0#3, rsvHigh := 0#5, rsvLow := 0#28, nmsg := 1#4, opc := 0#8, kind := 11#4 }
     h.cls = 0 ∧ 11 ≤ h.kind.toNat ∧ { h with nmsg := 0#4 }.nmsg = 0#4 ∧ 6 ≤ { h with cls := 6#3 }.cls.toNat) ∧
    (∀ n ∈ [3, 4], let s := { loaded with slices := [(2047, { spused := BitVec.ofNat 24 (n * 2 ^ 21) })] }
     (sliceOf s 2047).retired = false ∧ ((sliceOf s 2047).spused.extractLsb' (3 * 7) 3).toNat = n ∧
     (sliceOf s 2047).half.getLsbD 7 = false ∧ kilnUp s = true) ∧
    -- a beat of zeros with its CRC, the next of its bundle or not, and one whose CRC fails; a bundle that has failed and one that has not
    (let good : VwBeat := { bundle := 7, up := true, seq := 0#8, data := List.replicate 32 0#8, crc := 0#8 }
     good.data.length = 32 ∧ crc8 (good.data ++ [good.seq]) = good.crc ∧ tgetD (sliceOf loaded 2047).beats 15 0 = 0 ∧
     tgetD (sliceOf { loaded with slices := [(2047, { beats := [(15, 1)] })] } 2047).beats 15 0 = 1 ∧ crc8 (good.data ++ [good.seq]) ≠ 1#8) ∧
    (bundleFails (sliceOf loaded 2047) 7 = false ∧
     ∀ u ∈ [0, 0xE00000], let s := { loaded with slices := [(2047, { fails := [(15, 5)], spused := BitVec.ofNat 24 u })] }
      bundleFails (sliceOf s 2047) 7 = true ∧ (sliceOf s 2047).retired = false) := by decide +kernel

/-! ### Other agents, the host and nodes -/

def msg (blk : Nat) (src : Nat := 0xE05) (line : Nat := 8224) : Msg :=
  { blk := blk, src := src, inc := 0#16, sub := 0, tag := 3, line := line, wmask := 1#32, aop := 0#4, w64 := false, status := 0#3,
    val := 0#64, mask := 15#128, data := List.replicate 128 7#8, dsp := 0#2 }

/-- A read of the fabric line that has gone out. -/
def away (k : ReqKind) : Req := { access k with line := fabLine, out := true, tag := 3 }

/-- What arrives at port 0, and at the hub edge of tower 0 from the hub. -/
theorem witness_fabric_messages_arrive :
    -- a message that goes, one behind another, and one at a module that is down
    (let h := fabricPath fab 0 fabLine
     let m : OutMsg := { path := h, vc := 0, msg := .response 0xE05 0 3 0#3 0#64 }
     h ≠ [] ∧ outBehind fab.outbox m = false ∧ canGo fab m = true ∧ outBehind [m] m = true ∧ canGo (linked (portBlk 0) {}) m = false) ∧
    -- flits: the next, one out of sequence, one without a credit, one at a module that is down
    (let b := portBlk 0
     let x := linkAt fab b
     b ≠ 0 ∧ b ≠ hubPlace ∧ wireOk (msg b) = true ∧ wireOk { msg b with tag := 1024 } = false ∧
     (blkOk fab b && (x.state == .active || x.state == .pausing)) = true ∧ (msg b).seq.toNat = rxNext x 0 ∧ (1#16).toNat ≠ rxNext x 0 ∧
     32 ≤ heldOf { x with held := [(0, 32)] } 0 ∧ heldOf x 0 < 32 ∧ (linkAt fab (portBlk 1)).state = .down ∧
     ∀ vc < 6, (flitIn fab b vc 0#16 0#24).1 = true ∧ let u := (flitIn fab b vc 0#16 0#24).2
       (agentOf u 0xE05).isSome = true ∧ agentOf u 0xE06 = none ∧ (agentOf u 0xE05).map (fun a => (a.inc, a.assigned, a.state)) = some (0#16, true, .active) ∧
       dstKnown u 0xE01 = true ∧ dstKnown u 0xE06 = false) := by decide +kernel

theorem witness_fabric_requests :
    -- a request that arrives, crosses from the hub or waits there, and at its home
    (let m := { msg (portBlk 0) with dst := 0xE01 }
     (receive fab m 0).1 = true ∧ (receive fab { m with inc := 1#16 } 0).1 = false ∧
     (let u := (receive fab m 0).2
      pathReady u [hubHop u (homeTower u m.line) m.line] [0] [] = true) ∧
     (let s := linked (hubHop fab (homeTower fab m.line) m.line).1 {}
      let v := { fab with links := tput (portBlk 0) { state := .active } s.links }
      (receive v m 0).1 = true ∧ (let u := (receive v m 0).2
        pathReady u [hubHop u (homeTower u m.line) m.line] [0] [] = false)) ∧
     (toHome fab m 0 .armMonitor).1 = true ∧ (toHome fab m 0 .dropMonitor).1 = true ∧ (receive fab m 4).1 = true ∧
     (∀ d ∈ [0#2, 1#2, 2#2], let v := (receive fab m 4).2
       let m := { m with dsp := d }
       (crossHub v m 4 (if m.dsp = 0#2 then homeTower v m.line else coreTower (m.line / 2 ^ 33)) m.line id).1 = true)) ∧
    (localAgent 0xE05 = false ∧ servable fab 8224 = true ∧ servable fab fabLine = false ∧ fab.msgData = [] ∧
     (∀ k ∈ [0, 1, 2, 3, 4, 5, 6], (extRecall fab (msg 0) (extWords k (msg 0) (msg 0)) k).isNone = true ∧
       (extRecall { fab with spans := [{ line := 8224, agent := 0xE06, sub := 0, words := 0xFFFFFFFF#32, seq := 0 }] } (msg 0)
         (extWords k (msg 0) (msg 0)) k).isSome = true) ∧ (roomOf fab 8224 (coverRun 1#32) (some (0xE05, 0))).isNone = true) ∧
    (fab.spans = [] ∧ poisoned fab 8224 1#32 = false ∧ poisoned { fab with poison := [8224 * 32] } 8224 1#32 = true ∧
     (∀ i < 128, rangeOf (8224 * 128 + i) = .hbm ∧ isFar fab (8224 * 128 + i) = false) ∧ fab.t1 = false ∧ memWf fab.mem = true) ∧
    -- monitors, bridges and beats
    (localAgent 0x10 = true ∧ (watchersOf fab 8224).length < 16 ∧
     16 ≤ (watchersOf { fab with watchers := [(8224, List.replicate 16 (.thread (lane 0)))] } 8224).length ∧
     tierOk fab (msg 0x400 0x10) = true ∧ tget fab.cache 8224 = none ∧ pathReady fab [bridgeHop fab 0x400] [0] [1, 2] = true ∧
     tget { fab with msgData := [(msgKey (msg 0x400 0x10) 15, msg 0x400 0x10)] }.msgData (msgKey (msg 0x400 0x10) 15) = some (msg 0x400 0x10) ∧
     (recallRemote fab 8224 (maskWords 15#128) (.copyBeat (msg 0))).isNone = true ∧
     bufferTeam fab 0 0 (·.abuf) (fun _ tm => abufHeld fab tm) = some 0 ∧ bufferTeam fab 0 (1023 * 128) (·.wbuf) (wbufHeld fab) = some 0) := by decide +kernel

theorem witness_fabric_requests_and_room :
    -- four spans of other agents beside the run: a fifth makes the oldest go
     (let s := { fab with spans := [1, 2, 4, 8].map (fun w => { line := 8224, agent := 0xE06, sub := w, words := BitVec.ofNat 32 w, seq := w }) }
      (roomOf s 8224 (coverRun 16#32) (some (0xE05, 0))).isSome = true ∧ (extRecall s { msg 0 with wmask := 16#32 } (coverRun 16#32) 1).isNone = true) ∧
     -- a flit of this package's own agents that is not the next of its module
     (localAgent 0x10 = true ∧ (∀ q ∈ [0, 1], flitsArrive fab (towerBlk 1 1 0) = true ∧
       (q ≠ rxNext (linkAt fab (towerBlk 1 1 0)) 0 ↔ q = 1))) ∧
    -- an id of the wrong side
    (agentOf fab 0x10).isSome = true ∧ isPort (portBlk 0) ≠ decide (0xE00 ≤ 0x10) ∧ isPort (portBlk 0) = decide (0xE00 ≤ 0xE05) := by decide +kernel

theorem witness_fabric_answers :
    -- what a tier die answers
    (let m := { msg (towerBlk 1 2 0) 0x100 with dst := 0x11 }
     let s := { fab with agents := tput 0x100 { kind := 3, state := .active } fab.agents }
     localAgent m.src = false ∧ (receive s m 2).1 = true ∧ (tget (settleHub (receive s m 2).2).agents m.src).map (·.kind) = some 3 ∧
     tget fab.agents 0xE05 = none) ∧
    -- to a request, to a recall, to neither; a recall of another home; an owner that is silent
    (∀ k ∈ [ReqKind.read, .own, .uc, .prefetch, .write, .atomic], let m := { msg (portBlk 0) with line := farLine fabLine, dst := 0xE01 }
     let s := { fab with reqs := [(3, away k)] }
     (receive s m 1).1 = true ∧ (receive s m 2).1 = true ∧ ∀ vc ∈ [1, 2], let u := settleHub (receive s m vc).2
       answered u m = some (away k) ∧ recalled u m = none ∧ (away k).performed = false ∧ (crossBack u m vc (away k)).1 = true) ∧
    (let m := { msg (portBlk 0) with dst := 0xE01 }
     let c : Recall := { id := 3, agent := 0xE05, sub := 0, tag := 3, line := 8224, words := 1#32, sentAt := 0 }
     (∀ rs ∈ [[], [(3, c)]], let s := { fab with recalls := rs }
      (receive s m 2).1 = true ∧ let u := settleHub (receive s m 2).2
       recalled u m = (rs.head?).map (·.2) ∧ answered u m = none ∧ (crossIn u m 2 (homeTower u m.line) m.line).1 = true ∧
       (let w := (crossIn u m 2 (homeTower u m.line) m.line).2
        (awaited { w with msgData := tput (msgKey m 15) (atHome m) w.msgData } m).isNone = true)) ∧
     (receive fab m 3).1 = true ∧ (let u := settleHub (receive fab m 3).2
      (crossIn u m 3 (coreTower m.sub) m.line).1 = true) ∧
     (let u := { fab with recalls := [(3, c)], spans := [{ line := 8224, agent := 0xE05, sub := 0, words := 1#32, seq := 0 }], now := 20000 * 3024 }
      tget u.recalls 3 = some c ∧ c.sentAt + 20000 * 3024 ≤ u.now ∧ ∃ x ∈ u.spans, x.line = c.line ∧ x.agent = c.agent ∧ x.sub = c.sub)) := by
  decide +kernel

def ident (src : Nat) (blk : Nat) : IdentMsg :=
  { blk := blk, src := src, kind := 0#4, inc := 0#16, credits := 32#8, firstUnit := 0#8, units := 0#8, wiped := true, dev := 0#9 }

/-- Accesses through BAR4: one that succeeds in one piece at its home here, one that faults, and one of a page that is being moved. -/
def bar4State (off : Nat) : Bool × Bool × Bool :=
  let s := { loaded with bar4Log := [(0, 30)] }
  let ok := fun (w : Bool) (s : State) => match bar4Pieces 0 w (cutLines (bar4Va s 0 off) 8) s [] with
    | (.ok [p], u) => !isFar u p.x.pa && pathReady u (bar4Path u p) [0] [1, 2] && u.spans.isEmpty && !poisoned u p.line p.words
        && bar4Ready u [p] [0, 2] [1] && (bar4Recall u [p] .windowBoundary).isNone && farPieces u [p] == []
    | _ => false
  let held := { s with moves := [(7, { kind := .move, ctx := 0, va := 0, stage := 1 })] }
  (ok false s && ok true s, (match bar4Pieces 0 false (cutLines (bar4Va s 0 off) 8) s [] with | (.error (.inl _), _) => true | _ => false),
    (match bar4Pieces 0 false (cutLines (bar4Va held 0 off) 8) held [] with | (.error (.inr _), _) => true | _ => false))

theorem witness_control_messages :
    -- an agent that is known, here and of the fabric; one that is not; and a die that has no id yet
    (∀ x ∈ [(ident 0x10 (towerBlk 1 1 0), 0), ({ ident 0xE05 (portBlk 0) with kind := 6#4, dev := 5#9 }, 0), (ident 0xFF (towerBlk 1 1 0), 1),
        ({ ident 0xFFF (towerBlk 0 2 0) with kind := 3#4 }, 2)],
      let s := { fab with links := tput (towerBlk 0 2 0) { state := .active, peerId := 0xFFF } fab.links }
      let m := { x.1 with seq := BitVec.ofNat 16 (rxNext (linkAt s x.1.blk) 5) }
      (flitIn s m.blk 5 m.seq m.cret).1 = true ∧ let u := (flitIn s m.blk 5 m.seq m.cret).2
      kilnUp u = true ∧ m.dst = 0 ∧ (identAgent u m = 0xFFF ∧ isPort m.blk = false ↔ x.2 = 2) ∧
      ((agentOf u (identAgent u m)).isSome = true ↔ x.2 = 0) ∧ (x.2 = 0 → isPort m.blk = decide (0xE00 ≤ identAgent u m))) ∧
    -- ACCEPTs: of a die that waits for it under its incarnation and under another, of an id that is not assigned, and at a port
    (let s := { fab with agents := tput 0x100 { kind := 3, state := .absent, assigned := true } fab.agents }
     ∀ x ∈ [((0x100, towerBlk 1 2 0, 0#16) : Nat × Nat × Half), (0x100, towerBlk 1 2 0, 1#16), (0x1FF, towerBlk 1 2 0, 0#16), (0x100, portBlk 0, 0#16)],
      let m : AcceptMsg := { blk := x.2.1, src := x.1, inc := x.2.2, seq := BitVec.ofNat 16 (rxNext (linkAt s x.2.1) 5) }
      let u := (flitIn s m.blk 5 m.seq m.cret).2
      (flitIn s m.blk 5 m.seq m.cret).1 = true ∧ kilnUp u = true ∧ isPort m.blk = decide (x.2.1 = portBlk 0) ∧
      ((tget u.agents m.src).isSome = true ↔ x.1 = 0x100) ∧
      (agentOf u 0x100).map (fun a => (a.assigned, a.state, a.inc)) = some (true, .absent, 0#16)) := by decide +kernel

theorem witness_joining_and_host :
    kilnUp fab = true ∧ (agentOf fab 0x10).isSome = true ∧ (agentOf fab 0xE05).isSome = true ∧ controlPath fab 0xE05 ≠ [] ∧ 0xE05 - 0xE00 ≠ fab.fxself ∧
    fab.fxSet = true ∧
    (∀ st ∈ [AgentState.active, .failed, .refused, .absent], ∀ h ∈ [none, some 0],
      let s := { fab with agents := tput 0x100 { kind := 3, state := st, hello := h } fab.agents, now := 10000000 * 3024 }
      (agentOf s 0x100).map (fun x => (x.state, x.hello, x.assigned)) = some (st, h, true)) ∧
    (let f : FlitIn := { blk := portBlk 0, dst := 0xE01 }
     f.dst = 0xE00 + fab.fxself ∧ isPort f.blk = true ∧ (flitIn fab f.blk 5 f.seq f.cret).1 = true ∧
     let u := (flitIn fab f.blk 5 f.seq f.cret).2
     kilnUp u = true ∧ u.fxSet = true ∧ u.fxself = 1) ∧
    (hostReaches { fab with pcieUp := false } 0 = false ∧ hostReaches fab 0 = true ∧ 0 + 8 ≤ bar4Size fab 0 ∧ fab.t1 = false) ∧
    (let s := queueState (queue 3 5)
     (queueAt s 3).state ≠ .free ∧ (queueAt s 3).owner = 0 ∧ (queueAt s 4).state = .free) ∧
    bar4State 0x1000 = (true, false, true) ∧ bar4State 0x10000000 = (false, true, false) := by decide +kernel

/-- A node of the graph with PRED as given at the end of page 0. -/
def nodeAt (pred : Nat) : State :=
  let s := { mem1 with ctxs := [(0, { ctxOf loaded 0 with gtsize := 1, gtbase := 0x3000#64 })] }
  { s with mem := memWriteN s.mem (0x100000 + 0x3000 + 40) [BitVec.ofNat 8 pred] }

def preds (s : State) : Option (Nat × Nat) :=
  match virtPa s 0 (nodeVa s 0 0 + 40) true with
  | (some pa, u) =>
    let x := BitVec.ofNat 64 (leNat (physRead (unitTouch u pa 8) pa 8))
    if remoteSpans u (pa / 128) (wordMask (pa % 128) 8) = [] then some (wordState x, wordPred x) else none
  | (none, _) => none

theorem witness_forks_node_events_and_saves :
    (∀ n ∈ [0, 1, 31, 32], let s := { pair {} {} with
        teams := [(0, { probeTeam with hdr := { probeTeam.hdr with regs := 32 }, bars := [(1, armedBar)] })]
        groups := [(grpKey 0 0, { exm := 3#32, live := 3#32, s := [(4, BitVec.ofNat 64 n)] })] }
      meets { g := always } false 0xFFFFFFFF#32 s (packet [0, 1]) 0 [0, 1] [0, 1] = true ∧ 1 < (teamOf s 0).hdr.bars ∧ barTakes (barOf (teamOf s 0) 1) = true ∧
      (0#64 + (0xFFFFFFFC#32).signExtend 64).toNat % 4 = 0 ∧ (sregOf (grpOf s 0 0) 4).toNat = n ∧
      (let u := gathered { g := always } false 0xFFFFFFFF#32 s (packet [0, 1])
       (capacityFor u 0 n = true ↔ n ≤ 31) ∧ arrivedLanes u (packet [0, 1]) 0 = [0, 1] ∧
        ∃ v, releaseLanes (packet [0, 1]) 0 0 none (arrivedLanes u (packet [0, 1]) 0) u .done = .done v)) ∧
    (∀ md ∈ [0, 1], Alone (baseOpnds (base (BitVec.ofNat 4 md) 0 8 0) (if (BitVec.ofNat 4 md) = 0#4 then 1 else 0) 0 0) (nodeAt 1) packet (lane 0)) ∧
    (0 < (ctxOf (nodeAt 1) 0).gtsize ∧ Through (nodeAt 1) packet (lane 0) (BitVec.ofNat 64 (nodeVa (nodeAt 1) 0 0 + 40)) 8 { write := true, kind := 2 } 3 none) ∧
    -- nodes
    (∀ n ∈ [0, 1, 2], preds (nodeAt n) = some (0, n) ∧ (nodeAt n).spans = []) ∧ (ctxOf mem1 0).gtsize ≤ 0 ∧
    (let run : NodeRun := { ctx := 0, node := 0, hdr := {}, pooled := true }
     let s := { mem1 with nodes := [(0, run)], now := 100000 * 3024 }
     runOf s 0 0 = some run ∧ run.pooled = true ∧ run.since + 100000 * 3024 ≤ s.now) ∧
    -- saving
    (let s := { mem1 with ctxs := [(0, { ctxOf loaded 0 with state := .preempting, countSince := some 0, limit := 7 })], now := 7 }
     (ctxOf s 0).countSince = some 0 ∧ (ctxOf s 0).state = .preempting ∧ (ctxOf s 0).limit ≤ (ctxOf s 0).counted + (s.now - 0) ∧
     ∃ e ∈ ctxTeams s 0, e.2.state ≠ .saved ∧ e.2.state ≠ .exited) ∧
    (let s := { mem1 with ctxs := [(0, { ctxOf loaded 0 with state := .teardown })] }
     (ctxOf s 0).state = .teardown ∧ ctxWrites s 0 = false) ∧
    (let w : Stat := .waiting (.rendezvous true false 0xFFFFFFFF#32 (some 0))
     groupLanes.findSome? (stuckAt (pair { stat := w } { stat := w, pc := 8#64 }) 0 0) = some [0, 1]) := by
  refine ⟨fun n hn => ?_, by unfold Alone; decide +kernel, ⟨by decide +kernel, through (by decide +kernel)⟩, ?_⟩
  · refine ⟨?_, ?_, ?_, ?_, ?_, ?_, ?_, lanes_released _ _ ?_ ?_⟩ <;> (revert n; decide +kernel)
  · decide +kernel

/-! ### The machine as a whole -/

/-- An instruction of each length, well-formed. -/
theorem witness_decode_reads_what_encode_writes :
    ∀ i ∈ [Instr.iadd (alu 0 5 6 7), .iadd (alu 0 5 6 0 (.imm 0x100#32)), .exit (base 0 0 0 0)],
      instrWf i = true ∧ hasWords i = true := by decide +kernel

theorem witness_encode_writes_what_decode_reads :
    (decodeWords 0x8000000D#32 0x00000C02#32 0x100#32 0#32).isSome = true := by decide +kernel

theorem witness_steps_keep_memories_canonical :
    memWf State.reset.mem = true ∧ bufWf State.reset.hostMem = true ∧ isNext (step State.reset) = true := by decide +kernel

/-- The picker's cycle of the machine that `State.withFetchWord` leaves. -/
def placed : State := State.reset.withFetchWord 96 0x10000000C028000000D

def fetched (s : State) : Bool :=
  match s.agenda with
  | .pick core :: rest =>
    let v := { s with agenda := rest }
    match leader v (coreReady v core) with
    | some l => match fetchOver core (teamOf v l.1.team) (2 ^ 51 + 1) l.2.pc v with
      | (.instr i pc n, u) => !usesSfu i && n == 12 && decide ((coreOf u core).sfuUntil ≤ coreClock u core)
          && standIndex (countCycle u core (fillPacket (coreReady v core) l (isRendezvous i))) l i pc == none
      | _ => false
    | none => false
  | _ => false

/-- A T1 whose page 0 lies at an integrator's die, which has answered with the bytes of `IADD v5,v6,0x100`. -/
def elsewhere : State :=
  { placed with
    t1 := true
    agents := tput 0x11 { kind := 4, unit := 1, units := 1, state := .active } placed.agents
    mem := memWriteN placed.mem 155648 [0x1F#8, 0x50#8, 0x06#8, 0#8, 0#8, 0#8, 1#8, 0#8]
    farReads := [{ line := 0x20000000, bytes := [0x0D#8, 0#8, 0#8, 0x80#8, 2#8, 0xC#8, 0#8, 0#8, 0#8, 1#8] ++ List.replicate 118 0#8 }] }

theorem witness_a_step_runs_the_decoded_instruction :
    (match Machine.translate elsewhere (some 0) 0 0 fetchAccess with
     | .ok x u => isFar u x.pa && (match farRead u (x.pa / 128) with
       | some f => !f.bad && ((f.bytes.drop (x.pa % 128)).take 32).length == 32 && lenOf (wordAt ((f.bytes.drop (x.pa % 128)).take 32) 0) == some 12
           && (decodeBytes ((f.bytes.drop (x.pa % 128)).take 32)).isSome
       | none => false)
     | _ => false) = true ∧
    fetched placed = true ∧
    (match Machine.translate placed (some 0) 0 0 fetchAccess with
     | .ok x u => !isFar u x.pa && !poisoned u (x.pa / 128) (wordMask (x.pa % 128) 32) && (codeBlock u (teamOf placed 0) 0 x.pa).length == 32
         && (decodeBytes (codeBlock u (teamOf placed 0) 0 x.pa)).isSome && lenOf (wordAt (codeBlock u (teamOf placed 0) 0 x.pa) 0) == some 12
     | _ => false) = true ∧
    -- an event that is due, and nothing due
    ((dueEvent { State.reset with now := 302400 }).isSome = true ∧ State.reset.agenda = []) ∧
    (dueEvent State.reset = none ∧ dueSave State.reset = none ∧ dueMove State.reset = none ∧ duePicker State.reset = none ∧
      dueBallast State.reset = none ∧ State.reset.kiln.stopped = false) ∧
    (let s := { State.reset with kiln := { State.reset.kiln with stopped := true, down := some 0 } }
     dueEvent s = none ∧ dueSave s = none ∧ dueMove s = none ∧ duePicker s = none ∧ dueBallast s = none ∧ s.kiln.stopped = true) := by decide +kernel

end Sys2Proof.Tests
end

section
/-! The manual's worked encodings, and what the decoder, a fetch and a step make of an unassigned opcode (R51). -/

namespace Sys2Proof

/-! ## The opcode field and the map -/

/-- R31: OP is bits 10:2 of the first word. -/
theorem opcode_field (w0 w1 : Word32) : (fld (w1 ++ w0) 2 9).toNat = w0.toNat / 4 % 512 := by
  have h : fld (w1 ++ w0) 2 9 = w0.extractLsb' 2 9 := BitVec.extractLsb'_append_eq_of_add_le (by decide)
  rw [h, BitVec.extractLsb'_toNat, Nat.shiftRight_eq_div_pow]

/-- R49 to R51: no arm of the opcode map stands at an unassigned opcode. -/
theorem byOpcode_unassigned {op : Nat} (h : unassigned op) (len : Nat) (x : Word64) (e1 e2 : Word32) :
    byOpcode op len x e1 e2 = none := by
  unfold byOpcode
  unfold unassigned at h
  dsimp only
  split
  -- The default arm, the last, answers none; every other arm fixes an opcode outside the unassigned ranges.
  rotate_right
  · rfl
  all_goals omega

theorem decodeWords_of_no_arm {w0 w1 e1 e2 : Word32}
    (h : byOpcode (fld (w1 ++ w0) 2 9).toNat (fld (w1 ++ w0) 0 2).toNat (w1 ++ w0) e1 e2 = none) :
    decodeWords w0 w1 e1 e2 = none := by
  simp only [decodeWords, h]

theorem decodeWords_unassigned {w0 : Word32} (h : unassigned (w0.toNat / 4 % 512)) (w1 e1 e2 : Word32) :
    decodeWords w0 w1 e1 e2 = none :=
  decodeWords_of_no_arm (byOpcode_unassigned (by rwa [opcode_field]) _ _ _ _)

end Sys2Proof

namespace Sys2Proof.Machine

/-! ## What the scan of a block finds at a word that is no pad word (R28, R53) -/

section
variable {bs : List Byte} {pc : Word64} (n : Nat) (hpad : wordAt bs (pc.toNat % 32) ≠ 0xFFFFFFFF#32)
include hpad

theorem scanBlock_no_length (hl : lenOf (wordAt bs (pc.toNat % 32)) = none) : scanBlock bs (n + 1) pc = .bad fILLOP pc 0 := by
  simp only [scanBlock, if_neg hpad, hl]

theorem scanBlock_leaves_block {len : Nat} (hl : lenOf (wordAt bs (pc.toNat % 32)) = some len)
    (ho : 32 < pc.toNat % 32 + len) : scanBlock bs (n + 1) pc = .bad fFETCH_SPLIT pc 0 := by
  simp only [scanBlock, if_neg hpad, hl, if_pos ho]

theorem scanBlock_inside {len : Nat} (hl : lenOf (wordAt bs (pc.toNat % 32)) = some len)
    (ho : pc.toNat % 32 + len ≤ 32) :
    scanBlock bs (n + 1) pc =
      (decodeWords (wordAt bs (pc.toNat % 32)) (wordAt bs (pc.toNat % 32 + 4)) (wordAt bs (pc.toNat % 32 + 8))
        (wordAt bs (pc.toNat % 32 + 12))).elim (.bad fILLOP pc 0) (fun i => .instr i pc len) := by
  simp only [scanBlock, if_neg hpad, hl, if_neg (Nat.not_lt.mpr ho)]
  split <;> next hd => rw [hd]; rfl

theorem scanBlock_unassigned (hu : unassigned ((wordAt bs (pc.toNat % 32)).toNat / 4 % 512))
    (hin : ∀ len, lenOf (wordAt bs (pc.toNat % 32)) = some len → pc.toNat % 32 + len ≤ 32) :
    scanBlock bs (n + 1) pc = .bad fILLOP pc 0 := by
  cases hl : lenOf (wordAt bs (pc.toNat % 32)) with
  | none => exact scanBlock_no_length n hpad hl
  | some len => rw [scanBlock_inside n hpad hl (hin len hl), decodeWords_unassigned hu]; rfl

theorem scanBlock_instr_or_fault :
    (∃ i len, scanBlock bs (n + 1) pc = .instr i pc len) ∨ scanBlock bs (n + 1) pc = .bad fILLOP pc 0 ∨
      scanBlock bs (n + 1) pc = .bad fFETCH_SPLIT pc 0 := by
  cases hl : lenOf (wordAt bs (pc.toNat % 32)) with
  | none => exact .inr (.inl (scanBlock_no_length n hpad hl))
  | some len =>
    by_cases ho : 32 < pc.toNat % 32 + len
    · exact .inr (.inr (scanBlock_leaves_block n hpad hl ho))
    · rw [scanBlock_inside n hpad hl (Nat.le_of_not_lt ho)]
      cases decodeWords (wordAt bs (pc.toNat % 32)) (wordAt bs (pc.toNat % 32 + 4)) (wordAt bs (pc.toNat % 32 + 8))
        (wordAt bs (pc.toNat % 32 + 12)) with
      | none => exact .inr (.inl rfl)
      | some i => exact .inl ⟨i, len, rfl⟩

end

/-! ## What a picker cycle does with a fetch that faults (R53, R177) -/

/-- A list of threads with a leader is not empty, so a picker cycle looks at one thread at least. -/
theorem length_of_leader {s : State} {ready : List (ThrRef × Thread)} {l : ThrRef × Thread} (h : leader s ready = some l) :
    ∃ n, ready.length = n + 1 := by
  cases ready with
  | nil => simp only [leader, reduceCtorEq] at h
  | cons x r => exact ⟨r.length, rfl⟩

section
variable {s u : State} {core code aux : Nat} {l : ThrRef × Thread} {pc : Word64}

theorem chooseLeader_bad {ready : List (ThrRef × Thread)} (hl : leader s ready = some l)
    (hf : fetchOver core (teamOf s l.1.team) fetchBlocks l.2.pc s = (.bad code pc aux, u)) :
    chooseLeader core ready.length ready s = (some (l, .bad code pc aux), u) := by
  obtain ⟨n, hn⟩ := length_of_leader hl
  simp only [hn, chooseLeader, hl, hf]

/-- The packet of a leader at whose PC the fetch faults: it has no instruction, so its length is 0. -/
def faultingPacket (core : Nat) (l : ThrRef × Thread) (ts : List ThrRef) (pc : Word64) (c : State) : Packet :=
  { core := core, team := l.1.team, pc := pc, len := 0, thrs := ts.map (fun t => (t.gid, t.lane)), base := c.nextId }

theorem pickerCycle_bad (hl : leader s (coreReady s core) = some l)
    (hf : fetchOver core (teamOf s l.1.team) fetchBlocks l.2.pc s = (.bad code pc aux, u)) :
    pickerCycle s core =
      .run (.fetchFault (BitVec.ofNat 8 code) aux)
        { standingAt (fillPacket (coreReady s core) l false) pc (countCycle u core (fillPacket (coreReady s core) l false)) with
          cur := some (faultingPacket core l (fillPacket (coreReady s core) l false) pc
            (countCycle u core (fillPacket (coreReady s core) l false))) } := by
  simp only [pickerCycle, chooseLeader_bad hl hf]
  rfl

end

theorem choose_pick {s : State} {core : Nat} {rest : List Act} (h : s.agenda = .pick core :: rest) :
    choose s = pickerCycle { s with agenda := rest } core := by
  simp only [choose, h]

theorem step_of_run {s t : State} {i : Instr} (h : choose s = .run i t) : step s = endPacket (exec i t) := by
  simp only [step, h]

end Sys2Proof.Machine

namespace Sys2Proof

open Machine

theorem worked_encodings : workedEncodingsClaim :=
  ⟨⟨_, rfl, rfl, rfl, rfl, rfl, rfl⟩, ⟨_, rfl, rfl, rfl, rfl, rfl, rfl, rfl⟩, rfl, ⟨_, rfl⟩, ⟨_, rfl, rfl⟩, ⟨_, rfl, rfl⟩,
    ⟨_, rfl, rfl, rfl⟩, ⟨_, _, _, rfl, rfl, rfl⟩, rfl⟩

theorem unassigned_opcodes : unassignedOpcodesClaim := by
  refine ⟨fun _ w1 e1 e2 hu => decodeWords_unassigned hu w1 e1 e2, ?_, ?_, ?_⟩
  · intro bs n pc w hu hpad hin
    exact scanBlock_unassigned n hpad hu hin
  · intro bs pc hpad
    exact scanBlock_instr_or_fault 7 hpad
  · intro s u core code aux l pc rest v ready ts c p hagenda hl hf
    exact step_of_run ((choose_pick hagenda).trans (pickerCycle_bad hl hf))

/-- Settles O59: the worked encodings by evaluation; an unassigned opcode meets no arm of the opcode map, so the scan of its block
answers ILLOP, and a picker cycle passes the fault of a fetch on to the leader's packet. -/
theorem encodingsOfTheManual : Obligations.encodings_of_the_manual :=
  ⟨worked_encodings, unassigned_opcodes⟩

end Sys2Proof
end

section
/-! The asynchronous forms (R128 to R130, R148, R160): what launching a result leaves for its thread and for the state, what a
packet of such a form comes to, and the values that the forms launch. -/

namespace Sys2Proof.Machine

/-! ## What stands while results are launched -/

/-- From `s` to `t` results are launched and no other part that an operand, a clock or a result in flight rests on has changed: ids
grow, and the results with earlier ids and the events on the timers of the quads stand. -/
structure KeepsResults (s t : State) : Prop where
  now : t.now = s.now
  groups : t.groups = s.groups
  teams : t.teams = s.teams
  quads : t.quads = s.quads
  ids : s.nextId ≤ t.nextId
  asyncs : ∀ id, id < s.nextId → tget t.asyncs id = tget s.asyncs id
  timers : ∀ q k, ∀ e ∈ tgetD (tgetD s.ctimers q []) k [], e ∈ tgetD (tgetD t.ctimers q []) k []

namespace KeepsResults

variable {s t u : State}

theorem refl (s : State) : KeepsResults s s := ⟨rfl, rfl, rfl, rfl, Nat.le_refl _, fun _ _ => rfl, fun _ _ _ h => h⟩

theorem trans (h : KeepsResults s t) (h' : KeepsResults t u) : KeepsResults s u where
  now := h'.now.trans h.now
  groups := h'.groups.trans h.groups
  teams := h'.teams.trans h.teams
  quads := h'.quads.trans h.quads
  ids := Nat.le_trans h.ids h'.ids
  asyncs id hid := (h'.asyncs id (Nat.lt_of_lt_of_le hid h.ids)).trans (h.asyncs id hid)
  timers q k e he := h'.timers q k e (h.timers q k e he)

theorem ofSameBut (h : SameBut s t) : KeepsResults s t := by
  unfold SameBut at h; rw [h]; exact ⟨rfl, rfl, rfl, rfl, Nat.le_refl _, fun _ _ => rfl, fun _ _ _ h => h⟩

theorem modThr (h : KeepsResults s t) (r : ThrRef) (g : Thread → Thread) : KeepsResults s (Machine.modThr t r g) :=
  h.trans (ofSameBut ((SameBut.refl t).modThr r g))

theorem advance (h : KeepsResults s t) (r : ThrRef) (pc : Word64) : KeepsResults s (Machine.advance t r pc) := h.modThr r _

theorem makeWait (h : KeepsResults s t) (r : ThrRef) (w : WaitWhy) : KeepsResults s (Machine.makeWait t r w) := h.modThr r _

theorem modCore (s : State) (c : Nat) (g : Core → Core) : KeepsResults s (Machine.modCore s c g) :=
  ⟨rfl, rfl, rfl, rfl, Nat.le_refl _, fun _ _ => rfl, fun _ _ _ h => h⟩

theorem coreClock_eq (h : KeepsResults s t) (core : Nat) : coreClock t core = coreClock s core := by
  have hq : ∀ q, quadOf t q = quadOf s q := fun q => by simp only [quadOf, h.quads]
  simp only [coreClock, clockOf, hq, h.now]

theorem thrClock_eq (h : KeepsResults s t) (r : ThrRef) : thrClock t r = thrClock s r := by
  simp only [thrClock, thrCore, thrTeam, teamOf, h.teams, h.coreClock_eq]

theorem srcVal_eq (h : KeepsResults s t) (r : ThrRef) (th : Thread) (n : BitVec 10) (b : Bool) (k : Nat) :
    srcVal t r th n b k = srcVal s r th n b k := by
  simp only [srcVal, thrSreg, grpOf, h.groups]

theorem opA_eq (h : KeepsResults s t) {r : ThrRef} (hr : thrOf t r = thrOf s r) (u : AluUse) (f : Alu) :
    opA u f t r = opA u f s r := by
  simp only [opA, aluA, hr, h.srcVal_eq]

theorem opB_eq (h : KeepsResults s t) {r : ThrRef} (hr : thrOf t r = thrOf s r) (u : AluUse) (f : Alu) :
    opB u f t r = opB u f s r := by
  simp only [opB, aluB, hr, h.srcVal_eq]

theorem takesPart_eq (h : KeepsResults s t) {r : ThrRef} (hr : thrOf t r = thrOf s r) (o : Opnds) :
    takesPart o t r = takesPart o s r := by
  simp only [takesPart, teamOf, hr, h.teams]

end KeepsResults

theorem skips_of_thrOf_eq {s t : State} {r : ThrRef} (hr : thrOf t r = thrOf s r) (o : Opnds) : skips o t r = skips o s r := by
  simp only [skips, hr]

theorem Runs.transport {o : Opnds} {s t : State} {p : Packet} (h : Runs o s p) (hk : KeepsResults s t) (hc : t.cur = s.cur)
    (hr : ∀ r, thrOf t r = thrOf s r) : Runs o t p := by
  obtain ⟨hcur, hregs, hnd, hlt, hg⟩ := h
  refine ⟨hc.trans hcur, ?_, hnd, hlt, fun r hm => ?_⟩
  · simpa only [teamOf, hk.teams] using hregs
  · rw [skips_of_thrOf_eq (hr r), hk.takesPart_eq (hr r)]; exact hg r hm

theorem modThr_threads_ne (s : State) {r : ThrRef} (g : Thread → Thread) {k : Nat} (h : k ≠ thrKey r) :
    tget (modThr s r g).threads k = tget s.threads k := by
  simp [modThr, setThr, tget_tput, h]

/-! ## The timers of a quad -/

theorem mem_scheduleClk (s : State) (q k : Nat) (e : Instr) : e ∈ tgetD (tgetD (scheduleClk s q k e).ctimers q []) k [] := by
  simp [scheduleClk, tgetD_tput]

theorem mem_scheduleClk_of_mem {s : State} {q k q' k' : Nat} {e e' : Instr} (h : e' ∈ tgetD (tgetD s.ctimers q' []) k' []) :
    e' ∈ tgetD (tgetD (scheduleClk s q k e).ctimers q' []) k' [] := by
  by_cases hq : q' = q
  · subst hq
    by_cases hk : k' = k
    · subst hk; simp [scheduleClk, tgetD_tput, h]
    · simpa [scheduleClk, tgetD_tput, hk] using h
  · simpa [scheduleClk, tgetD_tput, hq] using h

/-! ## The destination of a launch -/

theorem regOf_dropReg_full (th : Thread) (dst : BitVec 10) :
    (regOf (dropReg th dst.toNat) dst.toNat).full = decide (dst = 0#10) := by
  by_cases h : dst = 0#10
  · simp [regOf, h]
  · have hn : dst.toNat ≠ 0 := fun e => h (BitVec.eq_of_toNat_eq e)
    simp [dropReg, regOf, hn, h, tgetD_tset]

@[simp] theorem dropReg_rng (th : Thread) (n : Nat) : (dropReg th n).rng = th.rng := by
  unfold dropReg; split <;> rfl

/-! ## Launching a result (R129) -/

section Launch

variable (s : State) (p : Packet) (r : ThrRef) (dst clocks : Nat) (val : Word32) (fl : FpFlags) (sync : Bool)

theorem thrOf_launchAsync : thrOf (launchAsync s p r dst clocks val fl sync) r = dropReg (thrOf s r) dst := by
  simp [launchAsync, newId, afterClocks, scheduleClk, thrOf, modThr, setThr, tgetD_tput]

theorem launchAsync_threads_ne {k : Nat} (h : k ≠ thrKey r) :
    tget (launchAsync s p r dst clocks val fl sync).threads k = tget s.threads k := by
  simp [launchAsync, newId, afterClocks, modThr, setThr, tget_tput, h]

@[simp] theorem launchAsync_nextId : (launchAsync s p r dst clocks val fl sync).nextId = s.nextId + 1 := rfl

theorem launchAsync_asyncs : (launchAsync s p r dst clocks val fl sync).asyncs =
    tput s.nextId { thr := r, dst := dst, val := val, flags := fl, sync := sync } s.asyncs := rfl

theorem mem_launchAsync_ctimers : Instr.asyncResultWrite s.nextId ∈
    tgetD (tgetD (launchAsync s p r dst clocks val fl sync).ctimers (coreQuad p.core) []) (coreClock s p.core + clocks) [] :=
  mem_scheduleClk _ _ _ _

theorem keepsResults_launchAsync : KeepsResults s (launchAsync s p r dst clocks val fl sync) where
  now := rfl
  groups := rfl
  teams := rfl
  quads := rfl
  ids := Nat.le_succ _
  asyncs id hid := by rw [launchAsync_asyncs, tget_tput, if_neg (Nat.ne_of_lt hid)]
  timers _ _ _ he := mem_scheduleClk_of_mem he

end Launch

/-! ## What an asynchronous form leaves for a thread -/

/-- A result for the register `dst` of `r` is in flight under an id not below `first`, due in core clock `due`. -/
def InFlight (p : Packet) (t : State) (r : ThrRef) (dst : Nat) (res : AluOut) (first due : Nat) : Prop :=
  ∃ id, first ≤ id ∧ id < t.nextId ∧
    (tget t.asyncs id).map (fun a => (a.thr, a.dst, a.val, a.flags)) = some (r, dst, lo32 res.val, res.flags) ∧
    Instr.asyncResultWrite id ∈ tgetD (tgetD t.ctimers (coreQuad p.core) []) due []

theorem InFlight.mono {p : Packet} {t t' : State} {r : ThrRef} {dst first first' due : Nat} {res : AluOut}
    (h : InFlight p t r dst res first' due) (hf : first ≤ first') (ht : KeepsResults t t') :
    InFlight p t' r dst res first due := by
  obtain ⟨id, hlo, hhi, hval, hdue⟩ := h
  exact ⟨id, Nat.le_trans hf hlo, Nat.lt_of_lt_of_le hhi ht.ids, by rw [ht.asyncs id hhi]; exact hval, ht.timers _ _ _ hdue⟩

section AsyncForm

variable (u : AluUse) (f : Alu) (fp : Bool) (clocks : Packet → ThrRef → Nat) (o : Thread → Word64 → Word64 → AluOut)

/-- Where the form raises flags, none that it raises in this thread is enabled to trap (R95, R130). -/
def Untrapped (s : State) (r : ThrRef) : Prop :=
  fp = true → maskBit (thrOf s r) f = true →
    (o (thrOf s r) (opA u f s r) (opB u f s r)).flags &&& fpcTraps (thrOf s r).fpc = 0#5

/-- What an asynchronous form that a packet executes in `s` has done for the thread `r` in `t`, as `Launches` says it. -/
def LaunchedFor (p : Packet) (s t : State) (r : ThrRef) : Prop :=
  let res := o (thrOf s r) (opA u f s r) (opB u f s r)
  (guardBit (thrOf s r) f.g = true → maskBit (thrOf s r) f = true →
    (regOf (thrOf t r) f.dst.toNat).full = decide (f.dst = 0#10) ∧ (thrOf t r).pc = p.next ∧ (thrOf t r).rng = res.rng ∧
    (thrOf t r).stat = (if fp = true ∧ fpcTraps (thrOf s r).fpc ≠ 0#5 then .waiting .result else .ready) ∧
    InFlight p t r f.dst.toNat res s.nextId (coreClock s p.core + clocks p r)) ∧
  (guardBit (thrOf s r) f.g = true → maskBit (thrOf s r) f = false →
    thrOf t r = stepped (thrClock s r) p.next (skipAlu u f (thrOf s r))) ∧
  (guardBit (thrOf s r) f.g = false → thrOf t r = stepped (thrClock s r) p.next (thrOf s r))

/-- The frame's step for the thread `r` in `s` raises no fault, does for `r` what `LaunchedFor` says, and nothing to other threads or
results. -/
def StepLaunches (p : Packet) (s : State) (r : ThrRef) : Prop :=
  ∃ t, stepThread (aluOpnds u f) p (asyncThread f u fp clocks (fun th a b _ => o th a b) p) r (s, []) = (t, []) ∧
    KeepsResults s t ∧ LaunchedFor u f fp clocks o p s t r ∧ ∀ k, k ≠ thrKey r → tget t.threads k = tget s.threads k

variable {u f fp clocks o} {p : Packet} {s s' t t' : State} {r : ThrRef}

theorem Untrapped.transport (h : Untrapped u f fp o s r) (hs : KeepsResults s s') (hr : thrOf s' r = thrOf s r) :
    Untrapped u f fp o s' r := by
  simpa only [Untrapped, hr, hs.opA_eq hr, hs.opB_eq hr] using h

/-- The launch for a thread may be told from an earlier state and of a later one, where the thread is as it was. -/
theorem LaunchedFor.mono (h : LaunchedFor u f fp clocks o p s' t r) (hs : KeepsResults s s') (hr : thrOf s' r = thrOf s r)
    (ht : KeepsResults t t') (hr' : thrOf t' r = thrOf t r) : LaunchedFor u f fp clocks o p s t' r := by
  simp only [LaunchedFor, hr, hs.opA_eq hr, hs.opB_eq hr, hs.coreClock_eq, hs.thrClock_eq] at h
  obtain ⟨hlaunch, hmasked, hskip⟩ := h
  simp only [LaunchedFor, hr']
  refine ⟨fun hg hm => ?_, hmasked, hskip⟩
  obtain ⟨hfull, hpc, hrng, hstat, hin⟩ := hlaunch hg hm
  exact ⟨hfull, hpc, hrng, hstat, hin.mono hs.ids ht⟩

/-! ## One thread of the packet -/

theorem stepThread_done {o : Opnds} {body : ThrRef → State → ThrOut} {pc : Word64} (h : takesPart o s r = true)
    (hb : body r s = .done t pc) (fs : List (ThrRef × Flt)) : stepThread o p body r (s, fs) = (advance t r pc, fs) := by
  obtain ⟨h1, h2, h3, h4, h5⟩ := (takesPart_iff o s r).mp h
  simp [stepThread, h1, h2, h3, h4, h5, hb]

theorem stepThread_left {o : Opnds} {body : ThrRef → State → ThrOut} (h : takesPart o s r = true)
    (hb : body r s = .left t) (fs : List (ThrRef × Flt)) : stepThread o p body r (s, fs) = (t, fs) := by
  obtain ⟨h1, h2, h3, h4, h5⟩ := (takesPart_iff o s r).mp h
  simp [stepThread, h1, h2, h3, h4, h5, hb]

/-- The state in which the result `res` of a thread has been launched, before the thread goes on or waits. -/
def launchedState (f : Alu) (clocks : Packet → ThrRef → Nat) (p : Packet) (s : State) (r : ThrRef) (res : AluOut) (sync : Bool) :
    State :=
  launchAsync (modThr s r (fun th => { th with rng := res.rng })) p r f.dst.toNat (clocks p r) (lo32 res.val) res.flags sync

theorem asyncThread_masked (h : maskBit (thrOf s r) f = false) (op : AluOp) :
    asyncThread f u fp clocks op p r s = .done (modThr s r (skipAlu u f)) p.next := by
  simp [asyncThread, h]

theorem asyncThread_waits (hm : maskBit (thrOf s r) f = true) (hu : Untrapped u f fp o s r)
    (hw : fp = true ∧ fpcTraps (thrOf s r).fpc ≠ 0#5) :
    asyncThread f u fp clocks (fun th a b _ => o th a b) p r s =
      .left (modThr (makeWait (launchedState f clocks p s r (o (thrOf s r) (opA u f s r) (opB u f s r)) true) r .result) r
        (fun th => { th with pc := p.next })) := by
  obtain ⟨rfl, htraps⟩ := hw
  have hnone := hu rfl hm
  simp only [opA, opB] at hnone
  have hsync : (fpcTraps (thrOf s r).fpc != 0#5) = true := bne_iff_ne.mpr htraps
  simp [asyncThread, hm, trapping, hnone, hsync, launchedState, opA, opB]

theorem asyncThread_goesOn (hm : maskBit (thrOf s r) f = true) (hw : ¬ (fp = true ∧ fpcTraps (thrOf s r).fpc ≠ 0#5)) :
    asyncThread f u fp clocks (fun th a b _ => o th a b) p r s =
      .done (launchedState f clocks p s r (o (thrOf s r) (opA u f s r) (opB u f s r)) false) p.next := by
  cases fp with
  | false => simp [asyncThread, hm, launchedState, opA, opB]
  | true =>
    have htraps : fpcTraps (thrOf s r).fpc = 0#5 := by simpa using hw
    simp [asyncThread, hm, trapping, htraps, launchedState, opA, opB]

theorem keepsResults_launchedState (res : AluOut) (sync : Bool) : KeepsResults s (launchedState f clocks p s r res sync) :=
  ((KeepsResults.refl s).modThr r _).trans (keepsResults_launchAsync _ _ _ _ _ _ _ _)

theorem launchedState_threads_ne (res : AluOut) (sync : Bool) {k : Nat} (h : k ≠ thrKey r) :
    tget (launchedState f clocks p s r res sync).threads k = tget s.threads k := by
  rw [launchedState, launchAsync_threads_ne _ _ _ _ _ _ _ _ h, modThr_threads_ne _ _ h]

theorem thrOf_launchedState (res : AluOut) (sync : Bool) :
    thrOf (launchedState f clocks p s r res sync) r = dropReg { thrOf s r with rng := res.rng } f.dst.toNat := by
  rw [launchedState, thrOf_launchAsync, thrOf_modThr_self]

theorem inFlight_launchedState (res : AluOut) (sync : Bool) : InFlight p (launchedState f clocks p s r res sync) r f.dst.toNat res
    s.nextId (coreClock s p.core + clocks p r) := by
  refine ⟨s.nextId, Nat.le_refl _, Nat.lt_succ_self _, ?_, mem_launchAsync_ctimers _ _ _ _ _ _ _ _⟩
  rw [launchedState, launchAsync_asyncs, modThr_nextId, tget_tput, if_pos rfl]
  rfl

/-- A thread whose result has been launched and that has then gone on to the next instruction, or waits there. -/
theorem launchedFor_of_launchedState {sync : Bool} {L : State} (hg : guardBit (thrOf s r) f.g = true)
    (hm : maskBit (thrOf s r) f = true) (hL : L = launchedState f clocks p s r (o (thrOf s r) (opA u f s r) (opB u f s r)) sync)
    (ht : KeepsResults L t)
    (hr : thrOf t r = { thrOf L r with
      stat := if fp = true ∧ fpcTraps (thrOf s r).fpc ≠ 0#5 then .waiting .result else .ready, pc := p.next,
      idleSince := thrClock L r }) : LaunchedFor u f fp clocks o p s t r := by
  subst hL
  refine ⟨fun _ _ => ⟨?_, ?_, ?_, ?_, (inFlight_launchedState _ sync).mono (Nat.le_refl _) ht⟩, fun _ h => ?_, fun h => ?_⟩
  · rw [hr, thrOf_launchedState]; exact regOf_dropReg_full _ _
  · rw [hr]
  · rw [hr, thrOf_launchedState, dropReg_rng]
  · rw [hr]
  · simp [hm] at h
  · simp [hg] at h

theorem stepThread_masked_or_skips (hg : skips (aluOpnds u f) s r = true ∨ takesPart (aluOpnds u f) s r = true)
    (h : ¬ (guardBit (thrOf s r) f.g = true ∧ maskBit (thrOf s r) f = true)) :
    StepLaunches u f fp clocks o p s r := by
  have hmask : guardBit (thrOf s r) f.g = true → maskBit (thrOf s r) f = false := fun hg => by simpa [hg] using h
  obtain ⟨t, hstep, hsame, hthr, hothers⟩ := stepThread_passed (aluOpnds u f) p
    (asyncThread f u fp clocks (fun th a b _ => o th a b) p) s s r [] (skipAlu u f) p.next (SameBut.refl s) rfl hg (fun hp => by
      obtain ⟨-, -, hguard, -, -⟩ := (takesPart_iff _ _ _).mp hp
      exact asyncThread_masked (hmask hguard) _)
  refine ⟨t, hstep, .ofSameBut hsame, ⟨fun hg hm => absurd ⟨hg, hm⟩ h, fun hg _ => ?_, fun hg => ?_⟩, hothers⟩
  · exact hthr.trans (if_pos hg)
  · exact hthr.trans (if_neg (Bool.eq_false_iff.mp hg))

theorem stepThread_launches (hp : takesPart (aluOpnds u f) s r = true) (hm : maskBit (thrOf s r) f = true)
    (hu : Untrapped u f fp o s r) : StepLaunches u f fp clocks o p s r := by
  obtain ⟨-, -, hg, -, -⟩ := (takesPart_iff _ _ _).mp hp
  let res := o (thrOf s r) (opA u f s r) (opB u f s r)
  by_cases hw : fp = true ∧ fpcTraps (thrOf s r).fpc ≠ 0#5
  · -- A trap is enabled: the thread waits for its result (R130).
    have hkeep := ((KeepsResults.refl (launchedState f clocks p s r res true)).makeWait r .result).modThr r
      (fun th => { th with pc := p.next })
    refine ⟨_, stepThread_left hp (asyncThread_waits hm hu hw) [], (keepsResults_launchedState res true).trans hkeep,
      launchedFor_of_launchedState hg hm rfl hkeep ?_, fun k hk => ?_⟩
    · rw [if_pos hw]; simp only [thrOf_modThr_self, makeWait]
    · exact (modThr_threads_ne _ _ hk).trans ((modThr_threads_ne _ _ hk).trans (launchedState_threads_ne res true hk))
  · have hkeep := (KeepsResults.refl (launchedState f clocks p s r res false)).advance r p.next
    refine ⟨_, stepThread_done hp (asyncThread_goesOn hm hw) [], (keepsResults_launchedState res false).trans hkeep,
      launchedFor_of_launchedState hg hm rfl hkeep ?_, fun k hk => ?_⟩
    · rw [if_neg hw]; simp only [thrOf_modThr_self, advance]
    · exact (modThr_threads_ne _ _ hk).trans (launchedState_threads_ne res false hk)

theorem stepThread_async (hg : skips (aluOpnds u f) s r = true ∨ takesPart (aluOpnds u f) s r = true)
    (hu : Untrapped u f fp o s r) : StepLaunches u f fp clocks o p s r := by
  by_cases h : guardBit (thrOf s r) f.g = true ∧ maskBit (thrOf s r) f = true
  · have hp : takesPart (aluOpnds u f) s r = true := hg.resolve_left (fun hs => by
      have hguard : guardBit (thrOf s r) (aluOpnds u f).g = true := h.1
      simp [skips, hguard] at hs)
    exact stepThread_launches hp h.2 hu
  · exact stepThread_masked_or_skips hg h

/-! ## The packet -/

/-- The threads are taken one after the other: a launch for one leaves the launches of the others as they are. -/
theorem foldl_stepThread_async (rs : List ThrRef) : ∀ s : State, (rs.map thrKey).Nodup →
    (∀ r ∈ rs, skips (aluOpnds u f) s r = true ∨ takesPart (aluOpnds u f) s r = true) → (∀ r ∈ rs, Untrapped u f fp o s r) →
    ∃ t, rs.foldl (fun acc r => stepThread (aluOpnds u f) p (asyncThread f u fp clocks (fun th a b _ => o th a b) p) r acc) (s, []) =
        (t, []) ∧
      KeepsResults s t ∧ (∀ r ∈ rs, LaunchedFor u f fp clocks o p s t r) ∧
      ∀ k, k ∉ rs.map thrKey → tget t.threads k = tget s.threads k := by
  induction rs with
  | nil => exact fun s _ _ _ => ⟨s, rfl, .refl s, by simp, fun _ _ => rfl⟩
  | cons r rs ih =>
    intro s hnd hg hu
    obtain ⟨hnotin, hnd'⟩ := List.nodup_cons.mp hnd
    obtain ⟨s₁, hstep, hkeep₁, hfor₁, hothers₁⟩ :=
      stepThread_async (p := p) (clocks := clocks) (hg r (by simp)) (hu r (by simp))
    have hsame : ∀ q ∈ rs, thrOf s₁ q = thrOf s q := fun q hq =>
      tgetD_of_tget _ (hothers₁ _ (fun e => hnotin (e ▸ List.mem_map_of_mem hq)))
    obtain ⟨t, hfold, hkeep, hfor, hothers⟩ := ih s₁ hnd'
      (fun q hq => by
        rw [skips_of_thrOf_eq (hsame q hq), hkeep₁.takesPart_eq (hsame q hq)]; exact hg q (List.mem_cons_of_mem r hq))
      (fun q hq => (hu q (List.mem_cons_of_mem r hq)).transport hkeep₁ (hsame q hq))
    refine ⟨t, by rw [List.foldl_cons, hstep]; exact hfold, hkeep₁.trans hkeep, fun q hq => ?_, fun k hk => ?_⟩
    · rcases List.mem_cons.mp hq with rfl | hq
      · exact hfor₁.mono (.refl s) rfl hkeep (tgetD_of_tget _ (hothers _ hnotin))
      · exact (hfor q hq).mono hkeep₁ (hsame q hq) (.refl t) rfl
    · simp only [List.map_cons, List.mem_cons, not_or] at hk
      rw [hothers k hk.2, hothers₁ k hk.1]

theorem nodup_thrKey {rs : List ThrRef} (hnd : rs.Nodup) (hlt : ∀ r ∈ rs, r.gid < 32 ∧ r.lane < 32) :
    (rs.map thrKey).Nodup :=
  List.pairwise_map.mpr (hnd.imp_of_mem (fun ha hb hne h => hne (thrKey_inj (hlt _ ha) (hlt _ hb) h)))

theorem runAsync_launched (h : Runs (aluOpnds u f) s p) (hu : ∀ r ∈ p.refs, Untrapped u f fp o s r) :
    ∃ t, runAsync u f fp clocks (fun th a b _ => o th a b) s = .next t ∧ ∀ r ∈ p.refs, LaunchedFor u f fp clocks o p s t r := by
  obtain ⟨hcur, hregs, hnd, hlt, hg⟩ := h
  obtain ⟨t, hfold, -, hfor, -⟩ := foldl_stepThread_async (p := p) (clocks := clocks) p.refs s (nodup_thrKey hnd hlt) hg hu
  refine ⟨t, ?_, hfor⟩
  simp only [runAsync, perThread, hcur, hregs, noIll, Bool.not_true, Bool.or_self, Bool.false_eq_true, if_false, runThreads, hfold,
    deliver_none]

/-- An instruction that is an asynchronous form launches what the form computes. -/
theorem launches_of_runAsync {i : Instr} (h : ∀ s, exec i s = runAsync u f fp clocks (fun th a b _ => o th a b) s) :
    Launches i u f fp clocks o := by
  intro s p hruns hu
  rw [h s]
  exact runAsync_launched hruns hu

end AsyncForm

/-! ## The special-function lanes (R129, R160) -/

/-- What a special function gives on its input: the exact value rounded under RNE, which is code 1. -/
def specialOut (h : FVal → FRes) (th : Thread) (a _b : Word64) : AluOut :=
  let r := fp32.finish 1 false (ftzOf th) 0 0#5 (h (fp32.readFtz (ftzOf th) (lo32 a).toNat))
  { val := BitVec.ofNat 64 r.1, flags := r.2, rng := th.rng }

theorem runSfu_eq {s : State} {p : Packet} (f : Alu) (h : FVal → FRes) (hc : s.cur = some p) :
    ∃ s₁, runSfu f h s = runAsync { kb := 0 } f true passClock (fun th a b _ => specialOut h th a b) s₁ ∧ KeepsResults s s₁ ∧
      s₁.cur = s.cur ∧ s₁.threads = s.threads := by
  refine ⟨_, by simp only [runSfu, hc]; rfl, ?_⟩
  split
  · exact ⟨.modCore s _ _, rfl, rfl⟩
  · exact ⟨.refl s, rfl, rfl⟩

theorem launches_of_runSfu {i : Instr} {f : Alu} {h : FVal → FRes} (hi : ∀ s, exec i s = runSfu f h s) :
    Launches i { kb := 0 } f true passClock (specialOut h) := by
  intro s p hruns hu
  obtain ⟨s₁, hrun, hkeep, hcur, hthreads⟩ := runSfu_eq f h hruns.1
  have hthr : ∀ r, thrOf s₁ r = thrOf s r := fun r => by simp only [thrOf, hthreads]
  obtain ⟨t, ht, hfor⟩ := runAsync_launched (clocks := passClock) (hruns.transport hkeep hcur hthr)
    (fun r hr => Untrapped.transport (o := specialOut h) (hu r hr) hkeep (hthr r))
  exact ⟨t, by rw [hi s, hrun, ht], fun r hr => (hfor r hr).mono hkeep (hthr r) (.refl t) rfl⟩

/-! ## Quotients and remainders (R148) -/

theorem divVal_eq (u : Bool) (a b : Word32) :
    divVal u a b = if b = 0#32 then 0xFFFFFFFF#32 else if u then a / b else a.sdiv b := by
  have hdiv : BitVec.ofNat 32 (a.toNat / b.toNat) = a / b := by rw [← BitVec.toNat_udiv, BitVec.ofNat_toNat, BitVec.setWidth_eq]
  have hsdiv : BitVec.ofInt 32 (a.toInt.tdiv b.toInt) = a.sdiv b :=
    BitVec.eq_of_toInt_eq (by rw [BitVec.toInt_ofInt, BitVec.toInt_sdiv])
  rw [divVal, hdiv, hsdiv]

theorem remVal_eq (u : Bool) (a b : Word32) :
    remVal u a b = if b = 0#32 then a else if u then a % b else a.srem b := by
  have hmod : BitVec.ofNat 32 (a.toNat % b.toNat) = a % b := by rw [← BitVec.toNat_umod, BitVec.ofNat_toNat, BitVec.setWidth_eq]
  have hsrem : BitVec.ofInt 32 (a.toInt.tmod b.toInt) = a.srem b := by rw [← BitVec.toInt_srem, BitVec.ofInt_toInt]
  rw [remVal, hmod, hsrem]

theorem integer_division : integerDivisionClaim := fun f => by
  refine ⟨launches_of_runAsync fun s => ?_, launches_of_runAsync fun s => ?_⟩
  · simp only [← divVal_eq]; rfl
  · simp only [← remVal_eq]; rfl

/-! ## A result rounded once (R41, R89, R154) -/

theorem rcOf_eq_modeOf (f : Alu) (th : Thread) : rcOf f th = modeOf f th := by
  simp only [rcOf, modeOf, fpcRm, BitVec.extractLsb'_toNat, Nat.shiftRight_eq_div_pow]

theorem fpOp_eq_roundedOnce (f : Alu) (h : Nat → FVal → FVal → FVal → FRes) : fpOp f h = roundedOnce f h := by
  funext th a b c
  simp only [fpOp, rcOf_eq_modeOf]
  rfl

theorem asynchronous_float_forms : asynchronousFloatFormsClaim := fun f => by
  have hdiv : ∀ s, exec (.fdiv f) s = runAsync {} f true (fun _ _ => 12)
      (fun th a b _ => roundedOnce f (fun _ x y _ => divRes x y) th a b 0#64) s := fun s =>
    congrArg (runAsync {} f true (fun _ _ => 12) · s) (fpOp_eq_roundedOnce f _)
  have hsqrt : ∀ s, exec (.sqrt f) s = runAsync { kb := 0 } f true (fun _ _ => 12)
      (fun th a b _ => roundedOnce f (fun _ x _ _ => sqrtRes x) th a b 0#64) s := fun s =>
    congrArg (runAsync { kb := 0 } f true (fun _ _ => 12) · s) (fpOp_eq_roundedOnce f _)
  exact ⟨launches_of_runAsync hdiv, launches_of_runAsync hsqrt, launches_of_runSfu fun _ => rfl, launches_of_runSfu fun _ => rfl,
    launches_of_runSfu fun _ => rfl, launches_of_runSfu fun _ => rfl, launches_of_runSfu fun _ => rfl,
    launches_of_runSfu fun _ => rfl, launches_of_runSfu fun _ => rfl⟩

end Sys2Proof.Machine

namespace Sys2Proof

open Machine

/-- Settles O9: every form is one fold of launches over the packet, and a launch for one thread leaves those of the others as they
are; the values are the quotient and the remainder of the words, or one rounding of the exact result. -/
theorem asynchronousFormsAreLaunched : Obligations.asynchronous_forms_are_launched :=
  ⟨integer_division, asynchronous_float_forms⟩

end Sys2Proof
end
